-- ==== Sys2Proof/Word.lean ====
section
/-! DEFINITION. The word types of the ALN3-48 manual and their plainest arithmetic.
Registers, addresses and header fields are bit vectors (00_scope.md R6); indexes that name a part of the
device are bounded numbers (01_architecture.md R11, 04_trays_racks_partitions.md R71, R84). -/

namespace Sys2Proof

abbrev Byte := BitVec 8
/-- A control and status register (23_register_map.md R403). -/
abbrev Word64 := BitVec 64
/-- A device byte address (06_task_engines_and_whisk.md R115 and others give 48 bits). -/
abbrev Addr := BitVec 48
/-- A step number (08_training_step.md R160). -/
abbrev Step := BitVec 32
/-- Islands 0 to 79 (R11). -/
abbrev Island := Fin 80
/-- Racks 0 to 47 (R71). -/
abbrev Rack := Fin 48
/-- Task slots 0 to 127 of a rack (R113). -/
abbrev SlotNo := Fin 128
/-- Partitions 0 to 7 (R84). -/
abbrev Part := Fin 8
/-- Command queues 0 to 15 (14_queros_host_link.md R283). -/
abbrev QueueNo := Fin 16
/-- Peel windows 0 to 7 (R286). -/
abbrev WinNo := Fin 8
/-- HBM stacks 0 to 11 (10_hbm_memory.md R204). -/
abbrev Stack := Fin 12
/-- CXL ports 0 to 3 (11_cellar.md R219). -/
abbrev CxlPort := Fin 4
/-- Link ports X+, X-, Y+, Y-, Z+, Z-, W+, W-, T as 0 to 8 (12_links_and_ordering.md R231). -/
abbrev Port := Fin 9
/-- Rails 0 to 9 (24_package_and_electrical.md R421). -/
abbrev Rail := Fin 10
/-- Steering groups 0 to 15 (07_precision_steering.md R148). -/
abbrev Group := Fin 16

end Sys2Proof
end

