-- ==== Sys2Proof/Syntax.lean ====
section
/-! DEFINITION. The commands of the block: one constructor of Instr for each row of spec/opcode_table.json,
and the operands they carry. The table gives its rows no operand fields, so the operands are those that the
row's rule names (a host command record, an arriving packet or frame, a measured value, which slot of which
rack). Each constructor's docstring names its rule. -/

namespace Sys2Proof

/-! ## Host command records -/

/-- A 64-byte command record (14_queros_host_link.md R281). The reserved bits are kept, since a non-zero one
completes the command with BAD_OPCODE (R284). -/
structure CmdRec where
  op   : BitVec 8
  crit : Bool
  rsv0 : BitVec 7
  htag : BitVec 16
  arg0 : BitVec 32
  addr : BitVec 48
  rsv1 : BitVec 16
  data : BitVec 64
  arg1 : BitVec 64
  ctr  : BitVec 64
  rsv5 : BitVec 64
  tag  : BitVec 128
  deriving DecidableEq, Repr

/-- A command record on its queue. `pok` says that the persistent writes which this command needs succeed
(16_trust.md R318, R321: the write may fail). -/
structure Cmd where
  q   : QueueNo
  r   : CmdRec
  pok : Bool
  deriving DecidableEq, Repr

/-! ## Packets (12_links_and_ordering.md) -/

/-- The body of a packet: the Kneader prefix and payload of R180, a parameter tile part (R238), snapshot and
fill data (13_recovery.md R257, R262), or a control word with the fields that R181, R246 and R262 list; FILL_REQ also
carries the coordinate to which its answers go (R262; entry 34). -/
inductive Body where
  | gseg (seg attempt route : Nat) (codes : List (BitVec 16))
  | ptile (tile part form route : Nat) (data : List Byte)
  | amax (mx : BitVec 32) (sum : BitVec 64) (count : Nat)
  | scale (attempt : Nat) (s : Int) (bound : Bool)
  | csum (seg attempt : Nat) (sum : BitVec 32) (void : Bool)
  | replay (attempt : Nat) (s : Int) (bound : Bool)
  | paramEnd (route tiles : Nat)
  | clear (count : Nat)
  | adopted (count : Nat)
  | commit
  | votes (tag : BitVec 32) (words : List (BitVec 64)) (mismatch : Bool)
  | combined (words : List (BitVec 64)) (mismatch : Bool)
  | sealReady
  | seal
  | rollback (repoch : BitVec 16)
  | fence (stream oldEpoch newEpoch : BitVec 16) (discard : Bool) (limit base : BitVec 32)
  | linkId (coord : BitVec 14) (port : Nat)
  | linkStandby
  | linkResume
  | fenced (coord : BitVec 14)
  | routeChanged
  | paramResend (rank : BitVec 14)
  | fillReq (repoch : BitVec 16) (rank : BitVec 14) (midx offset : Nat) (coord : BitVec 14)
  | fillEnd (repoch : BitVec 16) (midx bytes : Nat) (error : Bool)
  | fill (repoch : BitVec 16) (midx offset : Nat) (data : List Byte)
  | snap (midx offset : Nat) (data : List Byte)
  | snapAck
  | snapNak
  | handover (streams : List (BitVec 16 × BitVec 16 × BitVec 32))
  | restored (repoch : BitVec 16)
  | resume (repoch : BitVec 16)
  /-- Bytes that no kind of R238 spells: a reserved kind, or a body of the wrong length. -/
  | raw (bytes : List Byte)
  deriving DecidableEq, Repr

/-- A packet: the header of R237 and its body. `kind` is the code of R238. `crcOk` is the outcome of the
CRC-64 that a control word ends with (01_architecture.md R18); other kinds carry none. `part` is the partition
that recovery words carry (R262). `rsvOk` says that every reserved bit of the header and of the body's first word is zero
(R237, 09_kneader.md R180, 13_recovery.md R257). -/
structure Packet where
  kind   : BitVec 4
  detour : BitVec 4
  src    : BitVec 14
  dst    : BitVec 14
  dcoord : BitVec 14
  seq    : BitVec 32
  step   : BitVec 32
  stream : BitVec 16
  epoch  : BitVec 16
  bucket : BitVec 20
  part   : Part
  crcOk  : Bool
  rsvOk  : Bool := true
  body   : Body
  deriving DecidableEq, Repr

/-- The reading of a control word that a control flit's bytes spell: the manual gives its subtype a place and its fields
none (R238, R181, R262; entry 64), so the row that carries the flit says what the word is and whether its CRC-64 holds. -/
structure CtrlRead where
  body  : Body
  part  : Part
  crcOk : Bool
  deriving DecidableEq, Repr

/-! ## Recipe images (15_recipes.md)

The manual gives the header, the directory, the section headers and many records byte by byte; those are read from the image's
bytes. It gives no layout to the other records, nor the places of records within a section that holds several kinds: the
command that carries the image states those values and places (`ImageLay`; entry 10). -/

/-- A partition record (R299). -/
structure PartRec where
  part : Part
  discard : Bool
  proofK : BitVec 4
  proofSlots : Nat
  ageLimit : BitVec 24
  phase : BitVec 12
  racks : List Rack
  lfirst : Nat
  llast : Nat
  s0 : Step
  watchdog : Nat
  fscratch : Nat
  proofSeed : BitVec 32
  deriving DecidableEq, Repr

/-- A rack's GANGS record (R298); part = none stands for 0xF. -/
structure GangRec where
  rack : Rack
  part : Option Part
  gangStart : BitVec 32
  exclude : BitVec 32
  deriving DecidableEq, Repr

/-- A stream record (R298, 06_task_engines_and_whisk.md R126). -/
structure StreamRec where
  rack : Rack
  streamId : BitVec 16
  seed : BitVec 32
  deriving DecidableEq, Repr

/-- The region kinds of R300. -/
inductive RegionKind where
  | data | steering | proofRing | exchange | master | schedule | ring | fillmap | twinStore | scratch
  deriving DecidableEq, Repr

/-- A region record (R300); owner = none stands for common (04_trays_racks_partitions.md R85). -/
structure RegionRec where
  base : Nat
  size : Nat
  owner : Option Part
  kind : RegionKind
  deriving DecidableEq, Repr

/-- A staging window (05_feeders.md R95): a region of the rack's own store. -/
structure WinRec where
  rack : Rack
  win : Nat
  base : Nat
  size : Nat
  deriving DecidableEq, Repr

/-- A decoder record (11_cellar.md R221). -/
structure DecRec where
  index : Nat
  base : Nat
  size : Nat
  pways : Nat
  eways : Nat
  gran : Nat
  ports : List Nat
  ring : Bool
  dsps : List (List Nat)
  deriving DecidableEq, Repr

/-- An expected-expander entry (R224). -/
structure ExpectRec where
  port : Nat
  dsp : Nat
  serial : Word64
  capG : Nat
  deriving DecidableEq, Repr

/-- State of a routing entry (12_links_and_ordering.md R240). -/
inductive RtState where
  | unused | active | fenced
  deriving DecidableEq, Repr

/-- A routing entry: a coordinate in DCOORD form and a state (R240). -/
structure RtEntry where
  state : RtState
  coord : BitVec 14
  deriving DecidableEq, Repr

/-- The LINKS section (R298, R232). `table` lists the entries that are not unused. -/
structure LinksRec where
  dx : Nat
  dy : Nat
  dz : Nat
  dw : Nat
  coord : BitVec 14
  mirror : Bool
  twinNamed : Bool
  rank : BitVec 14
  table : List (Nat × RtEntry)
  twinBase : Nat
  twinSize : Nat
  drainLimit : Nat
  deriving DecidableEq, Repr

/-- Seal domain and seal root of a partition (08_training_step.md R161). -/
structure SealRec where
  part : Part
  domain : List Nat
  root : Nat
  deriving DecidableEq, Repr

/-- State of a Ledger entry (07_precision_steering.md R136). -/
inductive LState where
  | fixed | steady | settling | ceiling
  deriving DecidableEq, Repr

/-- A Ledger entry's fields (R136). -/
structure LedgerEntry where
  camaxO : BitVec 32 := 0
  camaxE : BitVec 32 := 0
  pin : Bool := false
  state : LState := .fixed
  group : BitVec 4 := 0
  cls : BitVec 5 := 0
  ncnt : BitVec 8 := 0
  wcnt : BitVec 5 := 0
  rung : BitVec 3 := 0
  cwO : BitVec 16 := 0
  cwE : BitVec 16 := 0
  deriving DecidableEq, Repr

/-- A policy class (R147). -/
structure ClassRec where
  rungs : List (BitVec 16)
  nrung : Nat
  ceil : Nat
  floor : Nat
  wpersist : Nat
  hyst : Nat
  pmin : Nat
  peWiden : BitVec 32
  peNarrow : BitVec 32
  satWiden : BitVec 32
  flushWiden : BitVec 32
  satNarrow : BitVec 32
  flushNarrow : BitVec 32
  uwqWiden : BitVec 32
  uwqNarrow : BitVec 32
  deriving DecidableEq, Repr

/-- A steering-group record (R148): member ranks, owner rank, bucket id, the partition, the Ledger range of its partition, and
the bytes of the records that its policy digest covers, as they stand in the image (R149). -/
structure GroupRec where
  group : Group
  part : Part
  members : List Nat
  owner : Nat
  bucket : BitVec 20
  lo : Nat
  hi : Nat
  policyBytes : List Byte
  deriving DecidableEq, Repr

/-- A task-slot entry address (06_task_engines_and_whisk.md R113). -/
structure EntryRec where
  rack : Rack
  slot : SlotNo
  addr : Nat
  deriving DecidableEq, Repr

/-- Bytes that a commit copies to an address: into a rack store (TASKS) or a DATA blob (R298). -/
structure BlobRec where
  addr : Nat
  bytes : List Byte
  deriving DecidableEq, Repr

/-- The functions of the Whisk whose results are bounded and not correctly rounded (R128). -/
inductive WhiskFn where
  | recip | rsqrt | exp2 | log2 | exp | log | tanh | sigmoid | erf | gelu | silu | sin | cos
  deriving DecidableEq, Repr

/-- The element-wise and row operations of the Whisk (R128). Register operands are vector register numbers; `inBf16` is the BF16 form of
an operation of the first group. -/
inductive WhiskOp where
  | loadResult (d : Nat)
  | loadParam (d k : Nat)
  | add (d a b : Nat) | sub (d a b : Nat) | mul (d a b : Nat) | fma (d a b c : Nat)
  | min (d a b : Nat) | max (d a b : Nat) | abs (d a : Nat) | neg (d a : Nat)
  | cmpLt (d a b : Nat) | select (d c a b : Nat)
  | div (d a b : Nat) | sqrt (d a : Nat)
  | approx (f : WhiskFn) (d a : Nat)
  | rowSum (d a : Nat) | rowMax (d a : Nat) | rowSumSq (d a : Nat) | colSum (d a : Nat)
  | toBf16 (d a : Nat) | toFp16 (d a : Nat)
  | store (a : Nat)
  | inBf16 (op : WhiskOp)
  deriving DecidableEq, Repr

/-- A fused-kernel library entry (R131 to R133). -/
inductive FusedKind where
  | normBwd | rmsBwd | attnBwd
  deriving DecidableEq, Repr

/-- A library entry: a Whisk program (R127) or a fused kernel (R131). -/
inductive LibEntry where
  | whisk (ops : List WhiskOp)
  | fused (k : FusedKind)
  deriving DecidableEq, Repr

/-- A bucket record (08_training_step.md R164). -/
structure BucketRec where
  bid : BitVec 20
  paired : Bool
  relcnt : Nat
  rrack : Rack
  owner : Nat
  acc : Nat
  nseg : Nat
  gret : Nat
  par0 : Nat
  par1 : Nat
  arack : Rack
  actr : Nat
  crack : Rack
  cctr : Nat
  cval : Nat
  lfirst : Nat
  llast : Nat
  rset : Nat
  deriving DecidableEq, Repr

/-- A parameter-map entry (09_kneader.md R200). -/
structure LayerMap where
  bid : BitVec 20
  layer : Nat
  o : Nat
  i : Nat
  moff : Nat
  wprg : Nat
  tprg : Nat
  deriving DecidableEq, Repr

/-- What a route names for one device: its parent port and rank (none at the owner, 0xF), and the port and rank of each child of
its child mask (R177). -/
structure RouteNode where
  rank : Nat
  parent : Option (Nat × Nat)
  children : List (Nat × Nat)
  deriving DecidableEq, Repr

/-- One route of a route set as this device holds it: its parent port (none at the owner, 0xF) and child mask,
and for each child port the rank of the logical child (R177, R179); with what the route names for every device. -/
structure Route where
  parent : Option Nat
  parentRank : Nat
  children : List (Nat × Nat)
  nodes : List RouteNode := []
  deriving DecidableEq, Repr

/-- A route set (R177). -/
structure RouteSet where
  rset : Nat
  owner : Nat
  members : List Nat
  routes : List Route
  deriving DecidableEq, Repr

/-- An owner record (R195); `const` is the address of the sixteen constants. -/
structure OwnerRec where
  bid : BitVec 20
  rset : Nat
  eng : Nat
  mw40 : Bool
  bound : Bool
  guardBits : Nat
  nstate : Nat
  uprog : Nat
  sched : Nat
  holders : Nat
  mg0 : Nat
  mg1 : Nat
  sg0 : Nat
  sg1 : Nat
  spitch : Nat
  pmap : Nat
  const : Nat
  deriving DecidableEq, Repr

/-- A schedule table (R194). -/
structure SchedRec where
  sched : Nat
  base : Nat
  len : Nat
  deriving DecidableEq, Repr

/-- The SNAPSHOT section of one partition (R298, 13_recovery.md R250, R256, R266, R267). -/
structure SnapRec where
  part : Part
  k : BitVec 16
  full : Bool
  ringBase : Nat
  slotSize : Nat
  rslots : Nat
  fillmap : Nat
  fillTimeout : Nat
  deriving DecidableEq, Repr

/-- A CLOCKS record (R298, 17_clocks_and_islands.md R330). -/
structure ClockRec where
  island : Island
  lo : BitVec 8
  hi : BitVec 8
  auto : Bool
  deriving DecidableEq, Repr

/-- What a directory entry says of its section, and the section's header: record count, record size, and whether its reserved bytes
are zero (R297). -/
structure DirEnt where
  type : Nat
  offset : Nat
  slen : Nat
  rsvOk : Bool
  count : Nat
  size : Nat
  headOk : Bool
  deriving DecidableEq, Repr

/-- An image as its bytes spell it: header fields (R295), directory (R297), and the records of its sections
(R298). `rsvOk` says that every reserved field of the header is zero (R294). `pkHash` is the SHAKE256 hash of PKEY (R296).
`policy` is the bytes of each partition's policy classes, lock maps and steering groups (16_trust.md R323). `bad` lists
the records that hold a reserved bit or value, as section type and record index (R7). -/
structure Image where
  magic : BitVec 32
  format : BitVec 16
  kind : BitVec 8
  part : BitVec 8
  length : Nat
  rsvOk : Bool
  imgid : Word64
  pkHash : BitVec 256
  dir : List DirEnt
  parts : List PartRec
  gangs : List GangRec
  streams : List StreamRec
  spE : Nat
  spW : Nat
  regions : List RegionRec
  windows : List WinRec
  decoders : List DecRec
  expected : List ExpectRec
  ide : List Bool
  links : Option LinksRec
  seals : List SealRec
  ledger : List (Nat × LedgerEntry)
  classes : List (Part × Nat × ClassRec)
  groups : List GroupRec
  policy : List (Part × List Byte)
  locks : List (Part × List Nat)
  entries : List EntryRec
  rackBytes : List BlobRec
  library : List (Part × Nat × LibEntry)
  buckets : List (Part × BucketRec)
  layers : List (Part × LayerMap)
  rsets : List (Part × RouteSet)
  owners : List (Part × OwnerRec)
  uprogs : List (Part × Nat × List (BitVec 32))
  scheds : List (Part × SchedRec)
  snaps : List SnapRec
  clocks : List ClockRec
  blobs : List (Part × BlobRec)
  bad : List (Nat × Nat)
  deriving DecidableEq, Repr

/-- Where a record or a string of bytes lies in an image, and whose it is. -/
structure RecAt where
  part : Part
  offset : Nat
  len : Nat
  deriving DecidableEq, Repr

/-- A seal domain's bitmap in the image, and the seal root, which has no stated place. -/
structure SealAt where
  part : Part
  offset : Nat
  root : Nat
  deriving DecidableEq, Repr

/-- A steering group, whose record has no stated layout: its values and the place of its bytes. -/
structure GroupAt where
  place : RecAt
  group : Group
  members : List Nat
  owner : Nat
  bucket : BitVec 20
  deriving DecidableEq, Repr

/-- A lock set: its number, its entries, and the place of its record's bytes. -/
structure LockAt where
  place : RecAt
  set : Nat
  entries : List Nat
  deriving DecidableEq, Repr

/-- Bytes of the image that a commit copies to an address. -/
structure CopyAt where
  part : Part
  addr : Nat
  offset : Nat
  len : Nat
  deriving DecidableEq, Repr

/-- A route set as the image states it, for every device (R177). -/
structure RouteSetAt where
  part : Part
  rset : Nat
  owner : Nat
  members : List Nat
  routes : List (List RouteNode)
  deriving DecidableEq, Repr

/-- What the bytes of an image do not settle by the manual's layouts: the values of records without a layout, and the places of
records with one inside sections that hold several kinds (entry 10). A place is an offset in the image. -/
structure ImageLay where
  spE : Nat
  spW : Nat
  regionCount : Nat
  windows : List WinRec
  decoderCount : Nat
  expected : List ExpectRec
  ide : List Bool
  links : Option LinksRec
  seals : List SealAt
  ledger : List RecAt
  classes : List (Nat × RecAt)
  groups : List GroupAt
  locks : List LockAt
  entries : List EntryRec
  rackBytes : List CopyAt
  library : List (Part × Nat × LibEntry)
  buckets : List (Nat × RecAt)
  layers : List (BitVec 20 × RecAt)
  rsets : List RouteSetAt
  owners : List RecAt
  uprogs : List (Nat × RecAt)
  scheds : List (Part × SchedRec)
  snaps : List SnapRec
  clocks : List ClockRec
  blobs : List CopyAt
  deriving DecidableEq, Repr

/-! ## Measurements and physical events -/

/-- What a survey measures on one island (19_ageing.md R359, R361): the four replica delays at the trim in
force, in picoseconds and corrected to 105 C, the two ring-oscillator counts, and the eye margin in units of
0.01 % where the island has an eye. -/
structure Meas where
  island : Island
  delays : List Nat
  stressed : Nat
  reference : Nat
  eye : Option Nat
  deriving DecidableEq, Repr

/-- What a full sweep measures on one island (R362): the four replica delays at each trim from -8 to +7 in
order, the oscillator counts and the eye. -/
structure Sweep where
  island : Island
  delays : List (List Nat)
  stressed : Nat
  reference : Nat
  eye : Option Nat
  deriving DecidableEq, Repr

/-- A junction reading in degrees Celsius (18_power_ladder.md R355). -/
structure Temp where
  island : Island
  celsius : BitVec 8
  deriving DecidableEq, Repr

/-- An error pattern that a sector read meets (10_hbm_memory.md R206), beside what the sector's own poison mark
says: none, one stored byte at a position, several stored bytes, or a sector read from a wrong address, whose
syndrome may locate an address position. -/
inductive ErrPat where
  | none
  | one (position : Nat)
  | many (bytes : Nat)
  | wrongAddr (symbols : Nat) (located : Option Nat)
  deriving DecidableEq, Repr

/-- An expander that answers enumeration (11_cellar.md R224). -/
structure ExpInfo where
  dsp : Nat
  serial : Word64
  capG : Nat
  deriving DecidableEq, Repr

/-- What a CXL island finds when it trains (R219, R224): lanes, rate in GT/s, whether a switch was found, and
the expanders behind it. -/
structure CxlFound where
  lanes : Nat
  rate : Nat
  switch : Bool
  exps : List ExpInfo
  deriving DecidableEq, Repr

/-- Why a link port is declared down (R236). -/
inductive DownReason where
  | resends | laneLock | codewords
  deriving DecidableEq, Repr

/-- Why a CXL port or expander is taken down (11_cellar.md R227, R228). -/
inductive CxlDownReason where
  | linkDown | retrainFail | expFatal | ide
  deriving DecidableEq, Repr

/-- Which hub failure is detected (13_recovery.md R261). -/
inductive HubCause where
  | heartbeat | monitor | stateError
  deriving DecidableEq, Repr

/-- Partition fault causes (04_trays_racks_partitions.md R88). -/
inductive FaultCause where
  | island | engine | stateUe | tray | shared | watchdog | host
  deriving DecidableEq, Repr

/-- Which operand or load a fill serves (05_feeders.md R94, R96; 06_task_engines_and_whisk.md R115 INIT). -/
inductive FillKind where
  | a | b | init
  deriving DecidableEq, Repr

/-- Requester classes of the memory error log (R213). -/
inductive Requester where
  | rackTask | updateEngine | snapshotEngine | peel | receiveGen | mergeUnit | scrub | controllerRmw | hubControl
  deriving DecidableEq, Repr

/-! ## The commands -/

/-- One constructor for each row of spec/opcode_table.json, in the table's order. -/
inductive Instr where
  /-- POWER_ON (R371, R427): PWROK rises; `aonOk` says that VDD_AON is above its power-on threshold. -/
  | powerOn (aonOk : Bool)
  /-- POWER_LOSS (R428). -/
  | powerLoss
  /-- BOOT (R314): the power-on reset of island 79, or the warm reset, is released. -/
  | boot
  /-- FIRMWARE_START (R314): slot verification ends; the two flags are the outcomes of the Falcon-1024 checks. -/
  | firmwareStart (sig0 sig1 : Bool)
  /-- BROWNOUT_RESPONSE (R351): a monitored rail falls below 93 %. -/
  | brownoutResponse (rail : Rail)
  /-- BROWNOUT_END (R352). -/
  | brownoutEnd
  /-- BROWNOUT_LONG (R353). -/
  | brownoutLong
  /-- BROWNOUT_RESET (R354, R372): a rail falls below 88 %. -/
  | brownoutReset (rail : Rail)
  /-- PIN_WARM_RESET (R371, R425): WRST_N has been held low for `ns` nanoseconds. -/
  | pinWarmReset (ns : Nat)
  /-- HOST_WAKE (R346, R425): HOST_WAKE_N has been held low for `ns` nanoseconds. -/
  | hostWake (ns : Nat)
  /-- THERMAL_THROTTLE (R355): one 100 us interval, with the sensors' readings. -/
  | thermalThrottle (temps : List Temp)
  /-- DUTY_RISE (R355): one 1 ms interval, with the sensors' readings. -/
  | dutyRise (temps : List Temp)
  /-- THERMAL_MAX (R356). -/
  | thermalMax (t : Temp)
  /-- THERMAL_TRIP (R356). -/
  | thermalTrip (t : Temp)
  /-- XTAL_CHECK_WINDOW (R328): crystal cycles counted in one window of 2,500 starter cycles. -/
  | xtalCheckWindow (count : Nat)
  /-- CRYSTAL_HANDOVER (R328). -/
  | crystalHandover
  /-- CLK_LOSS (R332): crystal cycles counted in two successive windows of 250 starter cycles. -/
  | clkLoss (count1 count2 : Nat)
  /-- ISL_COAST (R333). -/
  | islCoast (n : Island)
  /-- LAUNCH (R337): the launch timer reaches an armed target; a start-up or an S3 or S4 exit also runs the full
  sweep (R362), whose measurements the row carries. -/
  | launch (sweep : List Sweep)
  /-- PLAN_SWITCH (R331): the idle loop of an island has locked. -/
  | planSwitch (n : Island)
  /-- HEARTBEAT (R261). -/
  | heartbeat
  /-- HUB_FAILURE (R261) of island 78, or of island 79 when `is79`. -/
  | hubFailure (is79 : Bool) (cause : HubCause)
  /-- BRIDGE_REPLAY (R10): one replay of the failed flit of a bridge (0 East-hub, 1 West-hub, 2 East-West);
  `ok` says that the replayed flit passes its CRC. -/
  | bridgeReplay (bridge : Fin 3) (ok : Bool)
  /-- SELF_TEST_DONE (R76): the trays that fail, rack by rack. -/
  | selfTestDone (failed : List (Rack × BitVec 32))
  /-- DEVICE_READY (R374). -/
  | deviceReady
  /-- SURVEY (R361). -/
  | survey (meas : List Meas)
  /-- DAILY (R367). -/
  | daily
  /-- QUEROS_TRAINING (R278): the lanes that equalise. -/
  | querosTraining (lanes : BitVec 8)
  /-- TRAINING_RETRY (R278). -/
  | trainingRetry (lanes : BitVec 8)
  /-- FRAME (R279): the 256 bytes of a received frame. -/
  | frame (bytes : List Byte)
  /-- CREDIT (R280): the 256 bytes of a received credit frame. -/
  | credit (bytes : List Byte)
  /-- REG_READ (R282). -/
  | regRead (c : Cmd)
  /-- REG_WRITE (R407). -/
  | regWrite (c : Cmd)
  /-- PEEL_SET (R286). -/
  | peelSet (c : Cmd)
  /-- PEEL_CLOSE (R289). -/
  | peelClose (c : Cmd)
  /-- COMMIT (R301). -/
  | commit (c : Cmd)
  /-- DIGEST_PASS (R302): the pass ends; `lay` states what the image's bytes do not settle, `sigOk` is the outcome of the
  Falcon-1024 check of SIG under PKEY, `ue` a word that the pass found uncorrectable. -/
  | digestPass (lay : ImageLay) (sigOk : Bool) (ue : Option Nat)
  /-- APPLY_PASS (R304); `ue` is a word that the apply pass found uncorrectable. -/
  | applyPass (ue : Option Nat)
  /-- KEY_INSTALL (R318); `sigOk` is the outcome of the Falcon-1024 check; `stored` says that the write of the record succeeds, as
  `pok` says it of the write that the counter needs. -/
  | keyInstall (c : Cmd) (sigOk : Bool) (stored : Bool)
  /-- DEBUG (R324). -/
  | debug (c : Cmd) (sigOk : Bool)
  /-- ATTEST (R323); `rnd` is the random bytes that the identity-key signature draws. -/
  | attest (c : Cmd) (rnd : List Byte)
  /-- NOP (R282). -/
  | nop (c : Cmd)
  /-- COMMAND_WARM_RESET (R374). -/
  | commandWarmReset (c : Cmd)
  /-- FABRIC_RESET (R377). -/
  | fabricReset (c : Cmd)
  /-- PARTITION_RESET (R378). -/
  | partitionReset (c : Cmd)
  /-- RACK_RESET (R378). -/
  | rackReset (c : Cmd)
  /-- FLUSH (R292): a write of QRS_QCFG_q.FLUSH. -/
  | flush (c : Cmd)
  /-- WRITE_BURST (R288): header fields and data. -/
  | writeBurst (w : WinNo) (bid : BitVec 16) (blen : Nat) (data : List Byte)
  /-- READ_BURST (R288); `ue` is the address of a word of an SRAM that its read finds uncorrectable (R18). -/
  | readBurst (w : WinNo) (bid : BitVec 16) (blen : Nat) (ue : Option Nat)
  /-- EVENT_SEND (R291). -/
  | eventSend
  /-- CHALLENGE_READ (R324): a REG_READ of CRU_CHAL_0. -/
  | challengeRead (c : Cmd)
  /-- MBOX_ACCESS (R326): a REG_READ or REG_WRITE of CRU_MBOX_DATA. -/
  | mboxAccess (c : Cmd)
  /-- AGE_LOG_READ (R370): a REG_READ of AGE_LOG_DATA. -/
  | ageLogRead (c : Cmd)
  /-- INREADY_WRITE (R175). -/
  | inreadyWrite (c : Cmd)
  /-- CLKOUT_WRITE (R339). -/
  | clkoutWrite (c : Cmd)
  /-- SNP_CTL_WRITE (R275). -/
  | snpCtlWrite (c : Cmd)
  /-- TRACE_ENABLE (R395). -/
  | traceEnable (c : Cmd)
  /-- COUNTER_CLEAR (R394). -/
  | counterClear (c : Cmd)
  /-- READABLE_COPY (R394). -/
  | readableCopy (n : Rack)
  /-- STAGE (R316); `sigOk` is the outcome of the Falcon-1024 check. -/
  | stage (c : Cmd) (sigOk : Bool)
  /-- LOCK (R316). -/
  | lock (c : Cmd)
  /-- RELOCK (R334). -/
  | relock (c : Cmd)
  /-- ENTER (R344). -/
  | enter (c : Cmd)
  /-- EXIT (R346). -/
  | exit (c : Cmd)
  /-- AGE_APPLY (R365). -/
  | ageApply (c : Cmd)
  /-- DISCARD_PROPOSALS (R370). -/
  | discardProposals (c : Cmd)
  /-- RUN (R308). -/
  | run (c : Cmd)
  /-- HALT (R308). -/
  | halt (c : Cmd)
  /-- HALTED (R308). -/
  | halted (p : Part)
  /-- HALT_FAULT (R308). -/
  | haltFault (c : Cmd)
  /-- RETRY (R125). -/
  | retry (c : Cmd)
  /-- PIN (R157). -/
  | pin (c : Cmd)
  /-- UNPIN (R157). -/
  | unpin (c : Cmd)
  /-- CLEAR_CEIL (R157). -/
  | clearCeil (c : Cmd)
  /-- FREEZE (R157). -/
  | freeze (c : Cmd)
  /-- THAW (R157). -/
  | thaw (c : Cmd)
  /-- HOSTACK (R258). -/
  | hostack (c : Cmd)
  /-- HOLD (R256). -/
  | hold (c : Cmd)
  /-- RING_SLOT_RELEASE (R275). -/
  | ringSlotRelease (c : Cmd)
  /-- FENCE_SELF (R260). -/
  | fenceSelf (c : Cmd)
  /-- ROLLBACK (R264). -/
  | rollback (c : Cmd)
  /-- RESTORE (R265). -/
  | restore (c : Cmd)
  /-- FILL (R265). -/
  | fill (c : Cmd)
  /-- MIGRATE_DRAIN (R268). -/
  | migrateDrain (c : Cmd)
  /-- MIGRATE_DISCARD (R269). -/
  | migrateDiscard (c : Cmd)
  /-- HOSTFILL (R266). -/
  | hostfill (c : Cmd)
  /-- ADD_ENTRY (R214). -/
  | addEntry (c : Cmd)
  /-- CLEAR_LIST (R214). -/
  | clearList (c : Cmd)
  /-- SET_ARMED (R215). -/
  | setArmed (c : Cmd)
  /-- LINK_RETRAIN (R249). -/
  | linkRetrain (c : Cmd)
  /-- LINK_TAKE_DOWN (R249). -/
  | linkTakeDown (c : Cmd)
  /-- APPLY (R242). -/
  | apply (c : Cmd)
  /-- DISCARD_STAGED (R249). -/
  | discardStaged (c : Cmd)
  /-- SETRANK (R242). -/
  | setrank (c : Cmd)
  /-- CXL_RETRAIN (R228, R230). -/
  | cxlRetrain (c : Cmd)
  /-- CXL_TAKE_DOWN (R230). -/
  | cxlTakeDown (c : Cmd)
  /-- CXL_ENUMERATION (R224): what the port found, or none after 100 ms. -/
  | cxlEnumeration (n : CxlPort) (found : Option CxlFound)
  /-- STEP_OPEN (R161). -/
  | stepOpen (p : Part)
  /-- DESCRIPTOR_FETCH (R114). `ue` is the address of a word that the read finds uncorrectable (R18). -/
  | descriptorFetch (n : Rack) (i : SlotNo) (ue : Option Nat)
  /-- LOOP (R114). -/
  | loop (n : Rack) (i : SlotNo)
  /-- END (R114). -/
  | endDesc (n : Rack) (i : SlotNo)
  /-- SYNC_ISSUE (R118). -/
  | syncIssue (n : Rack) (i : SlotNo)
  /-- LATCH (R105); `ue` is a Ledger index whose entry is found uncorrectable (R138). -/
  | latch (n : Rack) (i : SlotNo) (ue : Option Nat)
  /-- FILL_DONE (R96): `ue` is the address of a word that the source read or the window write finds uncorrectable. -/
  | fillDone (n : Rack) (i : SlotNo) (k : FillKind) (ue : Option Nat)
  /-- PICK (R122): one rack-island cycle. -/
  | pick (n : Rack)
  /-- CLASS_AGEING (R122). -/
  | classAgeing (n : Rack) (i : SlotNo)
  /-- ISSUE (R97). -/
  | issue (n : Rack) (i : SlotNo)
  /-- DEMAND_RELEASE (R98). -/
  | demandRelease (n : Rack) (i : SlotNo)
  /-- RESULT_READY (R70): `ue` is the address of a word that a stager read finds uncorrectable (R100). -/
  | resultReady (n : Rack) (i : SlotNo) (ue : Option Nat)
  /-- WHISK_PASS (R130). -/
  | whiskPass (n : Rack) (i : SlotNo)
  /-- OPERATION_COMPLETE (R118). -/
  | operationComplete (n : Rack) (i : SlotNo)
  /-- SIGNAL (R118): a signal reaches counter `ctr` of rack `n` with the effective step of its descriptor. -/
  | signal (n : Rack) (ctr : Fin 64) (inc : BitVec 16) (step : Step)
  /-- PROOF_TASK_COMPLETE (R144): the proof task of a proof slot. -/
  | proofTaskComplete (n : Rack) (i : SlotNo)
  /-- STATS_MERGE (R141): a line of a rack's Sieve cache, named by Ledger index and step parity, is merged. -/
  | statsMerge (n : Rack) (index : Nat) (odd : Bool)
  /-- WINDOW_CLOSE (R150). -/
  | windowClose (p : Part)
  /-- STEERING_RECORD (R151). -/
  | steeringRecord (k : Packet)
  /-- WATCHDOG (R88). -/
  | watchdog (p : Part)
  /-- PARTITION_FAULT (R89): the cause detected, and the island that failed. -/
  | partitionFault (p : Part) (cause : FaultCause) (n : Island)
  /-- ADMISSION (R182) of a bucket at a step. -/
  | admission (bid : BitVec 20) (step : Step)
  /-- AMAX (R183). -/
  | amax (k : Packet)
  /-- SCALE (R184). -/
  | scale (k : Packet)
  /-- GSEG (R185). -/
  | gseg (k : Packet)
  /-- CSUM (R188). -/
  | csum (k : Packet)
  /-- REPLAY (R190). -/
  | replay (k : Packet)
  /-- UPDATE_DONE (R193); `ue` is the address of a word that the engine's read of generation A or state finds uncorrectable (R201). -/
  | updateDone (bid : BitVec 20) (step : Step) (ue : Option Nat)
  /-- PTILE (R198). -/
  | ptile (k : Packet)
  /-- PARAM_END (R198). -/
  | paramEnd (k : Packet)
  /-- ADOPTED (R181). -/
  | adopted (k : Packet)
  /-- COMMIT_WORD (R169). -/
  | commitWord (k : Packet)
  /-- CLEAR (R166). -/
  | clear (k : Packet)
  /-- SEAL_READY (R170). -/
  | sealReady (k : Packet)
  /-- SEAL (R170). -/
  | seal (k : Packet)
  /-- ROLLBACK_WORD (R173). -/
  | rollbackWord (k : Packet)
  /-- ROUTE_CHANGED (R242). -/
  | routeChanged (k : Packet)
  /-- PARAM_RESEND (R262). -/
  | paramResend (k : Packet)
  /-- PORT_TRAINED (R233). -/
  | portTrained (n : Port)
  /-- LINK_ID (R233). -/
  | linkId (n : Port) (k : Packet)
  /-- FLIT (R236): the 512 bytes of a received flit; `fec` counts the codewords that were corrected for it, none where one was
  uncorrectable; `reads` is the reading of its control words, in order. -/
  | flit (n : Port) (bytes : List Byte) (fec : Option Nat) (reads : List CtrlRead)
  /-- LINK_DOWN (R236). -/
  | linkDown (n : Port) (why : DownReason)
  /-- LINK_STANDBY (R349). -/
  | linkStandby (n : Port)
  /-- LINK_RESUME (R349). -/
  | linkResume (n : Port)
  /-- FENCED (R260). -/
  | fenced (n : Port) (k : Packet)
  /-- PACKET (R240): a packet that the flits of a port have completed. -/
  | packet (n : Port) (k : Packet)
  /-- FENCE (R246). -/
  | fence (k : Packet)
  /-- DRAIN_LIMIT (R246) of the entry keyed by source and stream. -/
  | drainLimit (src : BitVec 14) (stream : BitVec 16)
  /-- HBM_READ (R206) of a sector of a stack by a requester. -/
  | hbmRead (k : Stack) (sector : Nat) (who : Requester) (rid : Nat) (pat : ErrPat)
  /-- HBM_WRITE (R207): bytes of one sector with their enables, from a requester. -/
  | hbmWrite (k : Stack) (sector : Nat) (who : Requester) (rid : Nat) (bytes : List (Option Byte))
  /-- READ_MODIFY_WRITE (R207). -/
  | readModifyWrite (k : Stack) (sector : Nat) (pat : ErrPat)
  /-- PATROL_SCRUB (R210). -/
  | patrolScrub (k : Stack) (pat : ErrPat)
  /-- STACK_FAIL (R212). -/
  | stackFail (k : Stack)
  /-- NDR (R225): a write completion of a CXL port, for the request with this number. -/
  | ndr (n : CxlPort) (req : Nat)
  /-- DRS (R227): read data, or poison. -/
  | drs (n : CxlPort) (req : Nat) (poison : Bool)
  /-- TIMEOUT (R227) of the request with this number; `read` is the address of one that a row makes whole (a fill, an engine's or the
  Snapshot Engine's access), which has no number. -/
  | timeout (n : CxlPort) (req : Nat) (read : Option Nat)
  /-- CXL_LINK_DOWN (R228). -/
  | cxlLinkDown (n : CxlPort) (dsp : Fin 8) (why : CxlDownReason)
  /-- SNAP (R257). -/
  | snap (k : Packet)
  /-- SNAP_ACK (R258). -/
  | snapAck (k : Packet)
  /-- SNAP_NAK (R258). -/
  | snapNak (k : Packet)
  /-- FILL_REQ (R262). -/
  | fillReq (k : Packet)
  /-- FILL_PACKET (R266). -/
  | fillPacket (k : Packet)
  /-- FILL_END (R266). -/
  | fillEnd (k : Packet)
  /-- FILL_TIMEOUT (R267). -/
  | fillTimeout (p : Part)
  /-- RESTORED (R265). -/
  | restored (k : Packet)
  /-- RESUME (R265). -/
  | resume (k : Packet)
  /-- HANDOVER (R268). -/
  | handover (k : Packet)
  /-- PEER_TRAINING (R236). -/
  | peerTraining (n : Port)
  /-- DUTY_RETURN (R356). -/
  | dutyReturn (temps : List Temp)
  /-- RUNG_ENTRY_DONE (R345). -/
  | rungEntryDone
  /-- VOTE_RECORD (R151). -/
  | voteRecord (k : Packet)
  /-- TRACE_WRITE (R398). -/
  | traceWrite (n : Rack)
  /-- FABRIC_RESET_DONE (R377). -/
  | fabricResetDone
  /-- WRST_N_RISE (R374). -/
  | wrstNRise
  deriving DecidableEq, Repr

end Sys2Proof
end

