-- ==== Sys2Proof/Config.lean ====
section
/-! DEFINITION. What an implementation of the ALN3-48 fixes, and the free values: constants with no body, so
that a claim holds whatever they are. Each names the log entry that declares it. -/

namespace Sys2Proof.Config

/-- A value that the manual leaves open at run time (entry 13): the n-th one. -/
opaque freeValue : Nat → BitVec 64

/-- The 1,793 bytes of the Askano root key, whose hash the boot ROM holds (16_trust.md R311; entry 9). -/
opaque rootKey : Nat → Byte

/-- The value of a Whisk function where its result is not stated (06_task_engines_and_whisk.md R128): an infinite operand, a logarithm of no
positive number, an angle beyond 2^16; by function, FP64 or FP32, and operand (entry 12). -/
opaque whiskApprox : WhiskFn → Bool → BitVec 64 → BitVec 64

/-- Which of the codes within the error bound of R128 a function answers, by function, FP64 or FP32, and operand (entry 12). -/
opaque whiskUlp : WhiskFn → Bool → BitVec 64 → Nat

/-- A lane of a vector register that its program has not written (R127; entry 12), by register and element. -/
opaque whiskUnset : Nat → Nat → BitVec 64

/-- A rack's proof ring by the digest of the recipe that places it, and the rack: which of the partition's proof-ring regions holds it, its
offset there, the bytes of a slot, and how many slots it has beyond one, taken modulo 64 (07_precision_steering.md R143: the recipe places
the ring, and no section says how it states the four; entry 25). -/
opaque proofRing : BitVec 256 → Nat → Nat × Nat × Nat × Nat

/-- The 64-byte header of a proof slot (R143 names what it holds and gives it no layout; entry 25): from the step, the tile's rows and
columns, the Ledger index and direction of each eligible write, and the seed. -/
opaque proofHeader : BitVec 32 → Nat → Nat → List (Nat × Bool) → BitVec 32 → Nat → Byte

/-- What a fused kernel's parameter block holds (06_task_engines_and_whisk.md R131 to R133; entry 28): features F, column or key tiles,
head width, score layer, the constant (epsilon or the softmax scale, FP32), Ledger indexes and addresses by their place. -/
structure FusedPar where
  feats : Nat
  tiles : Nat
  head : Nat
  score : Nat
  konst : BitVec 32
  ents : List Nat
  progs : List Nat
  deriving DecidableEq, Repr, Inhabited

/-- The reading of a fused kernel's parameter block: the manual names its contents and gives it no layout (entry 28). -/
opaque fusedPar : FusedKind → List Byte → FusedPar

/-- The bytes of a control word: its subtype in byte 0, its fields, and the CRC-64 (12_links_and_ordering.md R238; no code of
a subtype, no place of a field and no polynomial is stated; entry 64). -/
opaque wordBytes : Body → Part → List Byte

/-- Which of the codes within 1 unit in the last place RSQRT of an update program answers (09_kneader.md R196; entry 12). -/
opaque updateUlp : BitVec 32 → Nat

/-- HOURS^(1/4) in units of 2^-32, as the fit of 19_ageing.md R368 takes it (entry 24): the manual states no precision. -/
opaque hoursRoot : Nat → Nat

/-- The pad of a schedule shard (13_recovery.md R254: its layout is private to the firmware; entry 23): the bytes of a shard
are those of the model's own layout, each combined by exclusive or with a byte that nothing here fixes. -/
opaque shardPad : Nat → Byte

/-- Parents in a seal tree (08_training_step.md R161: a spanning tree derived from the routing table, by no rule given; entry 14):
for the i-th rank of the domain in order, the root first, with the ranks and their coordinates, a number whose remainder by i
names its parent's place. -/
opaque sealTree : Nat → List (Nat × Nat) → Nat

/-- The CODE of an event, by its place among the names that the manual gives (14_queros_host_link.md R290: the manual states the number of
STEP_PHASE alone; entry 11). -/
opaque eventCode : Nat → BitVec 16

/-- The 48-byte payload of an event other than STEP_PHASE, whose raising chapter names what it holds and gives it no layout (R290; entry
11): from its place among the names and its values. -/
opaque eventPayload : Nat → List Int → Nat → Byte

/-- The bytes of HELLO, from the part number, the revision and the width (R278 gives them no layout; entry 11). -/
opaque helloBytes : BitVec 16 → Nat → Nat → List Byte

/-- The shared secret that ML-KEM-1024 decapsulation gives, from the device KEM key's private part and the ciphertext
(16_trust.md R319; entry 9). -/
opaque decaps : List Byte → List Byte → List Byte

/-- A Falcon-1024 signature under a private key of a 256-bit digest, with the random bytes that the scheme draws (16_trust.md R323;
entry 9). -/
opaque falconSign : List Byte → BitVec 256 → List Byte → List Byte

/-- Where host software places a shard, or the manifest, for a partition without a ring (13_recovery.md R266 gives FILL_HOST its
destination and does not say which): by partition and manifest index. -/
opaque fillHostAt : Nat → Nat → Nat

/-- Nominal frequency in 4 MHz steps (17_clocks_and_islands.md R329, R330). Island 79 always reports 0x19. -/
def nominalCode (n : Nat) : BitVec 8 :=
  if n < 48 then 235
  else if n < 60 then 150
  else if n < 62 then 250
  else if n < 75 then 200
  else if n < 76 then 125
  else if n < 79 then 250
  else 25

/-- Permitted plan range in 4 MHz steps, lowest and highest (R329). -/
def permitted (n : Nat) : Nat × Nat :=
  if n < 48 then (200, 250)
  else if n < 60 then (150, 160)
  else if n < 62 then (220, 255)
  else if n < 75 then (200, 210)
  else if n < 76 then (125, 130)
  else if n < 79 then (225, 255)
  else (25, 25)

end Sys2Proof.Config
end

