-- ==== Sys2Proof/Machine/State.lean ====
section
/-! DEFINITION. The state of the device: every register, buffer, queue, mode and pin that the manual gives it,
as plain data, with each field's reset value as its default. Tables are lists of key and value pairs with
rising keys and no entry equal to the table's default, so that equal tables are equal data. -/

namespace Sys2Proof.Machine

/-- Faults. No modelled command raises one (entry 2): what the manual calls a fault is state. -/
inductive Fault where
  /-- Raised by no meaning; kept so that the type is inhabited. Safe: it would only stop a run. -/
  | none
  deriving DecidableEq, Repr

/-- Refusals. -/
inductive Refusal where
  /-- A row whose meaning is not written yet. Raised by an arm of exec alone. Safe: it only stops a run. -/
  | notModelled (mnemonic : String)
  deriving DecidableEq, Repr

/-- A finite table by number. -/
abbrev Tab (α : Type) := List (Nat × α)

/-! ## Islands and island 79 -/

/-- Power state of an island (18_power_ladder.md R342). -/
inductive Pow where
  | on | retention | off
  deriving DecidableEq, Repr

/-- One island: its power, clock and ageing state (R341, R370). -/
structure IslandSt where
  pow : Pow
  stopped : Bool := false
  coast : Bool := false
  halved : Bool := false
  onStarter : Bool := false
  hi : BitVec 8
  lo : BitVec 8
  cur : BitVec 8
  locking : Option (BitVec 8 × BitVec 4) := none
  auto : Bool := false
  trim : BitVec 4 := 0
  aplan : BitVec 8
  atrim : BitVec 4 := 0
  pvalid : Bool := false
  plow : Bool := false
  ptrim : BitVec 4 := 0
  pcode : BitVec 8 := 0
  pcommitted : Bool := false
  eye : BitVec 8 := 0xFF
  margin : BitVec 8 := 0xFF
  wear : BitVec 16 := 0
  sens : Int := 0
  d7 : Nat := 0
  worst : BitVec 8 := 0xFF
  projValid : Bool := false
  projHours : BitVec 32 := 0xFFFFFFFF
  history : List (Nat × Nat) := []
  temp : BitVec 8 := 0
  deriving DecidableEq, Repr

/-- An island as power-on leaves it: 79 On, the others Off, at the nominal plan (R342, R366, R374). -/
def IslandSt.dflt (n : Nat) : IslandSt :=
  { pow := if n = 79 then .on else .off
    hi := Config.nominalCode n, lo := Config.nominalCode n, cur := Config.nominalCode n
    aplan := Config.nominalCode n }

/-- A firmware image as a slot holds it (16_trust.md R313, R314): its bytes, and what its header and its digests give. -/
structure FwImage where
  image : List Byte := []
  version : BitVec 32
  digest : BitVec 256
  pkHash : BitVec 256
  deriving DecidableEq, Repr

/-- A record of the ageing log (19_ageing.md R367); its CHECK is computed when it is read. -/
structure AgeRec where
  seq : BitVec 64
  kind : BitVec 8
  hours : BitVec 32
  margin : List (BitVec 8)
  data : List (BitVec 8)
  trim : List (BitVec 4)
  tjmax : BitVec 8
  deriving DecidableEq, Repr

/-- The persistent store (16_trust.md R313) as a new device holds it, with the private parts of the device's keys in the key store
(R311). -/
structure Persist where
  serial : BitVec 64 := 0
  idKey : List Byte := []
  kemKey : List Byte := []
  certSig : List Byte := []
  idPriv : List Byte := []
  kemPriv : List Byte := []
  owners : Tab (Option (BitVec 256)) := []
  oseq : BitVec 64 := 0
  fwSlot0 : Option FwImage := none
  fwSlot1 : Option FwImage := none
  fwMin : BitVec 32 := 0
  hq : Tab (BitVec 64) := []
  onHours : BitVec 32 := 0
  boots : BitVec 32 := 0
  tripped : Bool := false
  tripCause : BitVec 8 := 0
  brst : BitVec 16 := 0
  brRail : BitVec 8 := 0
  ageLog : Tab AgeRec := []
  ageSeq : BitVec 64 := 0
  deriving DecidableEq, Repr

/-- What an armed launch does (17_clocks_and_islands.md R338). -/
inductive LaunchAction where
  | startup
  | selfTest
  | rungExit (rung : Nat)
  | streamRelease (p : Nat)
  | relock
  deriving DecidableEq, Repr

/-- An armed launch (R337). -/
structure Armed where
  target : BitVec 48
  islands : List Nat
  action : LaunchAction
  deriving DecidableEq, Repr

/-- Kinds of device reset (20_resets_and_retention.md R371, R383). -/
inductive ResetKind where
  | powerOn | brownout | pinWarm | commandWarm
  deriving DecidableEq, Repr

/-- How far start-up has come (16_trust.md R314, R315; 20 R374). -/
inductive BootPhase where
  | held | rom | firmware | recovery
  deriving DecidableEq, Repr

/-- Island 79's Housekeeper: clocks (R341), brownout and temperature (R358), rungs, resets (R383); `evSeq` and `memSeq` are the sequence
numbers of the event sources and of the stacks' error logs (R380). -/
structure Hkp where
  xtalOk : Bool := false
  clkLoss : Bool := false
  starter : Bool := true
  losses : BitVec 8 := 0
  clkStatus : BitVec 4 := 0
  goodWin : Nat := 0
  timersOn : Bool := false
  ltime : BitVec 48 := 0
  count : Nat := 0
  armed : List Armed := []
  clkoutEn : Bool := true
  clkoutStatus : BitVec 3 := 0
  clkoutSrc : BitVec 8 := 0x81
  clkoutDiv : BitVec 12 := 3
  boActive : Bool := false
  boResuming : Bool := false
  boLong : Bool := false
  boRaised : Bool := false
  boSeq : BitVec 32 := 0
  boCount : BitVec 16 := 0
  boRail : BitVec 8 := 0
  dutyE : Nat := 16
  dutyW : Nat := 16
  hot105 : Bool := false
  thermTripLow : Bool := false
  perstReleased : List Nat := []
  pwrok : Bool := true
  monArmed : Bool := true
  rung : Nat := 0
  trans : Bool := false
  pwrStatus : BitVec 4 := 0
  ready : Bool := false
  target : Nat := 0
  entering : Nat := 0
  wakeHeld : Bool := false
  exiting : Option Nat := none
  waitEnter : Option Nat := none
  waitExit : Bool := false
  warms : BitVec 16 := 0
  lastReset : BitVec 4 := 1
  resetting : Option ResetKind := some .powerOn
  boot : BootPhase := .held
  wrstLow : Bool := false
  selfTest : Bool := false
  testing : List Nat := []
  hb78 : Option Nat := none
  hb79 : Option Nat := none
  failedCopy : Tab (BitVec 32) := []
  evSeq : Tab (BitVec 32) := []
  memSeq : Tab (BitVec 24) := []
  surveyHours : Nat := 0
  tjmax : BitVec 8 := 0
  logIndex : BitVec 12 := 0
  logWord : BitVec 5 := 0
  ageStatus : BitVec 4 := 0
  deriving DecidableEq, Repr

/-! ## Crust and Queros -/

/-- A command key and the owner slot whose key installed it (16_trust.md R319). -/
structure Key where
  k : BitVec 256
  installer : Nat
  deriving DecidableEq, Repr

/-- The Crust's working part (R326). -/
structure Crust where
  keys : Tab (Option Key) := []
  debug : Nat := 0
  chal : BitVec 256 := 0
  chalValid : Bool := false
  mbox : Tab (BitVec 64) := []
  mboxIdx : BitVec 10 := 0
  mbusy : Bool := false
  fwActive : Bool := false
  fwStatus : BitVec 4 := 0
  fwAddr : BitVec 48 := 0
  fwDigest : BitVec 256 := 0
  fwVer : BitVec 32 := 0
  deriving DecidableEq, Repr

/-- A command queue (14_queros_host_link.md R283, R293). `job` names the tag of a background command that holds
the queue (R283). -/
structure Queue where
  fifo : List CmdRec := []
  prio : BitVec 2 := 0
  en : Bool := true
  last : BitVec 64 := 0
  floor : BitVec 64 := 0
  busy : Bool := false
  deriving DecidableEq, Repr

/-- A burst whose Cellar lines are outstanding, or that waits behind one (R288, R289). -/
structure Burst where
  bid : BitVec 16
  blen : Nat
  isRead : Bool
  status : Nat
  waiting : List (Nat × Nat)
  mask : BitVec 64
  fcode : Nat
  data : List Byte
  deriving DecidableEq, Repr

/-- A Peel window (R286, R293). `change` is the window command that waits, taken from its queue, until the bursts received before it have
run, and `later` the bursts received after it: id, length and data (R289). -/
structure Window where
  isOpen : Bool := false
  isRead : Bool := false
  mode : BitVec 2 := 0
  base : Nat := 0
  len : Nat := 0
  row : Nat := 0
  pitch : Nat := 0
  cur : Nat := 0
  bursts : List Burst := []
  change : Option (Nat × CmdRec) := none
  later : List (BitVec 16 × Nat × Option (List Byte)) := []
  deriving DecidableEq, Repr

/-- The events that the manual names, by name (R290 gives no numbers but 0x0040 for STEP_PHASE, entry 11). -/
inductive EvCode where
  | bridgeFail | deviceFenced | partFault | partFaultLater | taskFault | linkDown | linkUnroutable | peerFenced
  | twinDown | memUe | memCe | memStackFail | ledgerUe | ceiling | steerMismatch | nonfiniteGrad | kndReplay
  | bucketFail | stepLimit | sealConflict | stepPhase | cxlDown | cellarRingDown | snapSecured | snapAbandoned
  | snapRingskip | fillHost | fillFail | migrateReady | evtLost | recipeCommitted | deviceReset | clkLoss
  | islCoast | brownoutLong | brownoutEnd | thermalMax | ageLow
  deriving DecidableEq, Repr

/-- An event record (R290): source, code, sequence number, time and payload fields. -/
structure Event where
  src : Nat
  code : EvCode
  seq : BitVec 32
  time : Nat
  payload : List Int
  deriving DecidableEq, Repr

/-- What leaves the device: completions (R284), burst answers (R288), event records (R290), packets (12 R237),
HELLO (R278), frame and flit acknowledgements (R279, 12 R235), and the written memory that the host cannot see
otherwise needs no entry. `sector` is what a controller returns to a requester: data, or a bus error by its sub-code (01 R13, 10 R211). -/
inductive Out where
  | completion (q : Nat) (htag : BitVec 16) (status : BitVec 8) (detail : BitVec 32) (data : BitVec 64)
  | burst (w : Nat) (bid : BitVec 16) (blen status fcode : Nat) (mask : BitVec 64) (data : List Byte)
  | event (e : Event)
  | packet (port : Nat) (k : Packet)
  | hello (partnum : BitVec 16) (rev width : Nat)
  | frameAck (kind : Nat) (seq : BitVec 12)
  | frameResend (count : Nat)
  | credit (chan count : Nat)
  | flitAck (port : Nat) (kind : Nat) (seq : BitVec 12)
  | flitResend (port count : Nat)
  | sector (stack sector : Nat) (cls : Requester) (rid err : Nat) (data : List Byte)
  deriving DecidableEq, Repr

/-- A frame that the replay buffer keeps: its number, its message and its place in it (R279). -/
structure QFrame where
  seq : BitVec 12
  msg : Out
  idx : Nat
  deriving DecidableEq, Repr

/-- The Queros link, queues, windows and event buffer (R278 to R293); `frames` is the replay buffer, `out` the messages that wait for
room in it, and `granted` what the host holds of the credits that this side gave it for each channel. -/
structure Qrs where
  state : BitVec 3 := 0
  width : Nat := 0
  resent : BitVec 32 := 0
  retrains : BitVec 16 := 0
  rxNext : BitVec 12 := 0
  txNext : BitVec 12 := 0
  frames : List QFrame := []
  out : List Out := []
  granted : Tab Nat := []
  fails : Nat := 0
  asm : Tab (List Byte) := []
  helloSent : Bool := false
  helloSeen : Bool := false
  evtCredits : Nat := 0
  readCredits : Tab Nat := []
  queues : Tab Queue := []
  windows : Tab Window := []
  rr : Nat := 0
  evBuf : List Event := []
  dropped : BitVec 32 := 0
  lostPend : Nat := 0
  notcrit : BitVec 16 := 0
  badtag : BitVec 16 := 0
  replays : BitVec 16 := 0
  nokey : BitVec 16 := 0
  deriving DecidableEq, Repr

/-! ## Recipe and partitions -/

/-- What a commit holds for one partition (15_recipes.md R298). `blobs` lists the first address and length of each DATA blob. -/
structure Slice where
  part : PartRec
  gangs : List GangRec
  streams : List StreamRec
  regions : List RegionRec
  windows : List WinRec
  sealCfg : Option SealRec
  classes : Tab ClassRec
  groups : List GroupRec
  policy : List Byte
  locks : List (List Nat)
  entries : List EntryRec
  library : Tab LibEntry
  buckets : List BucketRec
  layers : List LayerMap
  rsets : List RouteSet
  owners : List OwnerRec
  uprogs : Tab (List (BitVec 32))
  scheds : List SchedRec
  snap : Option SnapRec
  blobs : List (Nat × Nat) := []
  deriving DecidableEq, Repr

/-- Partition states (04_trays_racks_partitions.md R87). -/
inductive PState where
  | empty | loading | ready | run | halted | faulted
  deriving DecidableEq, Repr

/-- A running commit (R301, R302). -/
structure CommitJob where
  q : Nat
  htag : BitVec 16
  slice : Bool
  part : Part
  image : Nat
  length : Nat
  digest : BitVec 256
  img : Option Image
  prev : PState
  deriving DecidableEq, Repr

/-- Recipe state and registers (R310). -/
structure RecSt where
  job : Option CommitJob := none
  loaded : Bool := false
  regPart : BitVec 3 := 0
  regSlice : Bool := false
  phase : BitVec 3 := 0
  progress : BitVec 16 := 0
  failValid : Bool := false
  failSection : BitVec 7 := 0
  failRecord : BitVec 18 := 0
  failDetail : BitVec 32 := 0
  digest : BitVec 256 := 0
  pdigest : Tab (BitVec 256) := []
  links : Option LinksRec := none
  common : List RegionRec := []
  slices : Tab Slice := []
  deriving DecidableEq, Repr

/-- Times of one step for the phase record (08_training_step.md R172, 22_observation.md R399). -/
structure PhaseAcc where
  fwdN : Nat := 0
  fwdSince : Nat := 0
  fwd : Nat := 0
  bwdN : Nat := 0
  bwdSince : Nat := 0
  bwd : Nat := 0
  updN : Nat := 0
  updSince : Nat := 0
  upd : Nat := 0
  updExposed : Nat := 0
  lastBwd : Nat := 0
  lastAdopt : Nat := 0
  inputSince : Option Nat := none
  inputWait : Nat := 0
  held : Nat := 0
  replays : Nat := 0
  brownout : Bool := false
  duty : Bool := false
  coast : Bool := false
  observed : Bool := false
  replayed : Bool := false
  deriving DecidableEq, Repr

/-- A partition's dynamic state (R87, 08 R176, 15 R310, 07 R158). -/
structure PartSt where
  state : PState := .empty
  cause : BitVec 6 := 0
  epoch : BitVec 16 := 0
  racks : BitVec 48 := 0
  faultedMark : Bool := false
  inready : Step := 0
  sealedReg : Step := 0xFFFFFFFF
  openReg : Step := 0
  lastSeal : Step := 0
  nextOpen : Step := 0
  everOpen : Bool := false
  stepLimit : Bool := false
  halting : Bool := false
  pctlStatus : BitVec 4 := 0
  proofK : BitVec 4 := 6
  proofKNext : Option (BitVec 4) := none
  proofPhase : BitVec 12 := 0
  sealTime : Nat := 0
  phases : Tab PhaseAcc := []
  resetting : Option (Nat × BitVec 16) := none
  rewound : Bool := false
  deriving DecidableEq, Repr

/-! ## Racks, tasks and streams -/

/-- A descriptor as fetched (06_task_engines_and_whisk.md R114, R115); `rsv` says that a reserved bit or value
is set. -/
structure Desc where
  addr : Nat
  kind : Nat
  backward : Bool
  prio : Nat
  proof : Bool
  layer : Nat
  opid : Nat
  stream : BitVec 16
  mb : Nat
  srel : Nat
  step : Step
  m : Nat
  k : Nat
  gang : Nat
  pass : Nat
  acc : Nat
  isFinal : Bool
  aL : Nat
  aR : Nat
  bL : Nat
  bR : Nat
  o0L : Nat
  o0R : Nat
  nout : Nat
  o1L : Nat
  o1R : Nat
  aWin : Nat
  bWin : Nat
  aRes : Bool
  bRes : Bool
  wprog : Nat
  aSrc : Nat
  aStg : Nat
  bSrc : Nat
  init : Nat
  out0 : Nat
  out1 : Nat
  wrack : Nat
  wctr : Nat
  wval : Nat
  waitEn : Bool
  srack : Nat
  sctr : Nat
  sinc : Nat
  sigEn : Bool
  bucket : BitVec 20
  brel : Bool
  wparam : Nat
  target : Nat
  count : Nat
  lid : Nat
  stepInc : Bool
  rsv : Bool
  deriving DecidableEq, Repr

/-- How far an operation has come between fetch and completion (R97, R121). -/
inductive Stage where
  | fetched | latched | ready | primed | issued | released | result | drained
  deriving DecidableEq, Repr

/-- A fused kernel in progress (R131 to R133): its parameters, the words it latched by Ledger index, rows of a block, columns of a tile,
its internal operation, and what stands in its scratch window, as rows of codes by place (entry 28). -/
structure Fused where
  kind : FusedKind
  par : Config.FusedPar
  words : List (Nat × BitVec 16)
  block : Nat := 0
  width : Nat := 0
  round : Nat := 0
  vals : Tab (List (List Nat)) := []
  deriving DecidableEq, Repr

/-- An operation: its descriptor, the words it latched (05_feeders.md R105) and what has been computed of it. `feed` orders the entries to
the feeders of its rack (R94), `box` counts the elements of a convolution's box, `probe` names the ring slot and the Ledger index of a
proof task (07_precision_steering.md R144). -/
structure Op where
  desc : Desc
  stage : Stage := .fetched
  cwA : BitVec 16 := 0
  cwB : BitVec 16 := 0
  cwO0 : BitVec 16 := 0
  cwO1 : BitVec 16 := 0
  g : Nat := 0
  passes : Nat := 1
  demand : Nat := 0
  fills : List FillKind := []
  inits : List (BitVec 64) := []
  readyAt : Nat := 0
  aged : Nat := 0
  starved : Nat := 0
  fusionChange : Bool := false
  order : Nat := 0
  issueTime : Nat := 0
  results : List (BitVec 64) := []
  poisoned : Bool := false
  reqs : List Nat := []
  writeErr : Nat := 0
  feed : Nat := 0
  box : Nat := 0
  probe : Option (Nat × Nat) := none
  fused : Option Fused := none
  deriving DecidableEq, Repr

/-- Slot states (R121). -/
inductive SlotState where
  | free | wait | feed | ready | primed | run | drain | faulted | held
  deriving DecidableEq, Repr

/-- A slot's boundary record (R126). -/
structure SlotBound where
  step : Step
  addr : Nat
  tstep : Step
  ctrs : List Nat
  acts : List Bool
  deriving DecidableEq, Repr

/-- A task slot (R113, R114, R121, R125). `next` is the address that the next fetch reads. -/
structure Slot where
  state : SlotState := .free
  frozen : Option SlotState := none
  next : Nat := 0
  ended : Bool := false
  tstep : Step := 0
  ctrs : List Nat := [0, 0, 0, 0]
  acts : List Bool := [false, false, false, false]
  newer : Option Op := none
  older : Option Op := none
  chain : Option Op := none
  faultCode : Nat := 0
  faultOp : Option Op := none
  dropped : Option Op := none
  bounds : List SlotBound := []
  deriving DecidableEq, Repr

/-- Stream states (R126, R134). -/
inductive StrState where
  | idle | active | rewinding | fenced
  deriving DecidableEq, Repr

/-- One half of a completion counter (R118). -/
structure Half where
  count : BitVec 32 := 0
  tag : BitVec 32 := 0
  deriving DecidableEq, Repr

/-- A stream's boundary copy (R126). -/
structure StreamBound where
  step : Step
  issue : BitVec 32
  txseq : BitVec 32
  genIn : BitVec 32
  genOut : BitVec 32
  drawHalf : Bool
  drawHalfIn : Bool
  inpos : BitVec 64
  halves : Tab Half
  deriving DecidableEq, Repr

/-- A stream context (R126). -/
structure Stream where
  id : BitVec 16 := 0
  state : StrState := .idle
  epoch : BitVec 16 := 0
  step : Step := 0
  ostep : Step := 0
  issue : BitVec 32 := 0
  txseq : BitVec 32 := 0
  seed : BitVec 32 := 0
  genIn : BitVec 32 := 0
  genOut : BitVec 32 := 0
  drawHalf : Bool := false
  drawHalfIn : Bool := false
  inpos : BitVec 64 := 0
  bounds : List StreamBound := []
  deriving DecidableEq, Repr

/-- A statistics record (07_precision_steering.md R139). -/
structure StatRec where
  step : Step := 0
  hasData : Bool := false
  late : Bool := false
  amax : BitVec 32 := 0
  blocks : Nat := 0
  elems : Nat := 0
  zblk : Nat := 0
  flush : Nat := 0
  sat : Nat := 0
  resc : Nat := 0
  hist : List Nat := []
  pdiff : BitVec 64 := 0
  pref : BitVec 64 := 0
  pcount : Nat := 0
  pskip : Nat := 0
  deriving DecidableEq, Repr

/-- The narrow copy of one eligible write in a proof slot (R143): its entry, whether it is blocked along tokens, its word, its lines and
their length, and where its elements, block scales and tile scales stand in the ring. -/
structure ProofCopy where
  index : Nat
  tokens : Bool
  word : BitVec 16
  lines : Nat
  len : Nat
  elems : Nat
  scales : Nat
  tiles : Nat
  deriving DecidableEq, Repr

/-- A proof-ring slot in use (R143): the step, the tile's rows and columns, its narrow copies, where its FP32 values stand, and the
Ledger indexes of its eligible writes still to be proved. -/
structure ProofSlot where
  slot : Nat
  step : Step
  backward : Bool
  m : Nat
  n : Nat
  copies : List ProofCopy
  values : Nat
  todo : List Nat
  deriving DecidableEq, Repr

/-- A counter selection (22_observation.md R402). -/
structure Sel where
  llast : BitVec 14 := 0x3FFF
  lfirst : BitVec 14 := 0
  type : BitVec 3 := 7
  event : BitVec 8 := 0
  deriving DecidableEq, Repr

/-- A trace record (R396). -/
structure TraceRec where
  time : Nat
  kind : Nat
  rack : Nat
  slot : Nat
  backward : Bool
  prio : Nat
  proof : Bool
  step : Step
  layer : Nat
  opid : Nat
  mb : Nat
  gang : Nat
  arg0 : Nat
  arg1 : Nat
  deriving DecidableEq, Repr

/-- Rack observation (R402). -/
structure Obs where
  trace : Bool := false
  freeze : Bool := false
  enable : Bool := false
  sels : Tab Sel := []
  live : Tab Nat := []
  copy : Tab Nat := []
  ovf : Tab Bool := []
  queue : List TraceRec := []
  deriving DecidableEq, Repr

/-- TSK_FAULT_n (06 R134). -/
structure TskFault where
  valid : Bool := false
  slot : Nat := 0
  code : Nat := 0
  sub : Nat := 0
  desc : Nat := 0
  deriving DecidableEq, Repr

/-- A rack: its registers (04 R78, 06 R134), slots, stream, counters and feeders. -/
structure RackSt where
  gangStart : BitVec 32 := 1
  exclude : BitVec 32 := 0
  failed : BitVec 32 := 0
  ageLimit : BitVec 24 := 0x4000
  proofSlots : Nat := 0
  slotSel : Nat := 0
  taskFault : TskFault := {}
  entries : Tab (Option Nat) := []
  slots : Tab Slot := []
  stream : Stream := {}
  halves : Tab Half := []
  late : Nat := 0
  cycle : Nat := 0
  holdFor : Option Nat := none
  fusion : Tab Nat := []
  order : Nat := 0
  feeds : Nat := 0
  heldNow : Nat := 0
  sampleE : Nat := 0
  sampleO : Nat := 0
  taken : BitVec 32 := 0
  skipped : BitVec 32 := 0
  proofs : List ProofSlot := []
  sieve : Tab StatRec := []
  obs : Obs := {}
  resetting : Option (Nat × BitVec 16) := none
  deriving DecidableEq, Repr

/-! ## Governor -/

/-- A queued host steering command (07 R157). -/
structure HostSteer where
  op : Nat
  target : Nat
  rung : Nat
  step : Step
  deriving DecidableEq, Repr

/-- Votes and the combined record of one group at one step (R151): the contributions by rank with their tags, and the
ranks' ADOPTED counts. -/
structure VoteSt where
  group : Nat
  step : Step
  words : List (Nat × BitVec 32 × List (BitVec 64) × Bool) := []
  forwarded : Bool := false
  result : Option (List (BitVec 64) × Bool) := none
  adoptedBy : List (Nat × Nat) := []
  acked : Bool := false
  committed : Bool := false
  deriving DecidableEq, Repr

/-- A steering group (R158). -/
structure GroupSt where
  sealedRec : Step := 0
  tag : BitVec 32 := 0
  mismatch : BitVec 16 := 0
  frozen : Bool := false
  hostCount : Nat := 0
  deriving DecidableEq, Repr

/-- The Governor (R136 to R158). `uwr` holds for each layer and step parity the step of an update and its two sums (R146). -/
structure Gov where
  ledger : Tab LedgerEntry := []
  errs : List Nat := []
  uwr : Tab (Step × BitVec 64 × BitVec 64) := []
  cmds : List HostSteer := []
  cmd : BitVec 64 := 0
  cmdst : BitVec 4 := 0
  groups : Tab GroupSt := []
  votes : List VoteSt := []
  closed : List (Nat × Step) := []
  deriving DecidableEq, Repr

/-! ## Kneader -/

/-- Owner-side states of a bucket (09_kneader.md R202 STATE). -/
inductive OwnState where
  | idle | agreeing | summing | replaying | updating | sending | awaiting | failed
  deriving DecidableEq, Repr

/-- A bucket at a step: the contributor's and holder's side, and the owner's (08 R162 to R169, 09 R181 to
R198). `sched` and `consts` hold the schedule entry and the constants that the engine read when the update started (R194, R195). -/
structure Bkt where
  bid : BitVec 20
  step : Step
  count : Nat := 0
  amax : BitVec 32 := 0
  complete : Bool := false
  admitted : Bool := false
  scaled : Bool := false
  attempt : Nat := 0
  s : Int := 0
  released : Bool := false
  relAttempt : Nat := 0
  cleared : Bool := false
  tiles : Tab Nat := []
  ends : Tab Nat := []
  parts : List (Nat × Nat × Nat) := []
  adoptedHere : Bool := false
  committed : Bool := false
  own : OwnState := .idle
  bound : Bool := false
  amax0 : Option (BitVec 32 × BitVec 64 × Nat) := none
  voids : BitVec 15 := 0
  csReplays : Nat := 0
  verified : List Nat := []
  sums : Tab (List (BitVec 16)) := []
  clearDone : Bool := false
  paramsSent : Bool := false
  heldTiles : List Packet := []
  amaxSent : Bool := false
  clearSent : Bool := false
  adoptSent : Bool := false
  checks : List (BitVec 32) := []
  solo : Bool := false
  sched : List Nat := []
  consts : List Nat := []
  deriving DecidableEq, Repr

/-- A segment of an attempt of a bucket in the port adders (R185, R186): what has come from each child port, and once the
sum has left, whether it saturated here. -/
structure AddSlot where
  bid : BitVec 20
  step : Step
  seg : Nat
  attempt : Nat := 0
  arrived : Tab (List (BitVec 16)) := []
  csums : Tab (BitVec 32 × Bool) := []
  done : Option Bool := none
  deriving DecidableEq, Repr

/-- KND_PORT_STAT (R202). -/
structure KndPort where
  segs : BitVec 32 := 0
  sats : BitVec 16 := 0
  disc : BitVec 16 := 0
  deriving DecidableEq, Repr

/-- The Kneader (R202). `words` keeps the latest control word of each subtype from each sender (12 R242). -/
structure Knd where
  bkts : List Bkt := []
  words : List Packet := []
  adders : List AddSlot := []
  ports : Tab KndPort := []
  bktSel : BitVec 20 := 0
  errValid : Bool := false
  errCode : BitVec 3 := 0
  errStep : Step := 0
  errBid : BitVec 20 := 0
  engGen : Tab (Option (BitVec 32 × Bool)) := []
  sealWords : List (Nat × Step × Nat) := []
  restoredWords : List (Nat × BitVec 16 × Nat) := []
  deriving DecidableEq, Repr

/-! ## Memory controllers -/

/-- A retired page or bank (10_hbm_memory.md R214). -/
structure Retired where
  bank : Bool
  pc : BitVec 5
  bankNo : BitVec 6
  row : BitVec 15
  deriving DecidableEq, Repr

/-- A sector of a write-merge buffer: the bytes that writes have covered, and the last writer's requester class and
number (R207, R209, R213). -/
structure MergeEnt where
  sector : Nat
  mask : BitVec 32
  cls : Requester
  rid : Nat
  deriving DecidableEq, Repr

/-- An HBM stack's controller (R218). `merge` is its write-merge buffer; `entries` counts the log entries held. -/
structure StackSt where
  failed : Bool := false
  selfRefresh : Bool := false
  ceEvt : BitVec 5 := 0x0A
  period : BitVec 8 := 0x18
  scrubPos : BitVec 31 := 0
  ce : BitVec 32 := 0
  ue : BitVec 16 := 0
  overrun : BitVec 16 := 0
  log : Tab (BitVec 128) := []
  head : BitVec 9 := 0
  tail : BitVec 9 := 0
  entries : Nat := 0
  retire : List Retired := []
  full : Bool := false
  armed : Bool := false
  merge : List MergeEnt := []
  deriving DecidableEq, Repr

/-- An expander behind a port (11_cellar.md R224, R228); `hdm` is what a commit wrote into its decoders, and `locked` that it locked
them (R221). -/
structure Exp where
  dsp : Nat
  serial : BitVec 64
  capG : Nat
  failed : Bool
  hdm : List DecRec := []
  locked : Bool := false
  deriving DecidableEq, Repr

/-- Who waits for a CXL request (R225). -/
inductive ReqOwner where
  | peel (w : Nat) (bid : BitVec 16) (line : Nat)
  | op (rack slot : Nat)
  deriving DecidableEq, Repr

/-- An outstanding CXL request (R225, R227). -/
structure CxlReq where
  id : Nat
  addr : Nat
  isWrite : Bool
  data : List Byte
  dsp : Nat
  owner : ReqOwner
  deriving DecidableEq, Repr

/-- A CXL port (R230). `reqs` are the requests that hold tracker tags, `wait` those for which their pool has none left (R226); `retrain`
says that the host ordered the training in progress. -/
structure CxlSt where
  state : BitVec 3 := 0
  lanes : Nat := 0
  rate : Nat := 0
  switch : Bool := false
  exps : List Exp := []
  sel : Nat := 0
  errValid : Bool := false
  errKind : BitVec 4 := 0
  errDsp : BitVec 3 := 0
  errAddr : BitVec 48 := 0
  reqs : List CxlReq := []
  wait : List CxlReq := []
  retrain : Bool := false
  op : BitVec 2 := 0
  deriving DecidableEq, Repr

/-- The Cellar's committed settings (R221, R224, R230). `lost` lists the decoders whose targets failed: their
ranges return UE until a commit that passes R224 (R228). -/
structure Cellar where
  decoders : List DecRec := []
  expected : List ExpectRec := []
  ide : List Bool := [false, false, false, false]
  ports : Tab CxlSt := []
  lost : List Nat := []
  nextReq : Nat := 0
  deriving DecidableEq, Repr

/-! ## Links -/

/-- States of a link port (12_links_and_ordering.md R249). -/
inductive PortState where
  | down | training | up | failed | miswired | unused | standby
  deriving DecidableEq, Repr

/-- A flit of the replay buffer (R235, R236): its number, and which 504 bytes of a packet it carries. -/
structure Flit where
  seq : BitVec 12
  pkt : Packet
  idx : Nat
  deriving DecidableEq, Repr

/-- A link port (R235, R236, R245, R249). `ctl` and `pay` are its queues of control words and of payload packets (R17),
`flits` is its replay buffer; `content` holds the bytes of a payload packet that later flits go on with, `arrived` the packets
that flits have completed, and `words` the port words that wait for their rows. `fails` counts the resends of its oldest flit
that have been asked for, `unc` the times of its latest uncorrectable codewords. -/
structure PortSt where
  state : PortState := .down
  peer : BitVec 14 := 0
  peerPort : BitVec 4 := 0
  fecCor : BitVec 32 := 0
  fecUnc : BitVec 16 := 0
  replay : BitVec 16 := 0
  hostDown : Bool := false
  inPlace : Bool := false
  txSeq : BitVec 12 := 0
  rxSeq : BitVec 12 := 0
  fails : Nat := 0
  ctl : List Packet := []
  pay : List Packet := []
  flits : List Flit := []
  content : List Byte := []
  arrived : List Packet := []
  words : List Packet := []
  hold : List Packet := []
  unc : List Nat := []
  kept : Bool := false
  op : BitVec 2 := 0
  deriving DecidableEq, Repr

/-- A pending fence (R246). -/
structure PendFence where
  newEpoch : BitVec 16
  limit : BitVec 32
  base : BitVec 32
  deriving DecidableEq, Repr

/-- A sequence-table entry (R245). -/
structure SeqEnt where
  epoch : BitVec 16 := 0
  last : BitVec 32 := 0xFFFFFFFF
  pend : Option PendFence := none
  deriving DecidableEq, Repr

/-- Discard counts (R249, LNK_DISC0 and LNK_DISC1) and the CRC-64 discards of R248. -/
structure Disc where
  stale : BitVec 16 := 0
  epochOld : BitVec 16 := 0
  epochAhead : BitVec 16 := 0
  unroutable : BitVec 16 := 0
  noent : BitVec 16 := 0
  holdFull : BitVec 16 := 0
  misdelivered : BitVec 16 := 0
  noroute : BitVec 16 := 0
  crc64 : BitVec 16 := 0
  deriving DecidableEq, Repr

/-- The link fabric's state in islands 62 to 70 and 78 (R249). `lostAt` lists the ports at which a packet was discarded as
UNROUTABLE and whose partitions R91 has not judged yet (R241). -/
structure Lnk where
  ports : Tab PortSt := []
  rank : BitVec 14 := 0
  table : Tab RtEntry := []
  staged : Tab RtEntry := []
  rtSel : BitVec 14 := 0
  newRank : BitVec 14 := 0
  rtOp : BitVec 2 := 0
  gen : BitVec 16 := 0
  seqs : Tab SeqEnt := []
  disc : Disc := {}
  devSeq : BitVec 32 := 0
  latest : List Packet := []
  lostAt : List Nat := []
  fabJob : Option (Nat × BitVec 16) := none
  deriving DecidableEq, Repr

/-! ## Snapshots and recovery -/

/-- A shard entry of a manifest (13_recovery.md R255). -/
structure ShardEnt where
  kind : Nat
  bid : BitVec 20
  len : Nat
  soff : Nat
  digest : BitVec 256
  deriving DecidableEq, Repr

/-- A manifest (R255). -/
structure Manifest where
  step : Step
  rank : BitVec 14
  coord : BitVec 14
  part : Nat
  k : Nat
  time : Nat
  rdigest : BitVec 256
  shards : List ShardEnt
  deriving DecidableEq, Repr

/-- A ring slot (R256). -/
structure RingSlot where
  step : Step := 0
  used : Bool := false
  manifest : Option Manifest := none
  deriving DecidableEq, Repr

/-- A snapshot being taken (R250 to R255). -/
structure SnapJob where
  step : Step
  slot : Option Nat
  toTwin : Bool
  nextOff : Nat
  shards : List ShardEnt := []
  abandoned : Bool := false
  deriving DecidableEq, Repr

/-- A schedule shard as captured (R254). -/
structure SchedShard where
  step : Step
  streams : List (Nat × StreamBound)
  slots : List (Nat × Nat × SlotBound)
  ledger : List (Nat × LedgerEntry)
  groups : List (Nat × Nat × Bool)
  deriving DecidableEq, Repr

/-- A partition's snapshot registers and ring (R275). `waiting` lists the changes of K and FULL by the step that each governs first, in
rising order (R250). -/
structure SnapSt where
  k : BitVec 16 := 0
  full : Bool := false
  step : Step := 0
  status : BitVec 4 := 0
  waiting : List (Step × BitVec 16 × Bool) := []
  secured : Step := 0xFFFFFFFF
  taken : Step := 0xFFFFFFFF
  by_ : BitVec 2 := 0
  slot : Nat := 0
  state : BitVec 2 := 0
  hold : BitVec 64 := 0
  slots : Tab RingSlot := []
  ringOk : Bool := false
  job : Option SnapJob := none
  shards : List SchedShard := []
  deriving DecidableEq, Repr

/-- A slot of the twin store (R257): a partner's partition, which of its two slots, the step, the bytes received of each shard
by manifest index, and whether it was acknowledged. -/
structure TwinSlot where
  part : Nat
  alt : Nat
  step : Step
  lens : Tab Nat := []
  acked : Bool := false
  bad : Bool := false
  deriving DecidableEq, Repr

/-- Sources of a fill (R266). -/
inductive FillSrc where
  | ring | twin | peer | host
  deriving DecidableEq, Repr

/-- A fill-map entry (R266). -/
structure FillEnt where
  midx : Nat
  state : Nat
  src : FillSrc
  tried : List FillSrc
  done : Nat
  len : Nat
  data : List Byte
  deriving DecidableEq, Repr

/-- Migration of a partition's rank (R268, R269). -/
structure Migration where
  drain : Bool
  m : Step
  spare : BitVec 14
  handedOver : Bool
  deriving DecidableEq, Repr

/-- A partition's recovery state (R275). `rolled` is the ROLLBACK word that was obeyed last: one sent again is not obeyed twice
(12_links_and_ordering.md R242). `former` lists the places that a rank was moved here from: the newest step it brought, the rank and the
coordinate (R271). -/
structure RcvSt where
  repoch : BitVec 16 := 0
  state : BitVec 4 := 0
  status : BitVec 4 := 0
  point : Step := 0
  epochR : BitVec 16 := 0
  rank : BitVec 14 := 0
  coord : BitVec 14 := 0
  spare : Bool := false
  manifest : Option Manifest := none
  manifestSrc : FillSrc := .ring
  manifestData : List Byte := []
  map : List FillEnt := []
  skip : List FillSrc := []
  restoredSent : Bool := false
  handover : List (BitVec 16 × BitVec 16 × BitVec 32) := []
  migration : Option Migration := none
  sent : List ShardEnt := []
  rolled : Option (BitVec 16 × Step) := none
  former : List (Step × BitVec 14 × BitVec 14) := []
  deriving DecidableEq, Repr

/-- Snapshot and recovery command registers and the twin store (R275, R257). -/
structure RcvRegs where
  snpCmd : BitVec 64 := 0
  snpCmdStatus : BitVec 4 := 0
  snpCmdPart : BitVec 3 := 0
  rcvArg : BitVec 64 := 0
  rcvCmd : BitVec 64 := 0
  twin : List TwinSlot := []
  fencedTo : List (Nat × BitVec 16 × Nat) := []
  deriving DecidableEq, Repr

/-! ## The device -/

/-- Device-wide state: the fence (13_recovery.md R260, R261), bridges (01_architecture.md R10), Pantry bank
pointers (04 R83), spread sizes (10 R218) and the scratch register (23_register_map.md R415). -/
structure Dev where
  fenced : Bool := false
  hub78 : Bool := false
  hub79 : Bool := false
  recordDue : Bool := false
  bridgeFails : Tab Nat := []
  bridgeFailed : List Nat := []
  bankPtr : Tab Nat := []
  spE : BitVec 6 := 0x30
  spW : BitVec 6 := 0x30
  scratch : BitVec 64 := 0
  deriving DecidableEq, Repr

/-- The trace collector (22_observation.md R402). -/
structure Trace where
  kmask : BitVec 32 := 0x8000021E
  status : BitVec 4 := 0
  size : BitVec 4 := 0
  stop : Bool := false
  enable : Bool := false
  base : BitVec 48 := 0x010000000000
  llast : BitVec 14 := 0x3FFF
  lfirst : BitVec 14 := 0
  lost : BitVec 16 := 0
  lostRun : Nat := 0
  tail : BitVec 24 := 0
  head : BitVec 24 := 0
  deriving DecidableEq, Repr

/-- The whole device. `poison` numbers the HBM sectors and `secded` the 64-bit words of
Pantries and rack stores that read uncorrectable (R18, R209); `pending` is the queue of commands that wait, first in, first out; `inbox` the accepted
packets whose own row has not come yet; `signals` the signals on their way to a completion counter; `sent` what has left the device, oldest first; `freeCtr` numbers the
free values (entry 13). -/
structure State where
  pending : List Instr := []
  mem : List Host.Cell := []
  poison : List Nat := []
  secded : List Nat := []
  isl : Tab IslandSt := []
  per : Persist := {}
  hkp : Hkp := {}
  cru : Crust := {}
  qrs : Qrs := {}
  rcp : RecSt := {}
  parts : Tab PartSt := []
  racks : Tab RackSt := []
  gov : Gov := {}
  knd : Knd := {}
  hbm : Tab StackSt := []
  cxl : Cellar := {}
  lnk : Lnk := {}
  snp : Tab SnapSt := []
  rcv : Tab RcvSt := []
  rreg : RcvRegs := {}
  dev : Dev := {}
  trc : Trace := {}
  inbox : List Packet := []
  signals : List (Nat × Nat × BitVec 16 × Step) := []
  sent : List Out := []
  freeCtr : Nat := 0
  deriving DecidableEq, Repr

/-- The device right after a power-on reset, before its release (20_resets_and_retention.md R371, R374), as it
leaves Askano (16_trust.md R317: unowned). The values that the manual does not state are in entries 4 and 6. -/
def State.reset : State := {}

end Sys2Proof.Machine
end

