-- ==== Sys2Proof/Machine/Ops.lean ====
section
/-! DEFINITION. The shared operations: finite tables, the device address space (10_hbm_memory.md R204,
04_trays_racks_partitions.md R79 and R81, 11_cellar.md R221), bytes of memory, and one accessor for each kind of
part. Every meaning reads and writes State through these. -/

namespace Sys2Proof.Machine

/-! ## Finite tables -/

/-- The value listed for a key. -/
def tfind {α : Type} : Tab α → Nat → Option α
  | [], _ => none
  | (j, v) :: t, k => if j = k then some v else tfind t k

/-- The table without a key. -/
def terase {α : Type} : Tab α → Nat → Tab α
  | [], _ => []
  | (j, v) :: t, k => if j = k then terase t k else (j, v) :: terase t k

/-- Lists a key before the first greater one. -/
def tput {α : Type} : Tab α → Nat → α → Tab α
  | [], k, v => [(k, v)]
  | (j, w) :: t, k, v => if k < j then (k, v) :: (j, w) :: t else (j, w) :: tput t k v

/-- What a key reads as: its listed value, else the table's default. -/
def tget {α : Type} (t : Tab α) (d : α) (k : Nat) : α := (tfind t k).getD d

/-- Writes a key; writing the default removes the entry, so that equal tables are equal data. -/
def tset {α : Type} [DecidableEq α] (t : Tab α) (d : α) (k : Nat) (v : α) : Tab α :=
  if v = d then terase t k else tput (terase t k) k v

/-- The canonical form: keys strictly rising, and no entry equal to the default of its key. -/
def twf {α : Type} [DecidableEq α] (d : Nat → α) : Tab α → Bool
  | [] => true
  | (k, v) :: t => decide (v ≠ d k) && t.all (fun e => decide (k < e.1)) && twf d t

/-! ## Small numbers -/

/-- A saturating count of `w` bits rises by `n`. -/
def satAdd {w : Nat} (c : BitVec w) (n : Nat) : BitVec w :=
  if c.toNat + n < 2 ^ w then c + BitVec.ofNat w n else BitVec.allOnes w

/-- The bits of a mask that are set, from `w` bits. -/
def bitsOf (w m : Nat) : List Nat := (List.range w).filter (fun i => m.testBit i)

/-- Serial comparison of epochs and route generations modulo 2^w (12_links_and_ordering.md R245): a is newer
than b. -/
def newer {w : Nat} (a b : BitVec w) : Bool :=
  a != b && decide ((a - b).toNat < 2 ^ (w - 1))

/-- Little-endian value of bytes (02_number_formats.md R25). -/
def leNat : List Byte → Nat
  | [] => 0
  | b :: t => b.toNat + 256 * leNat t

/-- The `n` little-endian bytes of a value. -/
def leBytes : Nat → Nat → List Byte
  | 0, _ => []
  | n + 1, v => BitVec.ofNat 8 v :: leBytes n (v / 256)

/-- Bits [hi:lo] of a number. -/
def fieldOf (v hi lo : Nat) : Nat := (v >>> lo) % 2 ^ (hi + 1 - lo)

/-- Splits a list into chunks of `n` (n at least 1), at most `fuel` of them. -/
def chunks {α : Type} (n : Nat) : Nat → List α → List (List α)
  | 0, _ => []
  | _ + 1, [] => []
  | f + 1, l => l.take n :: chunks n f (l.drop n)

/-! ## Where a device address lies -/

def gib : Nat := 2 ^ 30
def hbmDie : Nat := 0x4800000000
def hbmTop : Nat := 0x9000000000
def pantryBase : Nat := 0x10000000000
def pantrySize : Nat := 0xC000000
def rackBase : Nat := 0x11000000000
def rackStride : Nat := 0x1000000
def rackSize : Nat := 0x800000
def ledgerBase : Nat := 0x12000000000
def ledgerSize : Nat := 0x200000
def csrBase : Nat := 0x14000000000
def csrSize : Nat := 0x10000000
def cellarBase : Nat := 0x100000000000
def cellarTop : Nat := 0x200000000000

/-- The stack and the byte within it of an HBM address (R204). -/
def hbmLoc (spE spW : Nat) (a : Nat) : Nat × Nat :=
  let d := if a < hbmDie then 0 else 1
  let sp := if d = 0 then spE else spW
  let o := a - d * hbmDie
  if o < 6 * sp * gib then
    let g := o / 256
    (6 * d + g % 6, g / 6 * 256 + o % 256)
  else
    let o2 := o - 6 * sp * gib
    let local_ := (48 - sp) * gib
    (6 * d + o2 / local_, sp * gib + o2 % local_)

/-- Pseudo-channel, bank, row and column of a byte within a stack (R204). -/
def hbmCell (l : Nat) : Nat × Nat × Nat × Nat :=
  let q := l / 256
  let r := q / 32
  let p := r * 256 + l % 256
  (((q % 32) ^^^ (r % 32)), p / 1024 % 64, p / 65536, p % 1024)

/-- The kind of place that an address names. -/
inductive Place where
  | hbm (stack off : Nat)
  | pantry (die : Nat)
  | rack (n : Nat)
  | ledger (index : Nat)
  | cellar
  | unmapped
  deriving DecidableEq, Repr

/-- The place of an address (R79, R81, R135, R204, R221). The control and status space is no memory (R16). -/
def State.place (s : State) (a : Nat) : Place :=
  if a < hbmTop then
    let p := hbmLoc s.dev.spE.toNat s.dev.spW.toNat a
    .hbm p.1 p.2
  else if pantryBase ≤ a ∧ a < pantryBase + 2 * pantrySize then .pantry ((a - pantryBase) / pantrySize)
  else if rackBase ≤ a ∧ a < rackBase + 48 * rackStride then
    if (a - rackBase) % rackStride < rackSize then .rack ((a - rackBase) / rackStride) else .unmapped
  else if ledgerBase ≤ a ∧ a < ledgerBase + ledgerSize then .ledger ((a - ledgerBase) / 16)
  else if cellarBase ≤ a ∧ a < cellarTop then .cellar
  else .unmapped

/-- Bytes of one stack. -/
def stackBytes : Nat := 48 * gib

/-- The key under which a byte is held: an HBM byte by stack and place within it, so that a change of spread size
leaves contents where the stacks hold them (R204, R376); any other byte by its address. -/
def State.key (s : State) (a : Nat) : Nat :=
  match s.place a with
  | .hbm k l => k * stackBytes + l
  | _ => a

/-- The number of the 32-byte sector that holds an HBM byte, over all stacks. -/
def sectorKey (key : Nat) : Nat := key / 32

/-! ## Bytes of memory -/

/-- A byte that nothing has written reads 0x00 (entry 5). -/
def emptyByte : Byte := 0

/-- The canonical form of memory: keys strictly rising, and no byte listed that an unlisted one reads as. -/
def Memory.wf (m : List Host.Cell) : Bool := twf (fun _ => emptyByte) m

/-- One byte at a device address. -/
def State.byteAt (s : State) (a : Nat) : Byte := tget s.mem emptyByte (s.key a)

/-- `n` bytes from a device address. -/
def State.bytesAt (s : State) (a : Nat) : Nat → List Byte
  | 0 => []
  | n + 1 => s.byteAt a :: s.bytesAt (a + 1) n

/-- Stores one byte at a device address. -/
def State.setByte (s : State) (a : Nat) (b : Byte) : State :=
  { s with mem := tset s.mem emptyByte (s.key a) b }

/-- Stores bytes from a device address. -/
def State.setBytes (s : State) (a : Nat) : List Byte → State
  | [] => s
  | b :: t => (s.setByte a b).setBytes (a + 1) t

/-- Keeps the memory cells whose key passes a test. -/
def State.keepMem (s : State) (p : Nat → Bool) : State :=
  { s with mem := s.mem.filter (fun e => p e.1), poison := s.poison.filter (fun k => p (k * 32)), secded := s.secded.filter (fun k => p (k * 8)) }

/-- The device address of a key: the inverse of `State.key` (R204). -/
def State.addrOf (s : State) (k : Nat) : Nat :=
  if k < hbmTop then
    let st := k / stackBytes
    let l := k % stackBytes
    let sp := if st / 6 = 0 then s.dev.spE.toNat else s.dev.spW.toNat
    let o :=
      if l < sp * gib then (l / 256 * 6 + st % 6) * 256 + l % 256
      else 6 * sp * gib + st % 6 * ((48 - sp) * gib) + (l - sp * gib)
    st / 6 * hbmDie + o
  else k

/-- Clears a range of addresses to zero; the sectors wholly inside it are sound again. -/
def State.clearRange (s : State) (a n : Nat) : State :=
  let inside := fun (k : Nat) => decide (a ≤ s.addrOf k ∧ s.addrOf k < a + n)
  { s with mem := s.mem.filter (fun e => !inside e.1)
           poison := s.poison.filter (fun x => !(inside (32 * x) && inside (32 * x + 31)))
           secded := s.secded.filter (fun x => !(inside (8 * x) && inside (8 * x + 7))) }

/-- A key of HBM, a Pantry, or the store of rack n. -/
def isHbmKey (k : Nat) : Bool := decide (k < hbmTop)
def isPantryKey (k : Nat) : Bool := decide (pantryBase ≤ k ∧ k < pantryBase + 2 * pantrySize)
def isRackKey (k : Nat) : Bool := decide (rackBase ≤ k ∧ k < rackBase + 48 * rackStride)

/-! ## One accessor for each kind of part -/

def State.island (s : State) (n : Nat) : IslandSt := tget s.isl (IslandSt.dflt n) n
def State.setIsland (s : State) (n : Nat) (v : IslandSt) : State :=
  { s with isl := tset s.isl (IslandSt.dflt n) n v }
def State.modIsland (s : State) (n : Nat) (f : IslandSt → IslandSt) : State := s.setIsland n (f (s.island n))

def State.part (s : State) (p : Nat) : PartSt := tget s.parts {} p
def State.setPart (s : State) (p : Nat) (v : PartSt) : State := { s with parts := tset s.parts {} p v }
def State.modPart (s : State) (p : Nat) (f : PartSt → PartSt) : State := s.setPart p (f (s.part p))

def State.rack (s : State) (n : Nat) : RackSt := tget s.racks {} n
def State.setRack (s : State) (n : Nat) (v : RackSt) : State := { s with racks := tset s.racks {} n v }
def State.modRack (s : State) (n : Nat) (f : RackSt → RackSt) : State := s.setRack n (f (s.rack n))

def State.slot (s : State) (n i : Nat) : Slot := tget (s.rack n).slots {} i
def State.setSlot (s : State) (n i : Nat) (v : Slot) : State :=
  s.modRack n (fun r => { r with slots := tset r.slots {} i v })
def State.modSlot (s : State) (n i : Nat) (f : Slot → Slot) : State := s.setSlot n i (f (s.slot n i))

def State.modStream (s : State) (n : Nat) (f : Stream → Stream) : State :=
  s.modRack n (fun r => { r with stream := f r.stream })

def State.stack (s : State) (k : Nat) : StackSt := tget s.hbm {} k
def State.setStack (s : State) (k : Nat) (v : StackSt) : State := { s with hbm := tset s.hbm {} k v }
def State.modStack (s : State) (k : Nat) (f : StackSt → StackSt) : State := s.setStack k (f (s.stack k))

def State.cxlPort (s : State) (n : Nat) : CxlSt := tget s.cxl.ports {} n
def State.setCxlPort (s : State) (n : Nat) (v : CxlSt) : State :=
  { s with cxl := { s.cxl with ports := tset s.cxl.ports {} n v } }
def State.modCxlPort (s : State) (n : Nat) (f : CxlSt → CxlSt) : State := s.setCxlPort n (f (s.cxlPort n))

def State.port (s : State) (n : Nat) : PortSt := tget s.lnk.ports {} n
def State.setPort (s : State) (n : Nat) (v : PortSt) : State :=
  { s with lnk := { s.lnk with ports := tset s.lnk.ports {} n v } }
def State.modPort (s : State) (n : Nat) (f : PortSt → PortSt) : State := s.setPort n (f (s.port n))

def State.queue (s : State) (q : Nat) : Queue := tget s.qrs.queues {} q
def State.setQueue (s : State) (q : Nat) (v : Queue) : State :=
  { s with qrs := { s.qrs with queues := tset s.qrs.queues {} q v } }
def State.modQueue (s : State) (q : Nat) (f : Queue → Queue) : State := s.setQueue q (f (s.queue q))

def State.window (s : State) (w : Nat) : Window := tget s.qrs.windows {} w
def State.setWindow (s : State) (w : Nat) (v : Window) : State :=
  { s with qrs := { s.qrs with windows := tset s.qrs.windows {} w v } }
def State.modWindow (s : State) (w : Nat) (f : Window → Window) : State := s.setWindow w (f (s.window w))

def State.snap (s : State) (p : Nat) : SnapSt := tget s.snp {} p
def State.setSnap (s : State) (p : Nat) (v : SnapSt) : State := { s with snp := tset s.snp {} p v }
def State.modSnap (s : State) (p : Nat) (f : SnapSt → SnapSt) : State := s.setSnap p (f (s.snap p))

def State.recov (s : State) (p : Nat) : RcvSt := tget s.rcv {} p
def State.setRecov (s : State) (p : Nat) (v : RcvSt) : State := { s with rcv := tset s.rcv {} p v }
def State.modRecov (s : State) (p : Nat) (f : RcvSt → RcvSt) : State := s.setRecov p (f (s.recov p))

def State.ledgerEnt (s : State) (i : Nat) : LedgerEntry := tget s.gov.ledger {} i
def State.setLedger (s : State) (i : Nat) (v : LedgerEntry) : State :=
  { s with gov := { s.gov with ledger := tset s.gov.ledger {} i v } }

def State.group (s : State) (g : Nat) : GroupSt := tget s.gov.groups {} g
def State.setGroup (s : State) (g : Nat) (v : GroupSt) : State :=
  { s with gov := { s.gov with groups := tset s.gov.groups {} g v } }
def State.modGroup (s : State) (g : Nat) (f : GroupSt → GroupSt) : State := s.setGroup g (f (s.group g))

def State.kndPort (s : State) (n : Nat) : KndPort := tget s.knd.ports {} n
def State.modKndPort (s : State) (n : Nat) (f : KndPort → KndPort) : State :=
  { s with knd := { s.knd with ports := tset s.knd.ports {} n (f (s.kndPort n)) } }

/-- The committed slice of a partition. -/
def State.slice (s : State) (p : Nat) : Option Slice := tfind s.rcp.slices p

/-- Folds an update over a list. -/
def overAll {α : Type} (l : List α) (f : α → State → State) (s : State) : State :=
  l.foldl (fun t x => f x t) s

/-! ## Partitions and racks -/

/-- The racks of a partition (R87 PRT_RACKS). -/
def State.racksOf (s : State) (p : Nat) : List Nat := bitsOf 48 (s.part p).racks.toNat

/-- The partition that a rack belongs to, if any. -/
def State.partOf (s : State) (n : Nat) : Option Nat :=
  (List.range 8).find? (fun p => (s.part p).racks.toNat.testBit n)

/-- An island answers: it is On (R13). -/
def State.isOn (s : State) (n : Nat) : Bool := decide ((s.island n).pow = .on)

/-- Frames that a message of this side takes (R279); none where it is not one of Queros. -/
def Out.frames : Out → Nat
  | .completion .. | .event _ | .hello .. | .credit .. => 1
  | .burst _ _ _ _ _ _ d => (16 + d.length + 239) / 240
  | _ => 0

/-- Frames that the replay buffer keeps (R279). -/
def frameMax : Nat := 1024

/-- Forms the frames of the messages that the replay buffer has room for, while the link is up (R278, R279). -/
def Qrs.pump : Nat → Qrs → Qrs
  | 0, t => t
  | f + 1, t =>
    match t.out with
    | [] => t
    | o :: rest =>
      if t.state ≠ 2 ∨ frameMax < t.frames.length + o.frames then t
      else
        Qrs.pump f { t with
          out := rest, txNext := t.txNext + BitVec.ofNat 12 o.frames
          frames := t.frames ++ (List.range o.frames).map (fun i => { seq := t.txNext + BitVec.ofNat 12 i, msg := o, idx := i }) }

def Qrs.drain (t : Qrs) : Qrs := t.pump t.out.length

/-- The link is up again: what waited goes on (R278). -/
def Qrs.wake (t : Qrs) : Qrs := { t with state := 2 }.drain

/-- A message joins those to send. -/
def Qrs.send (t : Qrs) (o : Out) : Qrs := if o.frames = 0 then t else { t with out := t.out ++ [o] }.drain

/-- Some partition is in a state. -/
def State.anyPart (s : State) (f : PState → Bool) : Bool := (List.range 8).any (fun p => f (s.part p).state)

/-- Writes a persistent record; a failed island 79 leaves the store out of reach (13_recovery.md R261). -/
def State.persist (s : State) (f : Persist → Persist) : State := if s.dev.hub79 then s else { s with per := f s.per }

/-! ## What leaves the device, and free values -/

def State.emit (s : State) (o : Out) : State := { s with sent := s.sent ++ [o], qrs := s.qrs.send o }

/-- A completion (14_queros_host_link.md R284). -/
def State.complete (s : State) (q : Nat) (htag : BitVec 16) (status : BitVec 8) (detail : BitVec 32)
    (data : Word64) : State := s.emit (.completion q htag status detail data)

/-- A value that the manual leaves open, fresh at each use (entry 13). -/
def State.free (s : State) : Word64 × State := (Config.freeValue s.freeCtr, { s with freeCtr := s.freeCtr + 1 })

end Sys2Proof.Machine
end

