-- ==== Sys2Proof/Machine/Flags.lean ====
section
/-! DEFINITION. What the device raises and counts: event records (14_queros_host_link.md R290, R291), the memory
error log and its counts (10_hbm_memory.md R213, R218), and sticky first-error registers. -/

namespace Sys2Proof.Machine

/-! ## Events -/

/-- Records that the event buffer holds (R291). -/
def evBufMax : Nat := 8192

/-- Source number of a partition, and of the event unit (R290). -/
def srcPart (p : Nat) : Nat := 0x100 + p
def srcUnit : Nat := 0x200

/-- Stores a record, or drops it when the buffer is full (R291). -/
def Qrs.store (q : Qrs) (e : Event) : Qrs :=
  if q.evBuf.length < evBufMax then { q with evBuf := q.evBuf ++ [e] }
  else { q with dropped := satAdd q.dropped 1, lostPend := q.lostPend + 1 }

/-- Takes the next sequence number of a source (R290, 20_resets_and_retention.md R380). -/
def State.nextSeq (s : State) (src : Nat) : BitVec 32 × State :=
  let n := tget s.hkp.evSeq 0 src
  (n, { s with hkp := { s.hkp with evSeq := tset s.hkp.evSeq 0 src (n + 1) } })

/-- Raises an event. While island 78, which holds the buffer, is not On, the record is lost and the gap in SEQ shows
it (R291, 17_clocks_and_islands.md R336). -/
def State.raise (s : State) (src : Nat) (code : EvCode) (payload : List Int) : State :=
  let p := s.nextSeq src
  let e : Event := { src := src, code := code, seq := p.1, time := s.hkp.count % 2 ^ 40, payload := payload }
  if s.isOn 78 then { p.2 with qrs := p.2.qrs.store e } else p.2

/-! ## Memory error log -/

/-- Log kinds (R213). -/
inductive LogKind where
  | ce | ue | ueAddr | scrubCe | scrubUe | rmwUe | retired | stackFail
  deriving DecidableEq, Repr

def LogKind.code : LogKind → Nat
  | .ce => 1 | .ue => 2 | .ueAddr => 3 | .scrubCe => 4 | .scrubUe => 5 | .rmwUe => 6 | .retired => 7
  | .stackFail => 8

/-- Requester class codes (R213). -/
def reqCode : Requester → Nat
  | .rackTask => 0 | .updateEngine => 1 | .snapshotEngine => 2 | .peel => 3 | .receiveGen => 4 | .mergeUnit => 5
  | .scrub => 6 | .controllerRmw => 7 | .hubControl => 8

/-- The 128 bits of a log entry (R213) for byte `l` of a stack. -/
def logWord (seq time kind : Nat) (l symbol req rid : Nat) : Nat :=
  let c := hbmCell l
  (seq % 2 ^ 24) <<< 104 ||| (time % 2 ^ 40) <<< 64 ||| kind <<< 60 ||| c.1 <<< 55 ||| c.2.1 <<< 49 |||
    c.2.2.1 <<< 34 ||| (c.2.2.2 / 32) <<< 29 ||| symbol <<< 23 ||| req <<< 18 ||| (rid % 64) <<< 12

/-- Uncorrectable kinds (R213). RETIRED and STACK_FAIL count in neither UE nor MEM_UE. -/
def LogKind.uncorrectable : LogKind → Bool
  | .ue | .ueAddr | .scrubUe | .rmwUe => true
  | _ => false

def LogKind.correctable : LogKind → Bool
  | .ce | .scrubCe => true
  | _ => false

/-- Writes a log entry into its ring: a full ring loses its oldest entry (R213). -/
def StackSt.logged (k : StackSt) (w : Nat) : StackSt :=
  { k with
    log := tset k.log 0 k.head.toNat (BitVec.ofNat 128 w)
    head := k.head + 1
    entries := if k.entries < 512 then k.entries + 1 else 512
    overrun := if k.entries < 512 then k.overrun else satAdd k.overrun 1 }

/-- Logs an error of byte `l` of a stack and raises its event (R213): an uncorrectable kind raises MEM_UE with the
entry, a correctable kind MEM_CE when the count crosses a multiple of 2^CE_EVT. -/
def State.logError (s : State) (k : Nat) (kind : LogKind) (l symbol : Nat) (cls : Requester) (rid : Nat) : State :=
  let c := s.stack k
  let q := tget s.hkp.memSeq 0 k
  let s := { s with hkp := { s.hkp with memSeq := tset s.hkp.memSeq 0 k (q + 1) } }
  let w := logWord q.toNat s.hkp.count kind.code l symbol (reqCode cls) (if cls = .hubControl then 0 else rid)
  let c1 := c.logged w
  if kind.uncorrectable then
    (s.setStack k { c1 with ue := satAdd c1.ue 1 }).raise (48 + k) .memUe [w]
  else if kind.correctable then
    let ce := satAdd c1.ce 1
    let t := s.setStack k { c1 with ce := ce }
    if c1.ce.toNat >>> c.ceEvt.toNat ≠ ce.toNat >>> c.ceEvt.toNat then t.raise (48 + k) .memCe [w] else t
  else s.setStack k c1

/-! ## First-error registers -/

/-- Records a Cellar port's first error since it was cleared (11_cellar.md R230). -/
def CxlSt.noteError (c : CxlSt) (kind dsp addr : Nat) : CxlSt :=
  if c.errValid then c
  else { c with errValid := true, errKind := BitVec.ofNat 4 kind, errDsp := BitVec.ofNat 3 dsp,
                errAddr := BitVec.ofNat 48 addr }

/-- Records the Kneader's first failure since it was cleared (09_kneader.md R202). -/
def State.kndError (s : State) (code : BitVec 3) (step : Step) (bid : BitVec 20) : State :=
  if s.knd.errValid then s
  else { s with knd := { s.knd with errValid := true, errCode := code, errStep := step, errBid := bid } }

/-- Records a commit's first rejection since it was cleared (15_recipes.md R310). -/
def State.recFail (s : State) (section_ record : Nat) (detail : BitVec 32) : State :=
  if s.rcp.failValid then s
  else { s with rcp := { s.rcp with failValid := true, failSection := BitVec.ofNat 7 section_,
                                    failRecord := BitVec.ofNat 18 record, failDetail := detail } }

end Sys2Proof.Machine
end

