-- ==== Sys2Proof/Machine/Access.lean ====
section
/-! DEFINITION. An access to memory by one requester: who is bound by what (R13, R80, R85, R90, R138), what a
sector's state gives (10_hbm_memory.md R206 to R212), and where a Cellar address goes (11_cellar.md R221). -/

namespace Sys2Proof.Machine

/-- Who makes an access: a rack's task, a hub agent that serves a partition, a Peel window, the Snapshot Engine, or
the command processor and Crust. -/
inductive Who where
  | rack (n : Nat)
  | agent (cls : Requester) (rid : Nat) (p : Nat)
  | peel (w : Nat)
  | snapshot
  | processor
  deriving DecidableEq, Repr

def Who.cls : Who → Requester
  | .rack _ => .rackTask
  | .agent c _ _ => c
  | .peel _ => .peel
  | .snapshot => .snapshotEngine
  | .processor => .hubControl

def Who.rid : Who → Nat
  | .rack n => n
  | .agent _ r _ => r
  | .peel w => w
  | _ => 0

/-- The partition whose bounds hold for a requester (R85). -/
def Who.bound (s : State) : Who → Option Nat
  | .rack n => s.partOf n
  | .agent _ _ p => some p
  | _ => none

/-- Bus-error sub-codes (06_task_engines_and_whisk.md R134, 14_queros_host_link.md R284). -/
def eUE : Nat := 1
def eUnmapped : Nat := 2
def eIslandOff : Nat := 3
def ePartBound : Nat := 4
def eRackPrivate : Nat := 5
def ePartFaulted : Nat := 6
def eRackBusy : Nat := 7

/-- A bus error: its sub-code, and the island it names, 0xFF for none. -/
structure BusErr where
  code : Nat
  island : Nat := 0xFF
  deriving DecidableEq, Repr

/-! ## Cellar decoders -/

/-- Decoder sizes and granules (R221). -/
def cellarUnit : Nat := 2 ^ 28
def decFirst (d : DecRec) : Nat := cellarBase + d.base * cellarUnit
def decBytes (d : DecRec) : Nat := (if d.size = 0 then 65536 else d.size) * cellarUnit
def decHolds (d : DecRec) (a : Nat) : Bool := decide (decFirst d ≤ a ∧ a < decFirst d + decBytes d)
def decGranule (d : DecRec) : Nat := if d.gran = 0 then 256 else if d.gran = 1 then 1024 else 4096
def decNports (d : DecRec) : Nat := 2 ^ d.pways
def decNexp (d : DecRec) : Nat := 2 ^ d.eways

/-- Port and downstream port of an address inside a decoder (R221). -/
def decTarget (d : DecRec) (a : Nat) : Nat × Nat :=
  let c := (a - decFirst d) / (decGranule d)
  let slot := c % (decNports d)
  (d.ports.getD slot 0, (d.dsps.getD slot []).getD (c / (decNports d) % (decNexp d)) 0)

/-- The downstream port that a decoder's field names behind a port: the one device where no switch is present, whose field is
disregarded (R221). -/
def CxlSt.dsp (c : CxlSt) (d : Nat) : Nat := if c.switch then d else 0

/-- A decoder targets a port, or one downstream port of it. -/
def State.decTargets (s : State) (d : DecRec) (n : Nat) (dsp : Option Nat) : Bool :=
  (List.range (decNports d)).any (fun i =>
    d.ports.getD i 0 == n &&
      (match dsp with
       | none => true
       | some x => (List.range (decNexp d)).any (fun j => (tget s.cxl.ports {} n).dsp ((d.dsps.getD i []).getD j 0) == x)))

/-- The decoder that covers an address. -/
def State.decoderAt (s : State) (a : Nat) : Option DecRec := s.cxl.decoders.find? (fun d => decHolds d a)

/-! ## Regions -/

def regHolds (r : RegionRec) (a : Nat) : Bool := decide (r.base ≤ a ∧ a < r.base + r.size)

/-- Every committed region: the common ones, then each loaded partition's (R85). -/
def State.regions (s : State) : List RegionRec :=
  s.rcp.common ++ s.rcp.slices.flatMap (fun e => e.2.regions)

def State.regionAt (s : State) (a : Nat) : Option RegionRec := s.regions.find? (fun r => regHolds r a)

/-- What R85 and R90 refuse a bound requester at one address. -/
def State.boundErr (s : State) (who : Who) (a : Nat) : Option BusErr :=
  match who.bound s, s.regionAt a with
  | none, _ => none
  | some _, none => some { code := ePartBound }
  | some p, some r =>
    match r.owner with
    | none => none
    | some o =>
      if (s.part o.val).faultedMark then some { code := ePartFaulted }
      else if o.val = p then none else some { code := ePartBound }

/-- A retired page or bank holds byte `l` of a stack (R214). -/
def StackSt.isRetired (k : StackSt) (l : Nat) : Bool :=
  let c := hbmCell l
  k.retire.any (fun r =>
    r.pc.toNat == c.1 && r.bankNo.toNat == c.2.1 && (r.bank || r.row.toNat == c.2.2.1))

/-- The sector, counted over all stacks, reads uncorrectable (R209). -/
def State.isPoison (s : State) (sector : Nat) : Bool := s.poison.contains sector

/-- Bytes of a sector that the write-merge buffer covers (R207). -/
def StackSt.mergeMask (k : StackSt) (sector : Nat) : BitVec 32 :=
  match k.merge.find? (fun e => e.sector == sector) with
  | some e => e.mask
  | none => 0

/-- Mask of bytes `lo` to `lo + n - 1` of a sector. -/
def sectorMask (lo n : Nat) : BitVec 32 := BitVec.ofNat 32 ((2 ^ n - 1) <<< lo)

/-- Why an access of byte `a` is refused before memory is reached: no such place, an island that does not answer, a
partition rule, or a rack store's privacy (R13, R16, R79, R80, R85, R90, R138, R222). -/
def State.gateErr (s : State) (who : Who) (write : Bool) (a : Nat) : Option BusErr :=
  match s.place a with
  | .unmapped => some { code := eUnmapped }
  | .hbm k _ => if s.isOn (48 + k) then s.boundErr who a else some { code := eIslandOff, island := 48 + k }
  | .pantry d => if s.isOn (60 + d) then s.boundErr who a else some { code := eIslandOff, island := 60 + d }
  | .rack n =>
    if !s.isOn n then some { code := eIslandOff, island := n }
    else
      match who with
      | .rack m => if m = n then none else some { code := eRackPrivate }
      | .peel _ =>
        match s.partOf n with
        | some p => if (s.part p).state = .run then some { code := eRackBusy } else none
        | none => none
      | .processor => none
      | _ => some { code := eRackPrivate }
  | .ledger _ =>
    match who, write with
    | .peel _, false => none
    | _, _ => some { code := eUnmapped }
  | .cellar =>
    match s.decoderAt a with
    | none => some { code := eUnmapped }
    | some d =>
      let n := (decTarget d a).1
      if !s.isOn (71 + n) then some { code := eIslandOff, island := 71 + n }
      else
        match s.boundErr who a with
        | some e => some e
        | none => if s.cxl.lost.contains d.index then some { code := eUE, island := 71 + n } else none

/-- Ledger indexes that `n` bytes from `a` touch. -/
def sectorLedger (a n : Nat) : List Nat :=
  (List.range ((a % 16 + n + 15) / 16)).map (fun i => (a - ledgerBase) / 16 + i)

/-- Why the HBM controller refuses the sector of an HBM byte for `n` bytes from `a` within that sector: a failed
stack (R212), retired memory (R214), or, for a read, an uncorrectable sector outside the merge buffer (R207,
R209); an uncorrectable word of a Pantry, a rack store or the Ledger SRAM refuses a read (R18), and so does one that an expander returns
with poison (11_cellar.md R227). -/
def State.sectorErr (s : State) (write : Bool) (a n : Nat) : Option (LogKind × BusErr) :=
  match s.place a with
  | .hbm k l =>
    if (s.stack k).failed then some (.ue, { code := eUE, island := 48 + k })
    else if (s.stack k).isRetired l then some (.retired, { code := eUnmapped, island := 48 + k })
    else if !write && s.isPoison (s.key a / 32) &&
        ((s.stack k).mergeMask (l / 32) &&& sectorMask (l % 32) n != sectorMask (l % 32) n) then
      some (.ue, { code := eUE, island := 48 + k })
    else none
  | .pantry d =>
    if !write && s.secded.any (fun x => decide (a < 8 * x + 8 ∧ 8 * x < a + n)) then some (.ue, { code := eUE, island := 60 + d }) else none
  | .rack r =>
    if !write && s.secded.any (fun x => decide (a < 8 * x + 8 ∧ 8 * x < a + n)) then some (.ue, { code := eUE, island := r }) else none
  | .ledger _ =>
    if !write && (sectorLedger a n).any (fun i => s.gov.errs.contains i) then some (.ue, { code := eUE, island := 78 }) else none
  | .cellar =>
    if !write && s.secded.any (fun x => decide (a < 8 * x + 8 ∧ 8 * x < a + n)) then
      some (.ue, { code := eUE, island := 71 + ((s.decoderAt a).map (fun d => (decTarget d a).1)).getD 0 })
    else none
  | .unmapped => none

/-- Sectors that `n` bytes from `a` touch, each as its first touched byte and the bytes touched. -/
def sectorSpans (a n : Nat) : List (Nat × Nat) :=
  (List.range ((a % 32 + n + 31) / 32)).map (fun i =>
    let lo := max a ((a / 32 + i) * 32)
    let hi := min (a + n) ((a / 32 + i + 1) * 32)
    (lo, hi - lo))

/-- The first byte of each 256-byte granule that `n` bytes from `a` touch: no region, decoder granule or store ends inside one (R85, R204,
R221). -/
def granules (a n : Nat) : List Nat := (List.range ((a % 256 + n + 255) / 256)).map (fun i => max a ((a / 256 + i) * 256))

/-- The first error of an access of `n` bytes from `a`, and the log kind where the controller logs it. -/
def State.accessErr (s : State) (who : Who) (write : Bool) (a n : Nat) : Option (Option LogKind × BusErr × Nat) :=
  match (granules a n).findSome? (fun x => (s.gateErr who write x).map (fun e => (e, x))) with
  | some e => some (none, e.1, e.2)
  | none =>
    (sectorSpans a n).findSome? (fun x =>
      (s.sectorErr write x.1 x.2).map (fun p => (some p.1, p.2, x.1)))

/-- An entry of the Ledger is found uncorrectable: LEDGER_UE is raised once, and the entry reads so until a snapshot restores it
(07_precision_steering.md R138). -/
def State.ledgerUe (s : State) (ue : Option Nat) : State :=
  match ue with
  | none => s
  | some i =>
    if s.gov.errs.contains i then s
    else { s with gov := { s.gov with errs := s.gov.errs ++ [i] } }.raise 78 .ledgerUe [i]

/-- A word that a read finds uncorrectable stays so until it is written whole (R18, R206, R209; of the Cellar, entry 183); the Governor
raises its event. An HBM controller logs it when the read meets it, and a Cellar port records it (11_cellar.md R227). -/
def State.markUe (s : State) (a : Nat) : State :=
  match s.place a with
  | .hbm _ _ => { s with poison := s.poison.filter (fun x => x != s.key a / 32) ++ [s.key a / 32] }
  | .pantry _ | .rack _ | .cellar => { s with secded := s.secded.filter (fun x => x != a / 8) ++ [a / 8] }
  | .ledger i => s.ledgerUe (some i)
  | .unmapped => s

/-- A Cellar port records a read that its expander returned with poison (11_cellar.md R227, R230). -/
def State.notePoison (s : State) (a : Nat) : State :=
  match s.decoderAt a with
  | none => s
  | some d =>
    let t := decTarget d a
    s.modCxlPort t.1 (fun c => c.noteError 1 (c.dsp t.2) a)

/-- The word that a row's operand says is found uncorrectable by the read that the row goes on to make, if any. -/
def State.markUes (s : State) (ue : Option Nat) : State :=
  match ue with
  | none => s
  | some a => s.markUe a

/-- A word that a read finds uncorrectable, whose error the requester gets with nothing read: it is marked, and an HBM controller or
a Cellar port logs it. -/
def State.noteUe (s : State) (who : Who) (a : Nat) : State :=
  match s.place a with
  | .hbm k l => (s.markUe a).logError k .ue l 63 who.cls who.rid
  | .cellar => (s.markUe a).notePoison a
  | _ => s.markUe a

/-- The word that a row's operand says was found uncorrectable, if any. -/
def State.noteUes (s : State) (who : Who) (ue : Option Nat) : State :=
  match ue with
  | none => s
  | some a => s.noteUe who a

/-- Logs the error of an access where the HBM controller or the Cellar port does (R211, R213, 11_cellar.md R227). -/
def State.logAccess (s : State) (who : Who) (e : Option LogKind × BusErr × Nat) : State :=
  match e.1, s.place e.2.2 with
  | some kind, .hbm k l => s.logError k kind l 63 who.cls who.rid
  | some _, .cellar => s.notePoison e.2.2
  | _, _ => s

/-! ## Sectors and the write-merge buffer (10_hbm_memory.md R206 to R209) -/

/-- Sectors of one stack (R203). -/
def sectorsPerStack : Nat := 0x60000000

/-- The number of a stack's sector over all stacks, as `poison` keeps it. -/
def sectorOf (k sector : Nat) : Nat := k * sectorsPerStack + sector

/-- What the decoder makes of a sector (R206). -/
inductive Decoded where
  | clean
  | corrected (symbol : Nat)
  | bad (addr : Bool) (symbol : Nat)
  deriving DecidableEq, Repr

/-- Outcome of reading a sector that carries poison or meets an error pattern (R206, R209). -/
def decodeSector (poisoned : Bool) : ErrPat → Decoded
  | .none => if poisoned then .bad false 63 else .clean
  | .one p => if poisoned then .bad false 63 else .corrected p
  | .many _ => .bad false 63
  | .wrongAddr _ (some p) => .bad true p
  | .wrongAddr _ none => .bad false 63

/-- The log kind of an uncorrectable read. -/
def badKind (addr : Bool) : LogKind := if addr then .ueAddr else .ue

/-- Poisons a sector, or makes it sound. -/
def State.setPoison (s : State) (sec : Nat) (on : Bool) : State :=
  let l := s.poison.filter (fun x => x != sec)
  { s with poison := if on then l ++ [sec] else l }

/-- A sector leaves the write-merge buffer. -/
def State.unmerge (s : State) (k sector : Nat) : State :=
  s.modStack k (fun c => { c with merge := c.merge.filter (fun e => e.sector != sector) })

/-- The read-modify-write of a sector that waits in the buffer (R207, R209); a failed stack's read is uncorrectable (R212). -/
def State.rmwSector (s : State) (k sector : Nat) (pat : ErrPat) : State :=
  match (s.stack k).merge.find? (fun e => e.sector == sector) with
  | none => s
  | some e =>
    match (if (s.stack k).failed then .bad false 63 else decodeSector (s.isPoison (sectorOf k sector)) pat : Decoded) with
    | .clean => s.unmerge k sector
    | .corrected p => (s.unmerge k sector).logError k .ce (32 * sector) p .controllerRmw 0
    | .bad _ _ =>
      ((s.unmerge k sector).setPoison (sectorOf k sector) true).logError k .rmwUe (32 * sector) 63 e.cls e.rid

/-- Sectors that a write-merge buffer keeps for each pseudo-channel (R207). -/
def mergeMax : Nat := 64

/-- Entries of a pseudo-channel. -/
def StackSt.mergeOf (c : StackSt) (pc : Nat) : List MergeEnt := c.merge.filter (fun e => (hbmCell (32 * e.sector)).1 == pc)

/-- Room for a sector: a full pseudo-channel first writes its oldest one (entry 163). -/
def State.mergeRoom (s : State) (k sector : Nat) : State :=
  let c := s.stack k
  let l := c.mergeOf (hbmCell (32 * sector)).1
  if c.merge.any (fun e => e.sector == sector) || decide (l.length < mergeMax) then s
  else
    match l with
    | [] => s
    | e :: _ => s.rmwSector k e.sector .none

/-- A write of some bytes of a sector enters the buffer; once its writes cover the sector it is written with no read, and is sound again
(R207, R209). -/
def State.enterMerge (s : State) (k sector : Nat) (bytes : BitVec 32) (cls : Requester) (rid : Nat) : State :=
  let m := (s.stack k).mergeMask sector ||| bytes
  if m = 0 then s
  else if m = BitVec.allOnes 32 then (s.unmerge k sector).setPoison (sectorOf k sector) false
  else ((s.mergeRoom k sector).unmerge k sector).modStack k (fun x =>
    { x with merge := x.merge ++ [{ sector := sector, mask := m, cls := cls, rid := rid }] })

/-! ## Reads and writes -/

/-- The 16 bytes of a Ledger entry (07_precision_steering.md R136). -/
def lstateCode : LState → Nat
  | .fixed => 0 | .steady => 1 | .settling => 2 | .ceiling => 3

def ledgerBits (e : LedgerEntry) : Nat :=
  e.camaxO.toNat <<< 96 ||| e.camaxE.toNat <<< 64 ||| (if e.pin then 1 else 0) <<< 60 ||| lstateCode e.state <<< 58 |||
    e.group.toNat <<< 54 ||| e.cls.toNat <<< 49 ||| e.ncnt.toNat <<< 41 ||| e.wcnt.toNat <<< 36 |||
    e.rung.toNat <<< 32 ||| e.cwO.toNat <<< 16 ||| e.cwE.toNat

/-- One byte as a read returns it: a Ledger byte is composed from its entry (R135, R138). -/
def State.readByte (s : State) (a : Nat) : Byte :=
  match s.place a with
  | .ledger i => BitVec.ofNat 8 ((ledgerBits (s.ledgerEnt i)) >>> (8 * ((a - ledgerBase) % 16)))
  | _ => s.byteAt a

def State.readBytes (s : State) (a n : Nat) : List Byte := (List.range n).map (fun i => s.readByte (a + i))

/-- What a write does to the sector bookkeeping of its controller (R207, R209), or to the check words of an SRAM: a 64-bit word that it
covers is sound. -/
def State.mergeSector (s : State) (who : Who) (a n : Nat) : State :=
  match s.place a with
  | .hbm k l => s.enterMerge k (l / 32) (sectorMask (l % 32) n) who.cls who.rid
  | _ => if s.secded.isEmpty then s
    else { s with secded := s.secded.filter (fun x => !(decide (a ≤ 8 * x ∧ 8 * x + 8 ≤ a + n))) }

/-- Bytes of a list from address `a` give way to those from address `x` where the two meet. -/
def patch (b : List Byte) (a : Nat) (d : List Byte) (x : Nat) : List Byte :=
  if x < a + b.length ∧ a < x + d.length then
    b.zipIdx.map (fun y => if x ≤ a + y.2 ∧ a + y.2 < x + d.length then d.getD (a + y.2 - x) 0 else y.1)
  else b

/-- The outstanding writes of the Cellar ports, oldest first. -/
def State.cellarWrites (s : State) : List CxlReq :=
  (s.cxl.ports.flatMap (fun e => e.2.reqs ++ e.2.wait)).filter (fun r => r.isWrite)

/-- A read of Cellar bytes follows the outstanding writes of its lines (11_cellar.md R225). -/
def State.afterWrites (s : State) (a : Nat) (b : List Byte) : List Byte :=
  if s.place a = .cellar then s.cellarWrites.foldl (fun l r => patch l a r.data r.addr) b else b

/-- A read of `n` bytes: the bytes, or the bus error; an error that a controller meets is logged. -/
def State.read (s : State) (who : Who) (a n : Nat) : State × Except BusErr (List Byte) :=
  match s.accessErr who false a n with
  | some e => (s.logAccess who e, .error e.2.1)
  | none => (s, .ok (s.afterWrites a (s.readBytes a n)))

/-- The outstanding requests of a port when a write of bytes from `a` joins them: what earlier writes still bring does not replace it,
and an earlier read of its line keeps the bytes that it comes to before it (R225). -/
def behind (line : Nat → List Byte) (a : Nat) (b : List Byte) (l : List CxlReq) : List CxlReq :=
  l.zipIdx.map (fun x =>
    let r := x.1
    if r.isWrite then { r with data := patch r.data r.addr b a }
    else if r.data.isEmpty && decide (r.addr / 64 * 64 < a + b.length ∧ a < r.addr / 64 * 64 + 64) then
      { r with data := (l.take x.2).foldl (fun d w => if w.isWrite then patch d r.addr w.data w.addr else d) (line r.addr) }
    else r)

/-- A write of Cellar bytes stands behind the outstanding requests of its lines. -/
def State.behindWrites (s : State) (a : Nat) (b : List Byte) : State :=
  if s.place a = .cellar then
    let line := fun (x : Nat) => s.readBytes x 64
    { s with cxl := { s.cxl with ports := s.cxl.ports.map (fun e => (e.1, { e.2 with
        reqs := (behind line a b (e.2.reqs ++ e.2.wait)).take e.2.reqs.length
        wait := (behind line a b (e.2.reqs ++ e.2.wait)).drop e.2.reqs.length })) } }
  else s

/-- A write of bytes from `a`: the error if it is refused, else the bytes stored and accepted (R118). -/
def State.write (s : State) (who : Who) (a : Nat) (b : List Byte) : State × Option BusErr :=
  match s.accessErr who true a b.length with
  | some e => (s.logAccess who e, some e.2.1)
  | none => (((overAll (sectorSpans a b.length) (fun x t => t.mergeSector who x.1 x.2) s).behindWrites a b).setBytes a b, none)

end Sys2Proof.Machine
end

