-- ==== Sys2Proof/Machine/Digest.lean ====
section
/-! DEFINITION. The device's digests: SHAKE256, the only hash the Crust uses (16_trust.md R311), KMAC256 for command
tags (R320), and the CRC-32 of IEEE 802.3 (14_queros_host_link.md R279). The manual names these standard functions
without writing them out (entry 8): FIPS 202, SP 800-185 and IEEE 802.3 are the sources. -/

namespace Sys2Proof.Machine

/-! ## Keccak-f[1600] on 25 lanes of 64 bits, lane x + 5y -/

def lane (a : List Nat) (x y : Nat) : Nat := a.getD (x % 5 + 5 * (y % 5)) 0

def rotLane (v r : Nat) : Nat := ((v <<< r) ||| (v >>> (64 - r))) % 2 ^ 64

/-- Rotation amounts by lane x + 5y (FIPS 202, table 2). -/
def keccakRot : List Nat :=
  [0, 1, 62, 28, 27, 36, 44, 6, 55, 20, 3, 10, 43, 25, 39, 41, 45, 15, 21, 8, 18, 2, 61, 56, 14]

/-- Round constants (FIPS 202, section 3.2.5). -/
def keccakRc : List Nat :=
  [0x0000000000000001, 0x0000000000008082, 0x800000000000808A, 0x8000000080008000,
   0x000000000000808B, 0x0000000080000001, 0x8000000080008081, 0x8000000000008009,
   0x000000000000008A, 0x0000000000000088, 0x0000000080008009, 0x000000008000000A] ++
  [0x000000008000808B, 0x800000000000008B, 0x8000000000008089, 0x8000000000008003,
   0x8000000000008002, 0x8000000000000080, 0x000000000000800A, 0x800000008000000A,
   0x8000000080008081, 0x8000000000008080, 0x0000000080000001, 0x8000000080008008]

/-- Theta: every lane takes the parity of two neighbouring columns. -/
def theta (a : List Nat) : List Nat :=
  let c := (List.range 5).map (fun x =>
    lane a x 0 ^^^ lane a x 1 ^^^ lane a x 2 ^^^ lane a x 3 ^^^ lane a x 4)
  let d := (List.range 5).map (fun x => c.getD ((x + 4) % 5) 0 ^^^ rotLane (c.getD ((x + 1) % 5) 0) 1)
  (List.range 25).map (fun i => a.getD i 0 ^^^ d.getD (i % 5) 0)

/-- Rho and pi: lane (x, y) of the result is lane (x + 3y, x) of the argument, rotated. -/
def rhoPi (a : List Nat) : List Nat :=
  (List.range 25).map (fun i =>
    let j := (i % 5 + 3 * (i / 5)) % 5 + 5 * (i % 5)
    rotLane (a.getD j 0) (keccakRot.getD j 0))

/-- Chi: each lane takes the next two of its row. -/
def chi (b : List Nat) : List Nat :=
  (List.range 25).map (fun i =>
    b.getD i 0 ^^^ ((lane b (i % 5 + 1) (i / 5) ^^^ (2 ^ 64 - 1)) &&& lane b (i % 5 + 2) (i / 5)))

def keccakRound (a : List Nat) (rc : Nat) : List Nat :=
  match chi (rhoPi (theta a)) with
  | [] => []
  | l :: t => (l ^^^ rc) :: t

def keccakF (a : List Nat) : List Nat := keccakRc.foldl keccakRound a

/-! ## The sponge with a rate of 136 bytes -/

/-- XORs a block of 136 bytes into the lanes and permutes. -/
def absorb (a : List Nat) (block : List Byte) : List Nat :=
  keccakF (List.zipWith (· ^^^ ·) a ((chunks 8 17 block).map leNat ++ List.replicate 8 0))

/-- Pads a message for a domain byte and cuts it into blocks. -/
def spongeBlocks (domain : Byte) (m : List Byte) : List (List Byte) :=
  let n := m.length / 136 + 1
  let zeros := n * 136 - m.length - 1
  let tail := if zeros = 0 then [domain ||| 0x80] else domain :: (List.replicate (zeros - 1) 0 ++ [0x80])
  chunks 136 n (m ++ tail)

/-- The first `n` bytes, at most 136, of the sponge of a message. -/
def sponge (domain : Byte) (m : List Byte) (n : Nat) : List Byte :=
  let a := (spongeBlocks domain m).foldl absorb (List.replicate 25 0)
  (a.flatMap (leBytes 8)).take n

/-- SHAKE256 with an output of `n` bytes, at most 136. -/
def shake256 (m : List Byte) (n : Nat) : List Byte := sponge 0x1F m n

/-- The 256-bit SHAKE256 digest as a number whose byte 0 is least significant. -/
def digest256 (m : List Byte) : BitVec 256 := BitVec.ofNat 256 (leNat (shake256 m 32))

/-- SHAKE256 hash of the Askano root key (R311; entry 9). -/
def rootHash : BitVec 256 := digest256 ((List.range 1793).map Config.rootKey)

/-! ## KMAC256 (SP 800-185) -/

/-- The big-endian bytes of a number, at least one. -/
def beBytes : Nat → Nat → List Byte
  | 0, _ => []
  | f + 1, v => if v < 256 then [BitVec.ofNat 8 v] else beBytes f (v / 256) ++ [BitVec.ofNat 8 v]

def leftEncode (v : Nat) : List Byte :=
  let b := beBytes 8 v
  BitVec.ofNat 8 b.length :: b

def rightEncode (v : Nat) : List Byte :=
  let b := beBytes 8 v
  b ++ [BitVec.ofNat 8 b.length]

def encodeString (m : List Byte) : List Byte := leftEncode (8 * m.length) ++ m

def bytePad (m : List Byte) : List Byte :=
  let x := leftEncode 136 ++ m
  x ++ List.replicate ((136 - x.length % 136) % 136) 0

def asciiBytes (t : String) : List Byte := t.toList.map (fun c => BitVec.ofNat 8 c.toNat)

def kmac256 (key data : List Byte) (bits : Nat) (custom : String) : List Byte :=
  sponge 0x04
    (bytePad (encodeString (asciiBytes "KMAC") ++ encodeString (asciiBytes custom)) ++
      bytePad (encodeString key) ++ data ++ rightEncode bits) (bits / 8)

/-! ## CRC-32 of IEEE 802.3 -/

def crcBit (c : Nat) : Nat := if c % 2 = 1 then (c / 2) ^^^ 0xEDB88320 else c / 2

def crcByte (c : Nat) (b : Byte) : Nat :=
  crcBit (crcBit (crcBit (crcBit (crcBit (crcBit (crcBit (crcBit (c ^^^ b.toNat))))))))

def crc32 (m : List Byte) : Nat := (m.foldl crcByte 0xFFFFFFFF) ^^^ 0xFFFFFFFF

end Sys2Proof.Machine
end

