-- ==== Sys2Proof/Machine/Operands.lean ====
section
/-! DEFINITION. The operand forms: how command records (14_queros_host_link.md R281), frames (R279), completion and
burst headers, coordinates (12_links_and_ordering.md R232) and stored records spell their fields in bytes. -/

namespace Sys2Proof.Machine

/-! ## Command records -/

/-- The six words that a tag covers (R281, 16_trust.md R320). -/
def recWords (r : CmdRec) : List Nat :=
  [r.op.toNat ||| (if r.crit then 1 else 0) <<< 8 ||| r.rsv0.toNat <<< 9 ||| r.htag.toNat <<< 16 |||
     r.arg0.toNat <<< 32,
   r.addr.toNat ||| r.rsv1.toNat <<< 48, r.data.toNat, r.arg1.toNat, r.ctr.toNat, r.rsv5.toNat]

/-- Bytes 0 to 47 of a record. -/
def recHead (r : CmdRec) : List Byte := (recWords r).flatMap (leBytes 8)

/-- The 64 bytes of a record. -/
def recBytes (r : CmdRec) : List Byte := recHead r ++ leBytes 16 r.tag.toNat

/-- The record that 64 bytes spell. -/
def recOf (b : List Byte) : CmdRec :=
  let w := fun i => leNat ((b.drop (8 * i)).take 8)
  { op := BitVec.ofNat 8 (w 0), crit := (w 0).testBit 8, rsv0 := BitVec.ofNat 7 (w 0 >>> 9),
    htag := BitVec.ofNat 16 (w 0 >>> 16), arg0 := BitVec.ofNat 32 (w 0 >>> 32),
    addr := BitVec.ofNat 48 (w 1), rsv1 := BitVec.ofNat 16 (w 1 >>> 48),
    data := BitVec.ofNat 64 (w 2), arg1 := BitVec.ofNat 64 (w 3), ctr := BitVec.ofNat 64 (w 4),
    rsv5 := BitVec.ofNat 64 (w 5), tag := BitVec.ofNat 128 (leNat ((b.drop 48).take 16)) }

/-- The tag of a critical command on queue q under key k (R320). -/
def tagOf (k : BitVec 256) (serial : Word64) (q : Nat) (r : CmdRec) : BitVec 128 :=
  BitVec.ofNat 128 (leNat (kmac256 (leBytes 32 k.toNat)
    (BitVec.ofNat 8 q :: leBytes 8 serial.toNat ++ recHead r) 128 "ALN3-CMD"))

/-! ## Frames (R279) -/

/-- The fields of a frame. -/
structure FrameHdr where
  chan : Nat
  type : Nat
  first : Bool
  last : Bool
  len : Nat
  payload : List Byte
  fseq : BitVec 12
  ack : BitVec 12
  akind : Nat
  rsvOk : Bool
  crcOk : Bool
  deriving DecidableEq, Repr

def frameOf (b : List Byte) : FrameHdr :=
  let h := leNat (b.take 4)
  let t := leNat ((b.drop 244).take 4)
  { chan := fieldOf h 4 0, type := fieldOf h 7 5, first := h.testBit 8, last := h.testBit 9,
    len := fieldOf h 23 16, payload := (b.drop 4).take 240,
    fseq := BitVec.ofNat 12 t, ack := BitVec.ofNat 12 (t >>> 12), akind := fieldOf t 27 24,
    rsvOk := decide (fieldOf h 4 0 ≤ 25 ∧ fieldOf h 7 5 ≤ 2 ∧ fieldOf h 23 16 ≤ 240) && fieldOf h 15 10 == 0 && fieldOf h 31 24 == 0 && fieldOf t 31 28 == 0 &&
      leNat ((b.drop 248).take 4) == 0,
    crcOk := b.length == 256 && leNat ((b.drop 252).take 4) == crc32 (b.take 252) }

/-! ## Coordinates in DCOORD form (12_links_and_ordering.md R237) -/

/-- Fields of a coordinate: x, y, z, w, s. -/
def coordOf (c : BitVec 14) : Nat × Nat × Nat × Nat × Nat :=
  let v := c.toNat
  (fieldOf v 2 0, fieldOf v 5 3, fieldOf v 8 6, fieldOf v 12 9, fieldOf v 13 13)

/-! ## The ageing log (19_ageing.md R367) -/

/-- Bytes 0 to 247 of a record. -/
def ageBody (r : AgeRec) : List Byte :=
  leBytes 8 r.seq.toNat ++ [r.kind, 0, 0, 0] ++ leBytes 4 r.hours.toNat ++
    (List.range 80).map (fun i => r.margin.getD i 0xFF) ++
    (List.range 80).map (fun i => r.data.getD i 0) ++
    (List.range 40).map (fun i =>
      BitVec.ofNat 8 ((r.trim.getD (2 * i) 0).toNat + 16 * (r.trim.getD (2 * i + 1) 0).toNat)) ++
    r.tjmax :: List.replicate 31 0

/-- The 256 bytes of a record, CHECK included. -/
def ageBytes (r : AgeRec) : List Byte := ageBody r ++ shake256 (ageBody r) 8

/-- A 64-bit word of a ring record; zero where nothing was written. -/
def Persist.ageWord (p : Persist) (index word : Nat) : Word64 :=
  match tfind p.ageLog index with
  | some r => BitVec.ofNat 64 (leNat (((ageBytes r).drop (8 * word)).take 8))
  | none => 0

/-! ## The device certificate (16_trust.md R312) -/

def certBytes (p : Persist) : List Byte :=
  let fit := fun (n : Nat) (l : List Byte) => (l ++ List.replicate n 0).take n
  leBytes 4 0xA13CCE57 ++ leBytes 4 1 ++ leBytes 8 p.serial.toNat ++ fit 1793 p.idKey ++ List.replicate 7 0 ++
    fit 1568 p.kemKey ++ leBytes 2 p.certSig.length ++ List.replicate 6 0 ++ fit 1536 p.certSig

end Sys2Proof.Machine
end

