-- ==== Sys2Proof/Machine/Registers.lean ====
section
/-! DEFINITION. The control and status space: which register an address names (23_register_map.md R403), the island
that holds it, the access code of each field (R6, R407), what a read returns, and what a masked write leaves. -/

namespace Sys2Proof.Machine

/-- The registers of R403. -/
inductive Reg where
  | devId | devScratch
  | rckTray (n : Nat) | rckGang (n : Nat)
  | tskCtl (n : Nat) | tskSlot (n : Nat) | tskFault (n : Nat) | tskCmd (n : Nat)
  | strState (n : Nat) | strStep (n : Nat) | strInpos (n : Nat)
  | obsCtl (n : Nat) | obsSel (n c : Nat) | obsCnt (n c : Nat)
  | obsTrcCtl | obsTrcBase | obsTrcFlt | obsTrcPtr
  | sveRate (p : Nat) | sveStat (n : Nat) | govCmd | govCmdst | govStatus (g : Nat) | govCount (g : Nat)
  | prtState (p : Nat) | prtRacks (p : Nat)
  | trnInready (p : Nat) | trnState (p : Nat)
  | recStat | recFail | recDigest (k : Nat) | recPctl (p : Nat) | recPdigest (p k : Nat)
  | kndBktCtl | kndBktStat | kndErr | kndPortStat (n : Nat)
  | memMap | memCtl (n : Nat) | memEcnt (n : Nat) | memElogPtr (n : Nat) | memElogLo (n : Nat)
  | memElogHi (n : Nat) | memRetire (n : Nat) | memRetireCnt (n : Nat)
  | cxlCtl (n : Nat) | cxlStat (n : Nat) | cxlInv (n : Nat) | cxlErr (n : Nat) | cxlDec (m w : Nat)
  | lnkId | lnkRtSel | lnkRtEntry | lnkRtCmd | lnkDisc0 | lnkDisc1
  | lnkCtl (n : Nat) | lnkStat (n : Nat) | lnkErrcnt (n : Nat)
  | snpCtl (p : Nat) | snpStep (p : Nat) | snpState (p : Nat) | snpInfo (p : Nat) | rcvStatus (p : Nat)
  | snpCmd | rcvArg | rcvCmd | snpCmdst
  | qrsLink | qrsEvt | qrsRej | qrsQcfg (q : Nat) | qrsQctr (q : Nat) | qrsQfloor (q : Nat) | qrsWin (w : Nat)
  | cruId | cruOseq | cruStat | cruMboxPtr | cruMboxData | cruChal (k : Nat) | cruFwctl | cruFwver
  | hkpClkStat | hkpClkCtl | hkpClkout | hkpLtime | hkpBoStat | hkpTherm | hkpIsl (n : Nat)
  | pwrCtl | pwrStat
  | ageCtl | ageLogSel | ageLogData | ageIsl (n : Nat) | ageProj (n : Nat)
  | rstStat
  deriving DecidableEq, Repr

/-! ## Addresses (R403, R404) -/

/-- The n-th register of an array that starts at `base` with a stride. -/
def nth (o base stride count : Nat) (f : Nat → Reg) : Option Reg :=
  if base ≤ o ∧ (o - base) % stride = 0 ∧ (o - base) / stride < count then some (f ((o - base) / stride)) else none

/-- A register of a two-level array: `inner` registers, 8 bytes apart, at each stride. -/
def nth2 (o base stride count inner : Nat) (f : Nat → Nat → Reg) : Option Reg :=
  if base ≤ o ∧ (o - base) / stride < count ∧ (o - base) % stride % 8 = 0 ∧ (o - base) % stride / 8 < inner then
    some (f ((o - base) / stride) ((o - base) % stride / 8)) else none

/-- The first register that a list of candidates gives. -/
def firstReg (l : List (Option Reg)) : Option Reg := l.findSome? id

/-- The register at offset `o` of the block numbered `b` (offset bits above the low 20). -/
def regInBlock (b o : Nat) : Option Reg :=
  match b with
  | 0x0 => firstReg [nth o 0 8 1 (fun _ => .devId), nth o 8 8 1 (fun _ => .devScratch)]
  | 0x1 => firstReg [nth o 0 0x100 48 .rckTray, nth o 8 0x100 48 .rckGang]
  | 0x2 => firstReg [nth o 0 0x100 48 .tskCtl, nth o 8 0x100 48 .tskSlot, nth o 0x10 0x100 48 .tskFault,
      nth o 0x18 0x100 48 .tskCmd]
  | 0x3 => firstReg [nth o 0 0x100 48 .strState, nth o 8 0x100 48 .strStep, nth o 0x10 0x100 48 .strInpos]
  | 0x4 => firstReg [nth o 0 0x100 48 .obsCtl, nth2 o 8 0x100 48 8 .obsSel, nth2 o 0x48 0x100 48 8 .obsCnt,
      nth o 0xF0000 8 1 (fun _ => .obsTrcCtl), nth o 0xF0008 8 1 (fun _ => .obsTrcBase),
      nth o 0xF0010 8 1 (fun _ => .obsTrcFlt), nth o 0xF0018 8 1 (fun _ => .obsTrcPtr)]
  | 0x5 => firstReg [nth o 0 8 8 .sveRate, nth o 0x100 8 48 .sveStat, nth o 0x400 8 1 (fun _ => .govCmd),
      nth o 0x408 8 1 (fun _ => .govCmdst), nth o 0x500 8 16 .govStatus, nth o 0x580 8 16 .govCount]
  | 0x6 => firstReg [nth o 0 0x10 8 .prtState, nth o 8 0x10 8 .prtRacks]
  | 0x7 => firstReg [nth o 0 0x10 8 .trnInready, nth o 8 0x10 8 .trnState]
  | 0x8 => firstReg [nth o 0 8 1 (fun _ => .recStat), nth o 8 8 1 (fun _ => .recFail), nth o 0x20 8 4 .recDigest,
      nth o 0x100 8 8 .recPctl, nth2 o 0x200 0x20 8 4 .recPdigest]
  | 0x9 => firstReg [nth o 0 8 1 (fun _ => .kndBktCtl), nth o 8 8 1 (fun _ => .kndBktStat),
      nth o 0x10 8 1 (fun _ => .kndErr), nth o 0x100 8 8 .kndPortStat]
  | 0xA => firstReg [nth o 0 8 1 (fun _ => .memMap), nth o 0x1000 0x100 12 .memCtl, nth o 0x1008 0x100 12 .memEcnt,
      nth o 0x1010 0x100 12 .memElogPtr, nth o 0x1018 0x100 12 .memElogLo, nth o 0x1020 0x100 12 .memElogHi,
      nth o 0x1028 0x100 12 .memRetire, nth o 0x1030 0x100 12 .memRetireCnt]
  | 0xB => firstReg [nth o 0 0x100 4 .cxlCtl, nth o 8 0x100 4 .cxlStat, nth o 0x10 0x100 4 .cxlInv,
      nth o 0x18 0x100 4 .cxlErr, nth2 o 0x1000 0x20 32 3 .cxlDec]
  | 0xC => firstReg [nth o 0 8 1 (fun _ => .lnkId), nth o 8 8 1 (fun _ => .lnkRtSel),
      nth o 0x10 8 1 (fun _ => .lnkRtEntry), nth o 0x18 8 1 (fun _ => .lnkRtCmd),
      nth o 0x20 8 1 (fun _ => .lnkDisc0), nth o 0x28 8 1 (fun _ => .lnkDisc1),
      nth o 0x1000 0x100 9 .lnkCtl, nth o 0x1008 0x100 9 .lnkStat, nth o 0x1010 0x100 9 .lnkErrcnt]
  | 0xD => firstReg [nth o 0 0x100 8 .snpCtl, nth o 8 0x100 8 .snpStep, nth o 0x10 0x100 8 .snpState,
      nth o 0x18 0x100 8 .snpInfo, nth o 0x20 0x100 8 .rcvStatus, nth o 0x1000 8 1 (fun _ => .snpCmd),
      nth o 0x1008 8 1 (fun _ => .rcvArg), nth o 0x1010 8 1 (fun _ => .rcvCmd), nth o 0x1018 8 1 (fun _ => .snpCmdst)]
  | 0xE => firstReg [nth o 0 8 1 (fun _ => .qrsLink), nth o 8 8 1 (fun _ => .qrsEvt), nth o 0x10 8 1 (fun _ => .qrsRej),
      nth o 0x1000 0x100 16 .qrsQcfg, nth o 0x1008 0x100 16 .qrsQctr, nth o 0x1010 0x100 16 .qrsQfloor,
      nth o 0x3000 0x100 8 .qrsWin]
  | 0xF => firstReg [nth o 0 8 1 (fun _ => .cruId), nth o 8 8 1 (fun _ => .cruOseq), nth o 0x10 8 1 (fun _ => .cruStat),
      nth o 0x18 8 1 (fun _ => .cruMboxPtr), nth o 0x20 8 1 (fun _ => .cruMboxData), nth o 0x40 8 4 .cruChal,
      nth o 0x60 8 1 (fun _ => .cruFwctl), nth o 0x68 8 1 (fun _ => .cruFwver)]
  | 0x10 => firstReg [nth o 0 8 1 (fun _ => .hkpClkStat), nth o 8 8 1 (fun _ => .hkpClkCtl),
      nth o 0x10 8 1 (fun _ => .hkpClkout), nth o 0x18 8 1 (fun _ => .hkpLtime), nth o 0x20 8 1 (fun _ => .hkpBoStat),
      nth o 0x28 8 1 (fun _ => .hkpTherm), nth o 0x1000 8 80 .hkpIsl]
  | 0x11 => firstReg [nth o 0 8 1 (fun _ => .pwrCtl), nth o 8 8 1 (fun _ => .pwrStat)]
  | 0x12 => firstReg [nth o 0 8 1 (fun _ => .ageCtl), nth o 8 8 1 (fun _ => .ageLogSel),
      nth o 0x10 8 1 (fun _ => .ageLogData), nth o 0x1000 8 80 .ageIsl, nth o 0x1800 8 80 .ageProj]
  | 0x13 => nth o 0 8 1 (fun _ => .rstStat)
  | _ => none

/-- The register at a device address: aligned, inside the control and status space, and mapped (R282, R404). -/
def regAt (a : Nat) : Option Reg :=
  if csrBase ≤ a ∧ a < csrBase + csrSize ∧ a % 8 = 0 then
    regInBlock ((a - csrBase) / 0x100000) ((a - csrBase) % 0x100000)
  else none

/-- The island that holds a register (R403). -/
def Reg.island : Reg → Nat
  | .tskCtl n | .tskSlot n | .tskFault n | .tskCmd n | .strState n | .strStep n | .strInpos n | .obsCtl n => n
  | .obsSel n _ | .obsCnt n _ | .sveStat n => n
  | .kndPortStat n | .lnkCtl n | .lnkStat n | .lnkErrcnt n => 62 + n
  | .memCtl n | .memEcnt n | .memElogPtr n | .memElogLo n | .memElogHi n | .memRetire n | .memRetireCnt n => 48 + n
  | .cxlCtl n | .cxlStat n | .cxlInv n | .cxlErr n => 71 + n
  | .qrsLink | .qrsEvt | .qrsRej | .qrsWin _ => 75
  | .hkpClkStat | .hkpClkCtl | .hkpClkout | .hkpLtime | .hkpBoStat | .hkpTherm | .hkpIsl _ | .pwrCtl | .pwrStat
  | .ageCtl | .ageLogSel | .ageLogData | .ageIsl _ | .ageProj _ | .rstStat => 79
  | _ => 78

/-- Registers that the recovery mode serves (16_trust.md R315, 23_register_map.md R414). -/
def Reg.inRecovery : Reg → Bool
  | .devId | .cruId | .cruOseq | .cruStat | .cruMboxPtr | .cruMboxData | .cruChal _ | .cruFwctl | .cruFwver => true
  | _ => false

/-! ## Access codes -/

/-- Access codes that a write meets (R6); a field not listed for its register is RO. -/
inductive Acc where
  | rw | wo | w1c | rwk | rsv
  deriving DecidableEq, Repr

/-- A field by its access code and bits [hi:lo]. -/
structure Fld where
  acc : Acc
  hi : Nat
  lo : Nat
  deriving DecidableEq, Repr

def fld (a : Acc) (hi lo : Nat) : Fld := { acc := a, hi := hi, lo := lo }

def Fld.mask (f : Fld) : Nat := (2 ^ (f.hi + 1 - f.lo) - 1) <<< f.lo

/-- The fields of a register that are not plain RO: writable ones and reserved ones. -/
def Reg.fields : Reg → List Fld
  | .devId => [fld .rsv 63 48]
  | .devScratch => [fld .rw 63 0]
  | .rckTray _ => []
  | .rckGang _ => [fld .rsv 63 32]
  | .tskCtl _ => [fld .rsv 63 32, fld .rw 31 8, fld .rsv 7 5]
  | .tskSlot _ => [fld .rw 15 9, fld .rsv 7 4]
  | .tskFault _ => [fld .w1c 63 63]
  | .tskCmd _ => [fld .rsv 63 10, fld .wo 9 8, fld .rsv 7 7, fld .wo 6 0]
  | .strState _ => [fld .rsv 63 34]
  | .strStep _ => []
  | .strInpos _ => [fld .rw 63 0]
  | .obsCtl _ => [fld .rsv 63 4, fld .rw 3 3, fld .wo 2 2, fld .rw 1 0]
  | .obsSel _ _ => [fld .rsv 63 46, fld .rw 45 32, fld .rsv 31 30, fld .rw 29 16, fld .rsv 15 11, fld .rw 10 0]
  | .obsCnt _ _ => [fld .w1c 63 63, fld .rsv 62 48]
  | .obsTrcCtl => [fld .rw 63 32, fld .rsv 31 12, fld .rw 7 4, fld .rsv 3 2, fld .rw 1 0]
  | .obsTrcBase => [fld .rsv 63 48, fld .rw 47 0]
  | .obsTrcFlt => [fld .rsv 63 30, fld .rw 29 16, fld .rsv 15 14, fld .rw 13 0]
  | .obsTrcPtr => [fld .w1c 63 48, fld .rw 47 24]
  | .sveRate _ => [fld .rsv 63 36, fld .rsv 23 4, fld .rwk 3 0]
  | .sveStat _ => []
  | .govCmd => [fld .rwk 63 32, fld .rsv 31 30, fld .rwk 29 24, fld .rsv 23 17, fld .rwk 16 0]
  | .govCmdst => [fld .rsv 63 4]
  | .govStatus _ => []
  | .govCount _ => [fld .rsv 14 0]
  | .prtState _ => [fld .rsv 63 32]
  | .prtRacks _ => [fld .rsv 63 48]
  | .trnInready _ => [fld .rsv 63 32, fld .rw 31 0]
  | .trnState _ => []
  | .recStat => [fld .rsv 63 24]
  | .recFail => [fld .w1c 63 63, fld .rsv 62 57]
  | .recDigest _ => []
  | .recPctl _ => [fld .rsv 63 8, fld .rsv 3 2, fld .rwk 1 0]
  | .recPdigest _ _ => []
  | .kndBktCtl => [fld .rsv 63 20, fld .rw 19 0]
  | .kndBktStat => []
  | .kndErr => [fld .w1c 63 63, fld .rsv 59 52]
  | .kndPortStat _ => []
  | .memMap => [fld .rsv 63 14, fld .rsv 7 6]
  | .memCtl _ => [fld .rsv 63 63, fld .rsv 31 13, fld .rw 12 0]
  | .memEcnt _ => [fld .w1c 63 32, fld .w1c 31 16, fld .w1c 15 0]
  | .memElogPtr _ => [fld .rsv 63 25, fld .rw 24 16, fld .rsv 15 9]
  | .memElogLo _ => []
  | .memElogHi _ => []
  | .memRetire _ => [fld .rsv 63 30, fld .wo 29 16, fld .rsv 15 15, fld .wo 14 0]
  | .memRetireCnt _ => [fld .rsv 63 16, fld .rsv 13 12]
  | .cxlCtl _ => [fld .rsv 63 9, fld .rsv 7 2, fld .rwk 1 0]
  | .cxlStat _ => [fld .rsv 63 17, fld .rsv 3 3]
  | .cxlInv _ => [fld .rw 63 61, fld .rsv 59 59]
  | .cxlErr _ => [fld .w1c 63 63, fld .rsv 55 48]
  | .cxlDec _ _ => []
  | .lnkId => [fld .rsv 63 42]
  | .lnkRtSel => [fld .rsv 63 14, fld .rw 13 0]
  | .lnkRtEntry => [fld .rsv 63 16, fld .rwk 15 0]
  | .lnkRtCmd => [fld .rsv 63 48, fld .rsv 31 30, fld .rwk 29 16, fld .rsv 15 2, fld .rwk 1 0]
  | .lnkDisc0 => [fld .w1c 63 48, fld .w1c 47 32, fld .w1c 31 16, fld .w1c 15 0]
  | .lnkDisc1 => [fld .w1c 63 48, fld .w1c 47 32, fld .w1c 31 16, fld .w1c 15 0]
  | .lnkCtl _ => [fld .rsv 63 2, fld .rwk 1 0]
  | .lnkStat _ => [fld .rsv 63 22, fld .rsv 3 3]
  | .lnkErrcnt _ => [fld .w1c 63 32, fld .w1c 31 16, fld .w1c 15 0]
  | .snpCtl _ => [fld .rwk 63 16, fld .rsv 15 8, fld .rsv 3 1, fld .rwk 0 0]
  | .snpStep _ => []
  | .snpState _ => []
  | .snpInfo _ => [fld .rsv 63 12]
  | .rcvStatus _ => [fld .rsv 23 4]
  | .snpCmd => [fld .rwk 63 32, fld .rsv 31 15, fld .rwk 14 6, fld .rsv 5 2, fld .rwk 1 0]
  | .rcvArg => [fld .rwk 63 48, fld .rsv 47 46, fld .rwk 45 0]
  | .rcvCmd => [fld .rwk 63 16, fld .rsv 15 7, fld .rwk 6 0]
  | .snpCmdst => [fld .rsv 63 8, fld .rsv 4 4]
  | .qrsLink => [fld .w1c 63 32, fld .w1c 31 16, fld .rsv 15 8, fld .rsv 3 3]
  | .qrsEvt => [fld .rsv 63 48, fld .w1c 47 16, fld .rsv 15 14]
  | .qrsRej => [fld .w1c 63 48, fld .w1c 47 32, fld .w1c 31 16, fld .w1c 15 0]
  | .qrsQcfg _ => [fld .rsv 63 24, fld .rsv 15 9, fld .rwk 8 8, fld .rsv 7 6, fld .rwk 5 4, fld .rsv 3 1,
      fld .rwk 0 0]
  | .qrsQctr _ => []
  | .qrsQfloor _ => []
  | .qrsWin _ => [fld .rsv 63 56, fld .rsv 51 48]
  | .cruId => []
  | .cruOseq => []
  | .cruStat => [fld .rsv 63 23]
  | .cruMboxPtr => [fld .rsv 63 10, fld .rw 9 0]
  | .cruMboxData => [fld .rw 63 0]
  | .cruChal _ => []
  | .cruFwctl => [fld .rsv 63 57, fld .rsv 51 51, fld .rwk 50 0]
  | .cruFwver => []
  | .hkpClkStat => [fld .rsv 63 16, fld .rsv 7 3]
  | .hkpClkCtl => [fld .rsv 63 8, fld .rsv 3 2, fld .rwk 1 0]
  | .hkpClkout => [fld .rsv 63 32, fld .rw 31 31, fld .rsv 27 24, fld .rw 23 16, fld .rsv 15 12, fld .rw 11 0]
  | .hkpLtime => [fld .rsv 63 48]
  | .hkpBoStat => [fld .w1c 31 16, fld .rsv 7 3, fld .w1c 2 2]
  | .hkpTherm => [fld .rsv 47 13, fld .rsv 7 3, fld .w1c 1 1]
  | .hkpIsl _ => [fld .rsv 63 26]
  | .pwrCtl => [fld .rsv 63 8, fld .rwk 7 4, fld .rsv 3 2, fld .rwk 1 0]
  | .pwrStat => [fld .rsv 63 24, fld .rsv 19 17, fld .rsv 15 4]
  | .ageCtl => [fld .rsv 31 8, fld .rsv 3 2, fld .rwk 1 0]
  | .ageLogSel => [fld .rsv 63 17, fld .rw 16 0]
  | .ageLogData => []
  | .ageIsl _ => [fld .rsv 61 60, fld .rsv 47 44]
  | .ageProj _ => [fld .rsv 62 32]
  | .rstStat => [fld .rsv 31 16, fld .rsv 7 4]

/-- A register holds an RWK field (R285). -/
def Reg.hasRwk (r : Reg) : Bool := r.fields.any (fun f => f.acc == .rwk)

/-- The reserved bits of a register. -/
def Reg.rsvMask (r : Reg) : Nat := (r.fields.filter (fun f => f.acc == .rsv)).foldl (fun m f => m ||| f.mask) 0

/-- The bits that a masked write sets from DATA (R407). -/
def Reg.setMask (r : Reg) : Nat :=
  (r.fields.filter (fun f => f.acc == .rw || f.acc == .rwk || f.acc == .wo)).foldl (fun m f => m ||| f.mask) 0

/-- The W1C bits that a write clears: a field clears whole when DATA holds a 1 in its masked bits (R407). -/
def Reg.clearMask (r : Reg) (data mask : Nat) : Nat :=
  (r.fields.filter (fun f => f.acc == .w1c && (data &&& mask &&& f.mask) != 0)).foldl (fun m f => m ||| f.mask) 0

/-- Bits of `v` outside `m`. -/
def without (v m : Nat) : Nat := v ^^^ (v &&& m)

/-- The 64 bits that a masked write leaves (R407). -/
def Reg.merged (r : Reg) (old data mask : Nat) : Nat :=
  let m := r.setMask &&& mask
  without (without old m ||| (data &&& m)) (r.clearMask data mask)

/-! ## Reads -/

/-- A value at a bit position. -/
def at_ (lo v : Nat) : Nat := v <<< lo
def bit_ (lo : Nat) (b : Bool) : Nat := if b then 1 <<< lo else 0

/-- Ring slots of a partition (13_recovery.md R256); bits of SNP_STATE beyond them read 0 (R275). -/
def State.ringSlots (s : State) (p : Nat) : Nat := (((s.slice p).bind (fun c => c.snap)).map (fun r => r.rslots)).getD 0

/-- Codes of a slot's state (06_task_engines_and_whisk.md R121), of a stream's (R134), of a partition's
(04_trays_racks_partitions.md R87), of a port's (12_links_and_ordering.md R249), of a routing entry's, and of an
owned bucket's (09_kneader.md R202). -/
def SlotState.code : SlotState → Nat
  | .free => 0 | .wait => 1 | .feed => 2 | .ready => 3 | .primed => 4 | .run => 5 | .drain => 6 | .faulted => 7
  | .held => 8
def StrState.code : StrState → Nat
  | .idle => 0 | .active => 1 | .rewinding => 2 | .fenced => 3
def PState.code : PState → Nat
  | .empty => 0 | .loading => 1 | .ready => 2 | .run => 3 | .halted => 4 | .faulted => 5
def PortState.code : PortState → Nat
  | .down => 0 | .training => 1 | .up => 2 | .failed => 3 | .miswired => 4 | .unused => 5 | .standby => 6
def rtCode : RtState → Nat
  | .unused => 0 | .active => 1 | .fenced => 2
def OwnState.code : OwnState → Nat
  | .idle => 0 | .agreeing => 1 | .summing => 2 | .replaying => 3 | .updating => 4 | .sending => 5
  | .awaiting => 6 | .failed => 7

/-- The routing entry that nothing has written. -/
def rtEmpty : RtEntry := { state := .unused, coord := 0 }

/-- The active routing entry of a rank, and the staged one that LNK_RT_ENTRY shows (R240, R242). -/
def State.rtEntry (s : State) (r : Nat) : RtEntry := tget s.lnk.table rtEmpty r
def State.rtStaged (s : State) (r : Nat) : RtEntry := (tfind s.lnk.staged r).getD (s.rtEntry r)

/-- The island with the highest current reading, the lowest-numbered on a tie (18_power_ladder.md R358). -/
def State.hottest (s : State) : Nat × Nat :=
  (List.range 80).foldl (fun m n => if m.1 < (s.island n).temp.toNat then ((s.island n).temp.toNat, n) else m) (0, 0)

/-- Lowest rack issue duty (R358). -/
def State.duty (s : State) : Nat := min s.hkp.dutyE s.hkp.dutyW

/-- Filled owner slots (16_trust.md R326). -/
def Persist.ownerCount (p : Persist) : Nat := ((List.range 4).filter (fun i => (tget p.owners none i).isSome)).length

/-- The owned bucket that KND_BKT_STAT reports: the newest record of the selected bucket with an owner state. -/
def State.ownedBucket (s : State) : Option Bkt :=
  (s.knd.bkts.filter (fun b => b.bid == s.knd.bktSel && b.own != .idle)).getLast?

/-- Shards not yet verified (13_recovery.md R275). -/
def RcvSt.left (r : RcvSt) : Nat := (r.map.filter (fun e => e.state != 2)).length

/-- A frequency code as HKP_ISL shows it: 0x00 when the island is off (R341). -/
def IslandSt.shown (i : IslandSt) : Nat := if i.pow = .off then 0 else i.cur.toNat

/-- Every slot of a rack whose partition is Halted or Faulted is in Held (06_task_engines_and_whisk.md R121, R125). -/
def State.slotsHeld (s : State) (n : Nat) : Bool :=
  ((s.partOf n).map (fun p => (s.part p).state == .halted || (s.part p).state == .faulted)).getD false

/-- What a read of a register returns (R411). WO fields read zero. -/
def State.readReg (s : State) : Reg → Nat
  | .devId => at_ 32 0x3048 ||| at_ 24 0x10 ||| at_ 16 0x01 ||| at_ 8 0x03 ||| 0x50
  | .devScratch => s.dev.scratch.toNat
  | .rckTray n => at_ 32 (s.rack n).exclude.toNat ||| (s.rack n).failed.toNat
  | .rckGang n => (s.rack n).gangStart.toNat
  | .tskCtl n => at_ 8 (s.rack n).ageLimit.toNat ||| (s.rack n).proofSlots
  | .tskSlot n =>
    let r := s.rack n
    let sl := s.slot n r.slotSel
    at_ 16 ((sl.newer.map (fun o => o.desc.addr)).getD 0 % 2 ^ 48) ||| at_ 9 r.slotSel |||
      bit_ 8 sl.older.isSome ||| (if s.slotsHeld n then SlotState.held else sl.state).code
  | .tskFault n =>
    let f := (s.rack n).taskFault
    bit_ 63 f.valid ||| at_ 56 f.slot ||| at_ 52 f.code ||| at_ 48 f.sub ||| f.desc % 2 ^ 48
  | .tskCmd _ => 0
  | .strState n =>
    let t := (s.rack n).stream
    at_ 32 t.state.code ||| at_ 16 t.epoch.toNat ||| t.id.toNat
  | .strStep n => at_ 32 (s.rack n).stream.ostep.toNat ||| (s.rack n).stream.step.toNat
  | .strInpos n => (s.rack n).stream.inpos.toNat
  | .obsCtl n => bit_ 3 (s.rack n).obs.trace ||| bit_ 1 (s.rack n).obs.freeze ||| bit_ 0 (s.rack n).obs.enable
  | .obsSel n c =>
    let x := tget (s.rack n).obs.sels {} c
    at_ 32 x.llast.toNat ||| at_ 16 x.lfirst.toNat ||| at_ 8 x.type.toNat ||| x.event.toNat
  | .obsCnt n c => bit_ 63 (tget (s.rack n).obs.ovf false c) ||| tget (s.rack n).obs.copy 0 c % 2 ^ 48
  | .obsTrcCtl =>
    at_ 32 s.trc.kmask.toNat ||| at_ 8 s.trc.status.toNat ||| at_ 4 s.trc.size.toNat ||| bit_ 1 s.trc.stop |||
      bit_ 0 s.trc.enable
  | .obsTrcBase => s.trc.base.toNat
  | .obsTrcFlt => at_ 16 s.trc.llast.toNat ||| s.trc.lfirst.toNat
  | .obsTrcPtr => at_ 48 s.trc.lost.toNat ||| at_ 24 s.trc.tail.toNat ||| s.trc.head.toNat
  | .sveRate p =>
    at_ 24 (s.part p).proofPhase.toNat ||| ((s.part p).proofKNext.getD (s.part p).proofK).toNat
  | .sveStat n => at_ 32 (s.rack n).taken.toNat ||| (s.rack n).skipped.toNat
  | .govCmd => s.gov.cmd.toNat
  | .govCmdst => s.gov.cmdst.toNat
  | .govStatus g => at_ 32 (s.group g).sealedRec.toNat ||| (s.group g).tag.toNat
  | .govCount g =>
    at_ 32 (s.gov.ledger.filter (fun e => e.2.group.toNat == g && e.2.state == .ceiling)).length |||
      at_ 16 (s.group g).mismatch.toNat ||| bit_ 15 (s.group g).frozen
  | .prtState p =>
    at_ 16 (s.part p).epoch.toNat ||| at_ 10 (s.racksOf p).length ||| at_ 4 (s.part p).cause.toNat |||
      (s.part p).state.code
  | .prtRacks p => (s.part p).racks.toNat
  | .trnInready p => (s.part p).inready.toNat
  | .trnState p => at_ 32 (s.part p).sealedReg.toNat ||| (s.part p).openReg.toNat
  | .recStat =>
    at_ 8 s.rcp.progress.toNat ||| bit_ 7 s.rcp.loaded ||| at_ 4 s.rcp.regPart.toNat ||| bit_ 3 s.rcp.regSlice |||
      s.rcp.phase.toNat
  | .recFail =>
    bit_ 63 s.rcp.failValid ||| at_ 50 s.rcp.failSection.toNat ||| at_ 32 s.rcp.failRecord.toNat |||
      s.rcp.failDetail.toNat
  | .recDigest k => s.rcp.digest.toNat >>> (64 * k) % 2 ^ 64
  | .recPctl p => at_ 4 (s.part p).pctlStatus.toNat
  | .recPdigest p k => (tget s.rcp.pdigest 0 p).toNat >>> (64 * k) % 2 ^ 64
  | .kndBktCtl => s.knd.bktSel.toNat
  | .kndBktStat =>
    match s.ownedBucket with
    | none => 0
    | some b =>
      at_ 32 b.step.toNat ||| at_ 28 b.own.code ||| at_ 25 (b.attempt % 8) ||| bit_ 24 b.bound |||
        at_ 15 (BitVec.ofInt 9 b.s).toNat ||| b.voids.toNat
  | .kndErr =>
    bit_ 63 s.knd.errValid ||| at_ 60 s.knd.errCode.toNat ||| at_ 20 s.knd.errStep.toNat ||| s.knd.errBid.toNat
  | .kndPortStat n =>
    at_ 32 (s.kndPort n).segs.toNat ||| at_ 16 (s.kndPort n).sats.toNat ||| (s.kndPort n).disc.toNat
  | .memMap => at_ 8 s.dev.spW.toNat ||| s.dev.spE.toNat
  | .memCtl n => at_ 32 (s.stack n).scrubPos.toNat ||| at_ 8 (s.stack n).ceEvt.toNat ||| (s.stack n).period.toNat
  | .memEcnt n => at_ 32 (s.stack n).ce.toNat ||| at_ 16 (s.stack n).ue.toNat ||| (s.stack n).overrun.toNat
  | .memElogPtr n => at_ 16 (s.stack n).tail.toNat ||| (s.stack n).head.toNat
  | .memElogLo n => (tget (s.stack n).log 0 (s.stack n).tail.toNat).toNat % 2 ^ 64
  | .memElogHi n => (tget (s.stack n).log 0 (s.stack n).tail.toNat).toNat >>> 64
  | .memRetire _ => 0
  | .memRetireCnt n =>
    bit_ 15 (s.stack n).full ||| bit_ 14 (s.stack n).armed ||| (s.stack n).retire.length % 4096
  | .cxlCtl n => bit_ 8 (s.cxl.ide.getD n false) ||| (s.cxlPort n).op.toNat
  | .cxlStat n =>
    let c := s.cxlPort n
    bit_ 16 c.switch ||| at_ 12 (c.exps.length % 16) |||
      at_ 9 (if c.rate = 64 then 6 else if c.rate = 32 then 5 else 0) ||| at_ 4 (c.lanes % 32) ||| c.state.toNat
  | .cxlInv n =>
    let c := s.cxlPort n
    at_ 61 c.sel |||
      (match c.exps[c.sel]? with
       | some e => bit_ 60 true ||| at_ 56 (e.dsp % 8) ||| at_ 40 (e.capG % 2 ^ 16) ||| e.serial.toNat % 2 ^ 40
       | none => 0)
  | .cxlErr n =>
    let c := s.cxlPort n
    bit_ 63 c.errValid ||| at_ 59 c.errKind.toNat ||| at_ 56 c.errDsp.toNat ||| c.errAddr.toNat
  | .cxlDec m w =>
    match s.cxl.decoders.find? (fun d => d.index == m) with
    | none => 0
    | some d =>
      let dsps := fun i => ((List.range 8).map (fun j => at_ (3 * j) ((d.dsps.getD i []).getD j 0))).foldl (· ||| ·) 0
      if w = 0 then
        d.base % 2 ^ 16 ||| at_ 16 (d.size % 2 ^ 16) ||| at_ 32 d.pways ||| at_ 34 d.eways ||| at_ 36 d.gran |||
          ((List.range 4).map (fun j => at_ (38 + 2 * j) (d.ports.getD j 0))).foldl (· ||| ·) 0 ||| bit_ 46 d.ring
      else if w = 1 then dsps 0 ||| at_ 24 (dsps 1)
      else dsps 2 ||| at_ 24 (dsps 3)
  | .lnkId =>
    match s.rcp.links with
    | none => s.lnk.rank.toNat
    | some l =>
      bit_ 41 l.mirror ||| at_ 37 (l.dw - 1) ||| at_ 34 (l.dz - 1) ||| at_ 31 (l.dy - 1) ||| at_ 28 (l.dx - 1) |||
        at_ 14 l.coord.toNat ||| s.lnk.rank.toNat
  | .lnkRtSel => s.lnk.rtSel.toNat
  | .lnkRtEntry => at_ 14 (rtCode (s.rtStaged s.lnk.rtSel.toNat).state) ||| (s.rtStaged s.lnk.rtSel.toNat).coord.toNat
  | .lnkRtCmd => at_ 32 s.lnk.gen.toNat ||| at_ 16 s.lnk.newRank.toNat ||| s.lnk.rtOp.toNat
  | .lnkDisc0 =>
    at_ 48 s.lnk.disc.stale.toNat ||| at_ 32 s.lnk.disc.epochOld.toNat ||| at_ 16 s.lnk.disc.epochAhead.toNat |||
      s.lnk.disc.unroutable.toNat
  | .lnkDisc1 =>
    at_ 48 s.lnk.disc.noent.toNat ||| at_ 32 s.lnk.disc.holdFull.toNat ||| at_ 16 s.lnk.disc.misdelivered.toNat |||
      s.lnk.disc.noroute.toNat
  | .lnkCtl n => (s.port n).op.toNat
  | .lnkStat n =>
    at_ 18 (s.port n).peerPort.toNat ||| at_ 4 (s.port n).peer.toNat ||| (s.port n).state.code
  | .lnkErrcnt n => at_ 32 (s.port n).fecCor.toNat ||| at_ 16 (s.port n).fecUnc.toNat ||| (s.port n).replay.toNat
  | .snpCtl p =>
    at_ 32 (s.snap p).step.toNat ||| at_ 16 (match (s.snap p).waiting.getLast? with | some w => w.2.1 | none => (s.snap p).k).toNat |||
      at_ 4 (s.snap p).status.toNat |||
      bit_ 0 (match (s.snap p).waiting.getLast? with | some w => w.2.2 | none => (s.snap p).full)
  | .snpStep p => at_ 32 (s.snap p).secured.toNat ||| (s.snap p).taken.toNat
  | .snpState p => (s.snap p).hold.toNat % 2 ^ s.ringSlots p
  | .snpInfo p =>
    at_ 10 (s.snap p).by_.toNat ||| bit_ 9 ((s.rcp.links.map (fun l => l.twinNamed)).getD false && (s.port 8).state == .up) ||| bit_ 8 (s.snap p).ringOk |||
      at_ 2 ((s.snap p).slot % 64) ||| (s.snap p).state.toNat
  | .rcvStatus p =>
    at_ 48 (s.recov p).repoch.toNat ||| at_ 44 (s.recov p).state.toNat ||| at_ 24 ((s.recov p).left % 2 ^ 20) |||
      (s.recov p).status.toNat
  | .snpCmd => s.rreg.snpCmd.toNat
  | .rcvArg => s.rreg.rcvArg.toNat
  | .rcvCmd => s.rreg.rcvCmd.toNat
  | .snpCmdst => at_ 5 s.rreg.snpCmdPart.toNat ||| s.rreg.snpCmdStatus.toNat
  | .qrsLink =>
    at_ 32 s.qrs.resent.toNat ||| at_ 16 s.qrs.retrains.toNat ||| at_ 4 s.qrs.width ||| s.qrs.state.toNat
  | .qrsEvt => at_ 16 s.qrs.dropped.toNat ||| s.qrs.evBuf.length
  | .qrsRej =>
    at_ 48 s.qrs.notcrit.toNat ||| at_ 32 s.qrs.badtag.toNat ||| at_ 16 s.qrs.replays.toNat ||| s.qrs.nokey.toNat
  | .qrsQcfg q =>
    at_ 16 ((s.queue q).fifo.length % 256) ||| at_ 4 (s.queue q).prio.toNat ||| bit_ 0 (s.queue q).en
  | .qrsQctr q => (s.queue q).last.toNat
  | .qrsQfloor q => (s.queue q).floor.toNat
  | .qrsWin w =>
    bit_ 55 (s.window w).isOpen ||| bit_ 54 (s.window w).isRead ||| at_ 52 (s.window w).mode.toNat |||
      (s.window w).cur % 2 ^ 48
  | .cruId => s.per.serial.toNat
  | .cruOseq => s.per.oseq.toNat
  | .cruStat =>
    bit_ 22 s.cru.mbusy ||| bit_ 21 (s.hkp.boot == .recovery) ||| at_ 19 s.cru.debug ||| at_ 16 s.per.ownerCount |||
      ((List.range 16).map (fun q => bit_ q (tget s.cru.keys none q).isSome)).foldl (· ||| ·) 0
  | .cruMboxPtr => s.cru.mboxIdx.toNat
  | .cruMboxData => (tget s.cru.mbox 0 s.cru.mboxIdx.toNat).toNat
  | .cruChal k => s.cru.chal.toNat >>> (64 * k) % 2 ^ 64
  | .cruFwctl => bit_ 56 s.cru.fwActive ||| at_ 52 s.cru.fwStatus.toNat ||| s.cru.fwAddr.toNat
  | .cruFwver => at_ 32 s.cru.fwVer.toNat ||| s.per.fwMin.toNat
  | .hkpClkStat =>
    at_ 8 s.hkp.losses.toNat ||| bit_ 2 s.hkp.starter ||| bit_ 1 s.hkp.xtalOk ||| bit_ 0 s.hkp.clkLoss
  | .hkpClkCtl => at_ 4 s.hkp.clkStatus.toNat
  | .hkpClkout =>
    bit_ 31 s.hkp.clkoutEn ||| at_ 28 s.hkp.clkoutStatus.toNat ||| at_ 16 s.hkp.clkoutSrc.toNat |||
      s.hkp.clkoutDiv.toNat
  | .hkpLtime => s.hkp.ltime.toNat
  | .hkpBoStat =>
    at_ 32 s.hkp.boSeq.toNat ||| at_ 16 s.hkp.boCount.toNat ||| at_ 8 s.hkp.boRail.toNat ||| bit_ 2 s.hkp.boLong |||
      bit_ 1 s.hkp.boResuming ||| bit_ 0 s.hkp.boActive
  | .hkpTherm =>
    at_ 56 s.hottest.1 ||| at_ 48 s.hottest.2 ||| at_ 8 s.duty ||| bit_ 2 s.per.tripped ||| bit_ 1 s.hkp.hot105 |||
      bit_ 0 (decide (s.duty < 16))
  | .hkpIsl n =>
    let i := s.island n
    bit_ 25 i.coast ||| bit_ 24 i.halved ||| at_ 16 i.hi.toNat ||| at_ 8 i.lo.toNat ||| i.shown
  | .pwrCtl => at_ 4 s.hkp.target
  | .pwrStat => at_ 20 s.hkp.pwrStatus.toNat ||| bit_ 16 s.hkp.ready ||| bit_ 3 s.hkp.trans ||| s.hkp.rung
  | .ageCtl => at_ 32 s.per.onHours.toNat ||| at_ 4 s.hkp.ageStatus.toNat
  | .ageLogSel => at_ 5 s.hkp.logIndex.toNat ||| s.hkp.logWord.toNat
  | .ageLogData => (s.per.ageWord s.hkp.logIndex.toNat s.hkp.logWord.toNat).toNat
  | .ageIsl n =>
    let i := s.island n
    bit_ 63 i.pvalid ||| bit_ 62 i.plow ||| at_ 56 i.ptrim.toNat ||| at_ 48 i.pcode.toNat ||| at_ 40 i.trim.toNat |||
      at_ 32 i.aplan.toNat ||| at_ 24 i.eye.toNat ||| at_ 16 i.margin.toNat ||| i.wear.toNat
  | .ageProj n => bit_ 63 (s.island n).projValid ||| (s.island n).projHours.toNat
  | .rstStat =>
    at_ 48 s.hkp.warms.toNat ||| at_ 32 s.per.brst.toNat ||| at_ 8 s.per.brRail.toNat ||| s.hkp.lastReset.toNat

/-! ## Writes -/

def bv (w v hi lo : Nat) : BitVec w := BitVec.ofNat w (fieldOf v hi lo)

/-- Puts the writable fields of a register from the 64 bits that a masked write leaves. Registers that act when
written are the business of their own commands; this keeps the bits that they hold. -/
def State.putReg (s : State) (v : Nat) : Reg → State
  | .devScratch => { s with dev := { s.dev with scratch := BitVec.ofNat 64 v } }
  | .tskCtl n => s.modRack n (fun r => { r with ageLimit := bv 24 v 31 8 })
  | .tskSlot n => s.modRack n (fun r => { r with slotSel := fieldOf v 15 9 })
  | .tskFault n => s.modRack n (fun r => { r with taskFault := { r.taskFault with valid := v.testBit 63 } })
  | .strInpos n => s.modStream n (fun t => { t with inpos := BitVec.ofNat 64 v })
  | .obsCtl n =>
    s.modRack n (fun r => { r with obs := { r.obs with trace := v.testBit 3, freeze := v.testBit 1, enable := v.testBit 0 } })
  | .obsSel n c =>
    s.modRack n (fun r => { r with obs := { r.obs with
      sels := tset r.obs.sels {} c
        { llast := bv 14 v 45 32, lfirst := bv 14 v 29 16, type := bv 3 v 10 8, event := bv 8 v 7 0 } } })
  | .obsCnt n c =>
    s.modRack n (fun r => { r with obs := { r.obs with ovf := tset r.obs.ovf false c (v.testBit 63) } })
  | .obsTrcCtl =>
    { s with trc := { s.trc with kmask := bv 32 v 63 32 ||| 0x80000000, size := bv 4 v 7 4, stop := v.testBit 1,
                                 enable := v.testBit 0 } }
  | .obsTrcBase => { s with trc := { s.trc with base := bv 48 v 47 0 } }
  | .obsTrcFlt => { s with trc := { s.trc with llast := bv 14 v 29 16, lfirst := bv 14 v 13 0 } }
  | .obsTrcPtr => { s with trc := { s.trc with lost := bv 16 v 63 48, tail := bv 24 v 47 24 } }
  | .sveRate p => s.modPart p (fun t => { t with proofKNext := some (bv 4 v 3 0) })
  | .trnInready p => s.modPart p (fun t => { t with inready := bv 32 v 31 0 })
  | .govCmd => { s with gov := { s.gov with cmd := BitVec.ofNat 64 v } }
  | .recFail => { s with rcp := { s.rcp with failValid := v.testBit 63 } }
  | .kndBktCtl => { s with knd := { s.knd with bktSel := bv 20 v 19 0 } }
  | .kndErr => { s with knd := { s.knd with errValid := v.testBit 63 } }
  | .memCtl n => s.modStack n (fun k => { k with ceEvt := bv 5 v 12 8, period := bv 8 v 7 0 })
  | .memEcnt n => s.modStack n (fun k => { k with ce := bv 32 v 63 32, ue := bv 16 v 31 16, overrun := bv 16 v 15 0 })
  | .memElogPtr n => s.modStack n (fun k => { k with tail := bv 9 v 24 16 })
  | .cxlInv n => s.modCxlPort n (fun c => { c with sel := fieldOf v 63 61 })
  | .cxlCtl n => s.modCxlPort n (fun c => { c with op := bv 2 v 1 0 })
  | .cxlErr n => s.modCxlPort n (fun c => { c with errValid := v.testBit 63 })
  | .lnkRtSel => { s with lnk := { s.lnk with rtSel := bv 14 v 13 0 } }
  | .lnkRtEntry =>
    let st := match fieldOf v 15 14 with
      | 0 => RtState.unused
      | 1 => .active
      | _ => .fenced
    { s with lnk := { s.lnk with
      staged := tput (terase s.lnk.staged s.lnk.rtSel.toNat) s.lnk.rtSel.toNat { state := st, coord := bv 14 v 13 0 } } }
  | .lnkCtl n => s.modPort n (fun p => { p with op := bv 2 v 1 0 })
  | .lnkRtCmd => { s with lnk := { s.lnk with newRank := bv 14 v 29 16, rtOp := bv 2 v 1 0 } }
  | .lnkDisc0 =>
    { s with lnk := { s.lnk with disc := { s.lnk.disc with
      stale := bv 16 v 63 48, epochOld := bv 16 v 47 32, epochAhead := bv 16 v 31 16, unroutable := bv 16 v 15 0 } } }
  | .lnkDisc1 =>
    { s with lnk := { s.lnk with disc := { s.lnk.disc with
      noent := bv 16 v 63 48, holdFull := bv 16 v 47 32, misdelivered := bv 16 v 31 16, noroute := bv 16 v 15 0 } } }
  | .lnkErrcnt n =>
    s.modPort n (fun p => { p with fecCor := bv 32 v 63 32, fecUnc := bv 16 v 31 16, replay := bv 16 v 15 0 })
  | .snpCmd => { s with rreg := { s.rreg with snpCmd := BitVec.ofNat 64 v } }
  | .rcvArg => { s with rreg := { s.rreg with rcvArg := BitVec.ofNat 64 v } }
  | .rcvCmd => { s with rreg := { s.rreg with rcvCmd := BitVec.ofNat 64 v } }
  | .qrsLink => { s with qrs := { s.qrs with resent := bv 32 v 63 32, retrains := bv 16 v 31 16 } }
  | .qrsEvt => { s with qrs := { s.qrs with dropped := bv 32 v 47 16 } }
  | .qrsRej =>
    { s with qrs := { s.qrs with notcrit := bv 16 v 63 48, badtag := bv 16 v 47 32, replays := bv 16 v 31 16,
                                 nokey := bv 16 v 15 0 } }
  | .qrsQcfg q => s.modQueue q (fun t => { t with prio := bv 2 v 5 4, en := v.testBit 0 })
  | .cruMboxPtr => { s with cru := { s.cru with mboxIdx := bv 10 v 9 0 } }
  | .cruFwctl => { s with cru := { s.cru with fwAddr := bv 48 v 47 0 } }
  | .hkpClkout =>
    { s with hkp := { s.hkp with clkoutEn := v.testBit 31, clkoutSrc := bv 8 v 23 16, clkoutDiv := bv 12 v 11 0 } }
  | .hkpBoStat => { s with hkp := { s.hkp with boCount := bv 16 v 31 16, boLong := v.testBit 2 } }
  | .hkpTherm => { s with hkp := { s.hkp with hot105 := v.testBit 1 } }
  | .pwrCtl => { s with hkp := { s.hkp with target := fieldOf v 7 4 } }
  | .ageLogSel => { s with hkp := { s.hkp with logIndex := bv 12 v 16 5, logWord := bv 5 v 4 0 } }
  | _ => s

/-- A WO selector field counts as written only by its own command; every other register keeps what `putReg` puts. -/
def State.maskedWrite (s : State) (r : Reg) (data mask : Nat) : State := s.putReg (r.merged (s.readReg r) data mask) r

end Sys2Proof.Machine
end

