-- ==== Sys2Proof/Machine/Commands.lean ====
section
/-! DEFINITION. How the command processor takes a command record (14_queros_host_link.md R280 to R285): its queue,
the choice among queues, the checks of a critical command, the completion; and which row of the command table a
register write belongs to. -/

namespace Sys2Proof.Machine

/-! ## Statuses (R284) -/

def stOk : BitVec 8 := 0x00
def stNotCritical : BitVec 8 := 0x01
def stBadTag : BitVec 8 := 0x02
def stReplay : BitVec 8 := 0x03
def stNoKey : BitVec 8 := 0x04
def stBadOpcode : BitVec 8 := 0x05
def stBadAddr : BitVec 8 := 0x06
def stWindowInvalid : BitVec 8 := 0x07
def stRejected : BitVec 8 := 0x08
def stBusError : BitVec 8 := 0x09
def stFlushed : BitVec 8 := 0x0A

/-- REJECTED details (15_recipes.md R303, 16_trust.md R318, 23_register_map.md R408). -/
def dPartState : BitVec 32 := 0x0002
def dBadValue : BitVec 32 := 0x0020
def dPstoreFail : BitVec 32 := 0x0108

/-- How a command ends: with a completion, later for a background command (R283), or with a completion that its own
effect has already sent. -/
inductive Ending where
  | done (status : BitVec 8) (detail : BitVec 32) (data : Word64)
  | held
  | sent
  deriving DecidableEq, Repr

def ok : Ending := .done stOk 0 0
def rejected (d : BitVec 32) : Ending := .done stRejected d 0
def busError (e : BusErr) : Ending := .done stBusError (BitVec.ofNat 32 (e.code ||| e.island <<< 8)) 0
def islandOff (n : Nat) : Ending := busError { code := eIslandOff, island := n }

/-! ## Which row a register write belongs to -/

/-- The rows of the command table that a REG_WRITE record may be; `plain` is REG_WRITE itself. -/
inductive WriteRow where
  | plain | flush | mbox | inready | clkout | snpCtl | traceEnable | counterClear | stage | lock | relock | enter
  | exit | ageApply | discardProposals | run | halt | haltFault | retry | pin | unpin | clearCeil | freeze | thaw
  | hostack | hold | ringRelease | fenceSelf | rollback | restore | fill | migrateDrain | migrateDiscard | hostfill
  | addEntry | clearList | setArmed | linkRetrain | linkTakeDown | apply | discardStaged | setrank | cxlRetrain
  | cxlTakeDown
  deriving DecidableEq, Repr

/-- The field of a register that orders an operation, where it has one. -/
def Reg.opField : Reg → Option Fld
  | .cruFwctl => some (fld .rwk 50 48)
  | .hkpClkCtl | .pwrCtl | .ageCtl | .recPctl _ | .snpCmd | .lnkCtl _ | .lnkRtCmd | .cxlCtl _ => some (fld .rwk 1 0)
  | .tskCmd _ => some (fld .wo 9 8)
  | .govCmd => some (fld .rwk 29 27)
  | .rcvCmd => some (fld .rwk 3 0)
  | .memRetire _ => some (fld .wo 29 28)
  | _ => none

/-- A mask selects bits of a field. -/
def Fld.touched (f : Fld) (mask : Nat) : Bool := (f.mask &&& mask) != 0

/-- The row of an operation code; reserved codes stay with REG_WRITE, which reports them (R408). -/
def Reg.opRow (r : Reg) (op v : Nat) : WriteRow :=
  match r, op with
  | .cruFwctl, 1 => .stage
  | .cruFwctl, 2 => .lock
  | .hkpClkCtl, 1 => .relock
  | .pwrCtl, 1 => if 1 ≤ fieldOf v 7 4 ∧ fieldOf v 7 4 ≤ 4 then .enter else .plain
  | .pwrCtl, 2 => .exit
  | .ageCtl, 1 => .ageApply
  | .ageCtl, 2 => .discardProposals
  | .recPctl _, 1 => .run
  | .recPctl _, 2 => .halt
  | .recPctl _, 3 => .haltFault
  | .tskCmd _, 1 => .retry
  | .govCmd, 1 => .pin
  | .govCmd, 2 => .unpin
  | .govCmd, 3 => .clearCeil
  | .govCmd, 4 => .freeze
  | .govCmd, 5 => .thaw
  | .snpCmd, 1 => .hostack
  | .snpCmd, 2 => .hold
  | .snpCmd, 3 => .ringRelease
  | .rcvCmd, 1 => .fenceSelf
  | .rcvCmd, 2 => .rollback
  | .rcvCmd, 3 => .restore
  | .rcvCmd, 4 => .fill
  | .rcvCmd, 5 => .migrateDrain
  | .rcvCmd, 6 => .migrateDiscard
  | .rcvCmd, 7 => .hostfill
  | .memRetire _, 1 => .addEntry
  | .memRetire _, 2 => .clearList
  | .memRetire _, 3 => .setArmed
  | .lnkCtl _, 1 => .linkRetrain
  | .lnkCtl _, 2 => .linkTakeDown
  | .lnkRtCmd, 1 => .apply
  | .lnkRtCmd, 2 => .discardStaged
  | .lnkRtCmd, 3 => .setrank
  | .cxlCtl _, 1 => .cxlRetrain
  | .cxlCtl _, 2 => .cxlTakeDown
  | _, _ => .plain

/-- The 64 bits that a record's masked write would leave in a register. -/
def State.wouldBe (s : State) (r : Reg) (c : CmdRec) : Nat := r.merged (s.readReg r) c.data.toNat c.arg1.toNat

/-- The row that a REG_WRITE record belongs to. A write orders an operation only when its mask selects bits of the
OP field. -/
def State.writeRow (s : State) (c : CmdRec) : WriteRow :=
  match regAt c.addr.toNat with
  | none => .plain
  | some r =>
    let v := s.wouldBe r c
    let set := (c.data &&& c.arg1).toNat
    match r with
    | .trnInready _ => .inready
    | .hkpClkout => .clkout
    | .snpCtl _ => .snpCtl
    | .cruMboxData => .mbox
    | .obsCtl _ => if set.testBit 2 then .counterClear else .plain
    | .obsTrcCtl => if set.testBit 0 then .traceEnable else .plain
    | .qrsQcfg _ => if set.testBit 8 then .flush else .plain
    | _ =>
      match r.opField with
      | none => .plain
      | some f => if f.touched c.arg1.toNat then r.opRow (fieldOf v f.hi f.lo) v else .plain

/-- Opcodes (R282). -/
def opRead : BitVec 8 := 0x01
def opWrite : BitVec 8 := 0x02
def opPeelSet : BitVec 8 := 0x03
def opPeelClose : BitVec 8 := 0x04
def opCommit : BitVec 8 := 0x05
def opKeyInstall : BitVec 8 := 0x06
def opReset : BitVec 8 := 0x07
def opDebug : BitVec 8 := 0x08
def opAttest : BitVec 8 := 0x09
def opNop : BitVec 8 := 0x0A

/-- A REG_WRITE record of a given row. -/
def isWrite (w : WriteRow) (s : State) (c : CmdRec) : Bool := c.op == opWrite && s.writeRow c == w

/-- A REG_READ record of a given register, or of any register without a row of its own. -/
def isReadOf (p : Option Reg → Bool) (_ : State) (c : CmdRec) : Bool := c.op == opRead && p (regAt c.addr.toNat)

/-! ## The queues (R280, R283) -/

/-- The command processor serves commands: island 78 runs firmware or the recovery ROM, and has not failed
(16_trust.md R315, 13_recovery.md R261). -/
def State.serving (s : State) : Bool :=
  s.isOn 78 && (s.hkp.boot == .firmware || s.hkp.boot == .recovery) && !s.dev.hub78

/-- A queue may give its next command. -/
def State.queueFree (s : State) (q : Nat) : Bool := (s.queue q).en && !(s.queue q).busy

/-- A queue's place in the choice: lowest PRIO first, then round-robin. -/
def State.rankOf (s : State) (q : Nat) : Nat := 16 * (s.queue q).prio.toNat + (q + 16 - s.qrs.rr) % 16

/-- A record can arrive: the Queros link is up, or in fast standby, which the first frame ends (R278). -/
def State.linkReady (s : State) : Bool := s.qrs.state == 2 || s.qrs.state == 3

/-- The processor picks queue q: it is free, and no other free queue with commands comes before it. The queues are held while the link
is not ready (R279). -/
def State.picks (s : State) (q : Nat) : Bool :=
  s.serving && s.linkReady && s.queueFree q &&
    (List.range 16).all (fun j =>
      j == q || (s.queue j).fifo.isEmpty || !s.queueFree j || decide (s.rankOf q < s.rankOf j))

/-- FIFO depth of a queue, and burst credits of a window (R280). -/
def fifoMax : Nat := 64
def burstMax : Nat := 4

/-- A message of a channel takes one of the host's credits (R280). -/
def State.useCredit (s : State) (c : Nat) : State :=
  { s with qrs := { s.qrs with granted := tset s.qrs.granted 0 c (tget s.qrs.granted 0 c - 1) } }

/-- Gives the host the credits of a channel that its room allows and it does not hold (R280). -/
def State.grant (s : State) (c room : Nat) : State :=
  let g := tget s.qrs.granted 0 c
  if s.linkReady ∧ g < room then
    { s with qrs := { s.qrs with granted := tset s.qrs.granted 0 c room } }.emit (.credit c (room - g))
  else s

/-- Room of a queue's FIFO, and of a window's bursts. -/
def State.grantQueue (s : State) (q : Nat) : State := s.grant q (fifoMax - (s.queue q).fifo.length)
def State.grantWindow (s : State) (w : Nat) : State := s.grant (16 + w) (burstMax - ((s.window w).bursts.length + (s.window w).later.length))

/-- A record joins its queue; the credits of R280 leave room for it. -/
def State.enqueue (s : State) (q : Nat) (r : CmdRec) : State :=
  (s.useCredit q).modQueue q (fun t => if t.fifo.length < fifoMax then { t with fifo := t.fifo ++ [r] } else t)

/-- The record is taken from the head of its queue, whose credit goes back to the host, and the round-robin moves on. -/
def State.taken (s : State) (q : Nat) : State :=
  let t := s.modQueue q (fun t => { t with fifo := t.fifo.tail })
  State.grantQueue { t with qrs := { t.qrs with rr := (q + 1) % 16 } } q

/-! ## Checks of a critical command (R285, 16_trust.md R319 to R321) -/

/-- The command must be critical (R282, R285). -/
def needsCrit (c : CmdRec) : Bool :=
  c.op == opPeelSet || c.op == opCommit || c.op == opKeyInstall || c.op == opReset || c.op == opDebug ||
    (c.op == opWrite && ((regAt c.addr.toNat).map Reg.hasRwk).getD false)

/-- The record's signature takes the place of key and tag (R319). -/
def signedRecord (c : CmdRec) : Bool := c.op == opKeyInstall || c.op == opDebug

/-- Steps 1 and 2 of R285: key and tag. -/
def State.tagErr (s : State) (q : Nat) (c : CmdRec) : Option (BitVec 8) :=
  if s.dev.hub79 then some stNoKey
  else if signedRecord c then (if c.tag = 0 then none else some stBadTag)
  else
    match tget s.cru.keys none q with
    | none => some stNoKey
    | some k => if c.tag = tagOf k.k s.per.serial q c then none else some stBadTag

/-- Step 3 of R285: the counter. -/
def State.ctrErr (s : State) (q : Nat) (c : CmdRec) : Option (BitVec 8) :=
  if c.ctr.toNat ≤ (s.queue q).last.toNat ∨ c.ctr.toNat < (s.queue q).floor.toNat then some stReplay else none

/-- Why a critical command is refused, in the order of R285. -/
def State.critErr (s : State) (q : Nat) (c : CmdRec) : Option (BitVec 8) := (s.tagErr q c).or (s.ctrErr q c)

/-- The counter reservation of a queue (R321). -/
def State.reserved (s : State) (q : Nat) : Word64 := tget s.per.hq 0 q

/-- Accepts a counter: at or above the reservation, the store is written first (R321). `none` when that write
fails. -/
def State.accept (s : State) (q : Nat) (ctr : Word64) (pok : Bool) : Option State :=
  let take := fun (t : State) => t.modQueue q (fun u => { u with last := ctr })
  if ctr.toNat < (s.reserved q).toNat then some (take s)
  else if pok then some (take { s with per := { s.per with hq := tset s.per.hq 0 q (ctr + 1024) } })
  else none

/-- Counts a rejection in QRS_REJ (R285, R293). -/
def Qrs.countRej (t : Qrs) (status : BitVec 8) : Qrs :=
  if status = stNotCritical then { t with notcrit := satAdd t.notcrit 1 }
  else if status = stBadTag then { t with badtag := satAdd t.badtag 1 }
  else if status = stReplay then { t with replays := satAdd t.replays 1 }
  else if status = stNoKey then { t with nokey := satAdd t.nokey 1 }
  else t

/-- Ends a command. -/
def State.finish (s : State) (q : Nat) (htag : BitVec 16) : Ending → State
  | .done st d x => { s with qrs := s.qrs.countRej st }.complete q htag st d x
  | .held => s.modQueue q (fun t => { t with busy := true })
  | .sent => s

/-- A background command completes and frees its queue. -/
def State.endHeld (s : State) (q : Nat) (htag : BitVec 16) (e : Ending) : State :=
  (s.modQueue q (fun t => { t with busy := false })).finish q htag e

/-! ## Peel windows (R286, R287) -/

/-- Device address of byte `o` of a window. -/
def Window.addr (w : Window) (o : Nat) : Nat :=
  if w.mode = 1 then w.base + o / w.row * w.pitch + o % w.row
  else if w.mode = 2 then w.base + o % w.len
  else w.base + o

/-- The first address past a window. -/
def Window.extent (w : Window) : Nat :=
  if w.mode = 1 then w.base + (w.len / w.row - 1) * w.pitch + w.row else w.base + w.len

/-- The window that a PEEL_SET record asks for. -/
def windowOf (c : CmdRec) : Window :=
  { isOpen := true, isRead := c.arg0.getLsbD 3, mode := bv 2 c.arg0.toNat 5 4, base := c.addr.toNat, len := c.data.toNat
    row := fieldOf c.arg1.toNat 31 0, pitch := fieldOf c.arg1.toNat 63 32 }

/-! ## Recovery mode (16_trust.md R315) -/

/-- The recovery ROM serves a command. -/
def recoveryServes (c : CmdRec) : Bool :=
  if c.op == opRead || c.op == opWrite then ((regAt c.addr.toNat).map Reg.inRecovery).getD false
  else if c.op == opPeelSet then
    decide (pantryBase ≤ c.addr.toNat ∧ (windowOf c).extent ≤ pantryBase + pantrySize)
  else c.op == opKeyInstall || c.op == opPeelClose || c.op == opAttest || c.op == opNop

/-- Reserved opcode, a reserved record field that is not zero, or a command that the recovery ROM does not serve. -/
def State.badOpcode (s : State) (c : CmdRec) : Bool :=
  decide (c.op.toNat = 0 ∨ 10 < c.op.toNat) || c.rsv0 != 0 || c.rsv1 != 0 || c.rsv5 != 0 ||
    (s.hkp.boot == .recovery && !recoveryServes c)

/-! ## Taking a command -/

/-- What a command's own row does with its record. -/
abbrev RowBody := State → Cmd → State × Ending

/-- Checks a record and runs its row's body. -/
def State.process (s : State) (c : Cmd) (body : RowBody) : State :=
  let q := c.q.val
  let fin := fun (p : State × Ending) => p.1.finish q c.r.htag p.2
  if s.badOpcode c.r then fin (s, .done stBadOpcode 0 0)
  else if needsCrit c.r && !c.r.crit then fin (s, .done stNotCritical 0 0)
  else if c.r.crit then
    match s.critErr q c.r with
    | some e => fin (s, .done e 0 0)
    | none =>
      match s.accept q c.r.ctr c.pok with
      | none => fin (s, rejected dPstoreFail)
      | some t => fin (body t c)
  else fin (body s c)

/-- The link after a frame from the host: fast standby ends (R278). -/
def State.linkWoken (s : State) : State :=
  if s.qrs.state = 3 then { s with qrs := s.qrs.wake } else s

/-- A record that arrives behind others, or while its queue cannot run, waits (R280). -/
def State.wait (s : State) (c : Cmd) : State :=
  if s.linkReady then s.linkWoken.enqueue c.q.val c.r else s

/-- A host command row (entry 7): the record is run when the processor picks its queue and it is at the queue's head,
or when it arrives on an empty queue; otherwise it waits its turn. A record of another row changes nothing
(entry 2). -/
def State.hostBy (s : State) (c : Cmd) (mine : State → CmdRec → Bool) (run : State → State) : State :=
  if mine s c.r then
    match (s.queue c.q.val).fifo with
    | [] =>
      if s.linkReady && s.picks c.q.val then run ((s.linkWoken.useCredit c.q.val).taken c.q.val) else s.wait c
    | h :: _ =>
      if h = c.r then (if s.picks c.q.val then run (s.taken c.q.val) else s) else s.wait c
  else s

/-- A host command row whose record passes the checks of R284 and R285 before its body runs. -/
def State.host (s : State) (c : Cmd) (mine : State → CmdRec → Bool) (body : RowBody) : State :=
  s.hostBy c mine (fun u => u.process c body)

/-! ## Register access -/

/-- A register access reaches its register, or ends (R282, R406): unmapped, or its island does not answer. -/
def State.regFor (s : State) (c : CmdRec) : Except Ending Reg :=
  match regAt c.addr.toNat with
  | none => .error (.done stBadAddr 0 0)
  | some r => if s.isOn r.island then .ok r else .error (islandOff r.island)

/-- A register write whose DATA sets a selected reserved bit (R407). -/
def setsReserved (r : Reg) (c : CmdRec) : Bool := (c.data.toNat &&& c.arg1.toNat &&& r.rsvMask) != 0

/-- A write row: reaches its register, refuses reserved bits, and acts with the 64 bits that the write would leave. -/
def writeBody (act : State → Cmd → Reg → Nat → State × Ending) : RowBody := fun s c =>
  match s.regFor c.r with
  | .error e => (s, e)
  | .ok r => if setsReserved r c.r then (s, .done stBadOpcode 0 0) else act s c r (s.wouldBe r c.r)

/-- A write row that orders an operation: the fields that the register holds are written, and the operation acts. -/
def opBody (act : State → Cmd → Reg → Nat → State × Ending) : RowBody :=
  writeBody (fun s c r v => act (s.putReg v r) c r v)

/-- A read row. -/
def readBody (act : State → Cmd → Reg → State × Ending) : RowBody := fun s c =>
  match s.regFor c.r with
  | .error e => (s, e)
  | .ok r => act s c r

end Sys2Proof.Machine
end

