-- ==== Sys2Proof/Machine/Ageing.lean ====
section
/-! DEFINITION. Ageing (19_ageing.md): margin codes, proposals, the ageing log, how a proposal takes effect, and the rows
of the surveys and of AGE_CTL. Delays are in picoseconds, and sensitivities in fifteenths of a picosecond per trim
step, so that the mean of R362 is exact. -/

namespace Sys2Proof.Machine

/-! ## Margins (R360) -/

/-- Code of a logic margin: 1 - d x f, in units of 0.25 %, with d in picoseconds and f a code of 4 MHz. -/
def logicCode (d f : Nat) : Nat := min 0xFE ((1000000 - 4 * d * f) / 2500)

/-- Code of an eye margin given in units of 0.01 %. -/
def eyeCode (e : Nat) : Nat := min 0xFE (e / 25)

/-- Islands with an eye (R359). -/
def hasEye (n : Nat) : Bool := decide ((48 ≤ n ∧ n < 60) ∨ (62 ≤ n ∧ n < 76))

/-- Wear in units of 0.01 % (R359). -/
def wearOf (stressed reference : Nat) : BitVec 16 :=
  BitVec.ofNat 16 (min 0xFFFF (10000 * (reference - stressed) / max 1 reference))

/-- The worst replica. -/
def worstDelay (l : List Nat) : Nat := l.foldl max 0

/-! ## Proposals (R364) -/

/-- The frequency code that a delay allows, at most `hi`: the delay is in fifteenths of a picosecond. -/
def codeFor (hi : Nat) (d15 : Int) : Nat := if d15 ≤ 0 then hi else min hi (235000 * 15 / d15.toNat)

/-- The scan of trims: the first one that reaches the highest code. -/
def scanTrims (hi : Nat) (code : Int → Nat) : List Int → Option (Nat × Int) → Option (Nat × Int)
  | [], best => best
  | vt :: rest, best =>
    let f := code vt
    let best := match best with
      | none => some (f, vt)
      | some b => if b.1 < f then some (f, vt) else some b
    if f = hi then best else scanTrims hi code rest best

/-- Trims from `lo` to +7. -/
def trimsFrom (lo : Int) : List Int := ((List.range 16).map (fun (i : Nat) => (i : Int) - 8)).filter (fun v => decide (lo ≤ v))

/-- The proposal of an island: code, trim, and whether it is short of margin at LO. -/
def IslandSt.proposal (i : IslandSt) (full : Bool) (d15 : Int → Int) : Nat × Int × Bool :=
  match scanTrims i.hi.toNat (fun vt => codeFor i.hi.toNat (d15 vt)) (trimsFrom (if full then -8 else i.trim.toInt)) none with
  | none => (i.lo.toNat, i.trim.toInt, true)
  | some b => if b.1 < i.lo.toNat then (i.lo.toNat, b.2, true) else (b.1, b.2, false)

/-- Holds a proposal: valid when it differs from the plan in force; a newer one replaces an older one, also where the
older one had been committed (R364, R369). -/
def IslandSt.propose (i : IslandSt) (x : Nat × Int × Bool) : IslandSt :=
  let code := BitVec.ofNat 8 x.1
  let vt := BitVec.ofInt 4 x.2.1
  let valid := code != i.cur || vt != i.trim
  { i with pvalid := valid, plow := x.2.2, pcode := code, ptrim := vt
           pcommitted := valid && (i.pcommitted || i.auto) }

/-! ## The ageing log (R367) -/

/-- Records that the ring holds. -/
def ageRing : Nat := 4096

/-- Writes a record of a kind, with the data and trims that it shows. -/
def State.ageRecord (s : State) (kind : BitVec 8) (margin data : Nat → BitVec 8) (trim : Nat → BitVec 4) : State :=
  let seq := s.per.ageSeq + 1
  let r : AgeRec :=
    { seq := seq, kind := kind, hours := s.per.onHours, margin := (List.range 80).map margin
      data := (List.range 80).map data, trim := (List.range 80).map trim, tjmax := s.hkp.tjmax }
  let i := (seq.toNat - 1) % ageRing
  let t := s.persist (fun x => { x with ageSeq := seq, ageLog := tput (terase x.ageLog i) i r })
  { t with hkp := { t.hkp with tjmax := 0 } }

/-- Wear saturated to 8 bits. -/
def State.wear8 (s : State) (n : Nat) : BitVec 8 := BitVec.ofNat 8 (min 255 (s.island n).wear.toNat)

/-- The frequency code of an island's plan in force. -/
def State.codeOf (s : State) (n : Nat) : BitVec 8 := (s.island n).cur

/-- AGE_LOW and its LOW record for one island (R364). -/
def State.ageLow (s : State) (n : Nat) : State :=
  (s.ageRecord 4 (fun k => (s.island k).margin) s.codeOf (fun k => (s.island k).trim)).raise n .ageLow [n]

/-! ## Taking effect (R365, R366) -/

/-- Some partition is in Run. -/
def State.running (s : State) : Bool := s.anyPart (fun x => x == .run)

/-- A committed proposal of an island that does not wait for a seal. -/
def State.dueNow (s : State) (n : Nat) : Bool :=
  (s.island n).pcommitted && (s.island n).pvalid &&
    (if n < 48 then
      (match s.partOf n with
       | none => true
       | some p => (s.part p).state != .run)
     else !s.running)

/-- The switch of one island to its committed proposal: a rise of the plan sets the trim first; the frequency follows
when the idle loop has locked (R331). An island that is not clocked takes both at once. -/
def IslandSt.switch (i : IslandSt) : IslandSt :=
  let j := { i with aplan := i.pcode, atrim := i.ptrim, pvalid := false, pcommitted := false }
  if i.pow = .on then
    { j with locking := some (i.pcode, i.ptrim)
             trim := if i.cur.toNat ≤ i.pcode.toNat then i.ptrim else i.trim }
  else { j with cur := i.pcode, trim := i.ptrim }

/-- Applies the committed proposals of a list of islands: one APPLY record before the switch (R365). While the crystal is
lost nothing is applied (R369). -/
def State.applyPlans (s : State) (l : List Nat) : State :=
  if l.isEmpty || s.hkp.clkLoss then s
  else
    let t := s.ageRecord 3 (fun k => (s.island k).margin)
      (fun k => if l.contains k then (s.island k).pcode else s.codeOf k)
      (fun k => if l.contains k then (s.island k).ptrim else (s.island k).trim)
    overAll l (fun n u => u.modIsland n IslandSt.switch) t

/-- Applies what does not wait for a seal. -/
def State.applyDue (s : State) : State := s.applyPlans ((List.range 79).filter (fun n => s.dueNow n))

/-- PLAN_APPLY at a seal of partition p: its racks, and islands 48 to 78 (R365). -/
def State.applyAtSeal (s : State) (p : Nat) : State :=
  s.applyPlans ((s.racksOf p ++ (List.range 31).map (fun i => 48 + i)).filter
    (fun n => (s.island n).pcommitted && (s.island n).pvalid))

/-! ## Surveys and sweeps (R361, R362) -/

/-- An island is measured: it is On, does not coast, and no brownout response is in force. -/
def State.measurable (s : State) (n : Nat) : Bool :=
  s.isOn n && !(s.island n).coast && !s.hkp.boActive && !s.hkp.clkLoss

/-- What a measurement leaves: margin, eye, wear, the worst code of the day, and the delay that trim +7 would give. -/
def IslandSt.measured (i : IslandSt) (n d : Nat) (stressed reference : Nat) (eye : Option Nat) : IslandSt :=
  let ec := match eye with
    | some e => if hasEye n then eyeCode e else 0xFF
    | none => 0xFF
  let mc := min (logicCode d i.cur.toNat) ec
  { i with margin := BitVec.ofNat 8 mc, eye := BitVec.ofNat 8 ec, wear := wearOf stressed reference
           worst := BitVec.ofNat 8 (min mc i.worst.toNat)
           d7 := (15 * (d : Int) - i.sens * (7 - i.trim.toInt)).toNat }

/-- One island of a survey. -/
def State.surveyIsland (s : State) (m : Meas) : State :=
  let n := m.island.val
  if !s.measurable n then s
  else
    let d := worstDelay m.delays
    let t := s.modIsland n (fun i => i.measured n d m.stressed m.reference m.eye)
    if n = 79 then t
    else
      let i := t.island n
      let x := i.proposal false (fun vt => 15 * (d : Int) - i.sens * (vt - i.trim.toInt))
      let u := t.setIsland n (i.propose x)
      if x.2.2 then u.ageLow n else u

/-- SURVEY: an on-hour ends (R361, R367). -/
def State.survey (s : State) (l : List Meas) : State :=
  if 2 ≤ s.hkp.rung then s
  else
    let t := s.persist (fun x => { x with onHours := satAdd x.onHours 1 })
    let t := { t with hkp := { t.hkp with surveyHours := t.hkp.surveyHours + 1 } }
    (overAll l (fun m u => u.surveyIsland m) t).applyDue

def execSurvey (meas : List Meas) (s : State) : Host.Outcome State Fault Refusal := .next (s.survey meas)

/-- One island of a full sweep. -/
def State.sweepIsland (s : State) (m : Sweep) : State :=
  let n := m.island.val
  if !s.measurable n then s
  else
    let d := fun (vt : Int) => worstDelay (m.delays.getD (vt + 8).toNat [])
    let i0 := s.island n
    let i1 := { i0 with sens := (d (-8) : Int) - (d 7 : Int) }.measured n (d i0.trim.toInt) m.stressed m.reference m.eye
    let i := { i1 with d7 := 15 * d 7 }
    let t := s.setIsland n i
    if n = 79 then t
    else
      let x := i.proposal true (fun vt => 15 * (d vt : Int))
      let u := t.setIsland n (i.propose x)
      if x.2.2 then u.ageLow n else u

/-- A full sweep, with its SWEEP record. -/
def State.fullSweep (s : State) (l : List Sweep) : State :=
  let t := overAll l (fun m u => u.sweepIsland m) s
  (t.ageRecord 2 (fun k => (t.island k).margin) t.wear8 (fun k => (t.island k).trim)).applyDue

/-- On-hours at which the fit of delays against HOURS^(1/4) passes the delay whose code at trim +7 is the nominal code `c` (R368): with
n points, x the root in units of 2^-32 and the fit a + b x by least squares, b = num / den, x = (n D - Sy + b Sx) / (n b), where D is
the delay of code c. None where the fit does not rise. -/
def fitHours (c : Nat) (l : List (Nat × Nat)) : Option Nat :=
  let n : Int := l.length
  let sum := fun (f : Int → Int → Int) => (l.map (fun e => f (Config.hoursRoot e.1) e.2)).foldl (· + ·) 0
  let sx := sum (fun x _ => x)
  let sy := sum (fun _ y => y)
  let num := n * sum (fun x y => x * y) - sx * sy
  let den := n * sum (fun x _ => x * x) - sx * sx
  if num ≤ 0 ∨ den ≤ 0 ∨ c = 0 then none
  else
    let top := ((n * 3525000 - c * sy) * den + c * num * sx).toNat
    let bot := (c * n * num).toNat
    some (top ^ 4 / (bot ^ 4 * 2 ^ 128))

/-- The on-hours that remain, saturating. -/
def hoursLeft (c : Nat) (l : List (Nat × Nat)) : BitVec 32 :=
  match fitHours c l with
  | none => 0xFFFFFFFF
  | some h => BitVec.ofNat 32 (min 0xFFFFFFFF (h - ((l.getLast?).map (fun e => e.1)).getD 0))

/-- The projection of one island (R368): 0 when the code at trim +7 is already below nominal; none with fewer than 30
DAILY records. -/
def IslandSt.projected (i : IslandSt) (n : Nat) : IslandSt :=
  if i.history.length < 30 then { i with projValid := false, projHours := 0xFFFFFFFF }
  else if codeFor (Config.nominalCode n).toNat i.d7 < (Config.nominalCode n).toNat then
    { i with projValid := true, projHours := 0 }
  else { i with projValid := true, projHours := hoursLeft (Config.nominalCode n).toNat i.history }

/-- DAILY records that a projection uses. -/
def dailyMax : Nat := 1024

/-- DAILY: after 24 on-hours a record with each island's worst code of the day, and the projections (R367, R368). -/
def State.daily (s : State) : State :=
  if s.hkp.surveyHours < 24 then s
  else
    let t := s.ageRecord 1 (fun k => (s.island k).worst) s.wear8 (fun k => (s.island k).trim)
    let t := { t with hkp := { t.hkp with surveyHours := t.hkp.surveyHours - 24 } }
    overAll (List.range 80) (fun n u => u.modIsland n (fun i =>
      let h := i.history ++ [(s.per.onHours.toNat, i.d7)]
      { i with worst := 0xFF, history := h.drop (h.length - dailyMax) }.projected n)) t

def execDaily (s : State) : Host.Outcome State Fault Refusal := .next s.daily

/-! ## AGE_CTL and the log port (R365, R370) -/

def State.setAgeStatus (s : State) (c : BitVec 4) : State := { s with hkp := { s.hkp with ageStatus := c } }

/-- AGE_APPLY: commits every valid proposal of this moment; those that wait for no seal take effect at once, unless the
write of the APPLY record fails. -/
def ageApplyBody : RowBody := opBody (fun s c _ _ =>
  let valid := (List.range 79).filter (fun n => (s.island n).pvalid)
  if valid.isEmpty then (s.setAgeStatus 1, ok)
  else
    let t := overAll valid (fun n u => u.modIsland n (fun i => { i with pcommitted := true })) (s.setAgeStatus 0)
    (if c.pok then t.applyDue else t, ok))

def execAgeApply (c : Cmd) (s : State) : Host.Outcome State Fault Refusal :=
  .next (s.host c (isWrite .ageApply) ageApplyBody)

/-- DISCARD_PROPOSALS. -/
def discardBody : RowBody := opBody (fun s _ _ _ =>
  let valid := (List.range 79).filter (fun n => (s.island n).pvalid)
  if valid.isEmpty then (s.setAgeStatus 1, ok)
  else
    (overAll valid (fun n u => u.modIsland n (fun i =>
      { i with pvalid := false, plow := false, ptrim := 0, pcode := 0, pcommitted := false })) (s.setAgeStatus 0), ok))

def execDiscardProposals (c : Cmd) (s : State) : Host.Outcome State Fault Refusal :=
  .next (s.host c (isWrite .discardProposals) discardBody)

/-- AGE_LOG_READ: the selected word; WORD advances, and at word 31 INDEX. -/
def ageLogBody : RowBody := readBody (fun s _ r =>
  let last := s.hkp.logWord == 31
  ({ s with hkp := { s.hkp with logWord := s.hkp.logWord + 1,
                                logIndex := if last then s.hkp.logIndex + 1 else s.hkp.logIndex } },
   .done stOk 0 (BitVec.ofNat 64 (s.readReg r))))

def execAgeLogRead (c : Cmd) (s : State) : Host.Outcome State Fault Refusal :=
  .next (s.host c (isReadOf (fun r => r == some .ageLogData)) ageLogBody)

end Sys2Proof.Machine
end

