-- ==== Sys2Proof/Machine/Watch.lean ====
section
/-! DEFINITION. Counting and tracing (22_observation.md R391 to R398): what one event adds to the selected counters of
a rack, and the record that it puts into the rack's trace queue. -/

namespace Sys2Proof.Machine

/-- Event codes of R392. -/
def cCycles : Nat := 0x01
def cTrayBusy : Nat := 0x02
def cNoBudget : Nat := 0x03
def cNoGang : Nat := 0x04
def cHeld : Nat := 0x05
def cWhiskOps : Nat := 0x20
def cDoneTile : Nat := 0x21
def cDoneVec : Nat := 0x22
def cDoneFused : Nat := 0x23
def cFillBytes : Nat := 0x24
def cOutBytes : Nat := 0x25
def cConvElems : Nat := 0x26
def cConvSat : Nat := 0x27
def cConvFlush : Nat := 0x28
def cConvResc : Nat := 0x29
def cProofTaken : Nat := 0x2A
def cProofSkipped : Nat := 0x2B
def cTaskFault : Nat := 0x2C
def cBusErr : Nat := 0x2D

/-- Codes that R392 lists. -/
def eventListed (e : Nat) : Bool :=
  e ≤ 0x05 || (0x10 ≤ e && e ≤ 0x19) || (0x20 ≤ e && e ≤ 0x2D)

/-- The type bit of a descriptor's work: 0 forward, 1 backward, 2 proof (R391). -/
def Desc.workType (d : Desc) : Nat := if d.proof then 2 else if d.backward then 1 else 0

/-- A selection counts an event of a descriptor (typed), or an untyped one (R391). -/
def Sel.counts (x : Sel) (ev : Nat) (d : Option Desc) : Bool :=
  x.event.toNat == ev &&
    (match d with
     | none => true
     | some d => x.type.toNat.testBit d.workType && x.lfirst.toNat ≤ d.layer && d.layer ≤ x.llast.toNat)

/-- Adds `k` to every counter of a rack that selects the event (R394). -/
def Obs.add (o : Obs) (ev k : Nat) (d : Option Desc) : Obs :=
  if !o.enable then o
  else
    (List.range 8).foldl (fun o c =>
      if (tget o.sels {} c).counts ev d then
        let v := tget o.live 0 c + k
        { o with live := tset o.live 0 c (v % 2 ^ 48),
                 ovf := if v < 2 ^ 48 then o.ovf else tset o.ovf false c true }
      else o) o

def State.count (s : State) (n ev k : Nat) (d : Option Desc) : State :=
  if k = 0 then s else s.modRack n (fun r => { r with obs := r.obs.add ev k d })

/-- Trace kinds (R397). -/
def tReady : Nat := 0x01
def tPick : Nat := 0x02
def tIssue : Nat := 0x03
def tComplete : Nat := 0x04
def tFault : Nat := 0x05
def tFillDone : Nat := 0x06
def tBrel : Nat := 0x07
def tStepOpen : Nat := 0x08
def tSeal : Nat := 0x09
def tHold : Nat := 0x0A
def tLost : Nat := 0x1F

/-- A rack's event enters its trace queue when the rack is traced, the collector runs, the kind is selected, and, for
a task kind, the layer lies in the filter (R397, R402). -/
def State.traceRec (s : State) (n : Nat) (r : TraceRec) (task : Bool) : State :=
  if (s.rack n).obs.trace && s.trc.enable && s.trc.kmask.toNat.testBit r.kind &&
      (!task || (s.trc.lfirst.toNat ≤ r.layer && r.layer ≤ s.trc.llast.toNat)) then
    s.modRack n (fun k => { k with obs := { k.obs with queue := k.obs.queue ++ [r] } })
  else s

/-- A record of a task's event. -/
def State.traceTask (s : State) (n i kind : Nat) (d : Desc) (arg0 arg1 : Nat) : State :=
  s.traceRec n
    { time := s.hkp.count % 2 ^ 40, kind := kind, rack := n, slot := i, backward := d.backward, prio := d.prio,
      proof := d.proof, step := d.step, layer := d.layer, opid := d.opid, mb := d.mb, gang := d.gang,
      arg0 := arg0, arg1 := arg1 } true

/-- A record that concerns no task (R397). -/
def State.traceRack (s : State) (n kind : Nat) (step : Step) (arg0 : Nat) : State :=
  s.traceRec n
    { time := s.hkp.count % 2 ^ 40, kind := kind, rack := n, slot := 0x7F, backward := false, prio := 0,
      proof := false, step := step, layer := 0, opid := 0, mb := 0, gang := 0, arg0 := arg0, arg1 := 0 } false

/-- Bytes of the trace ring (R395, R402). -/
def Trace.ringBytes (t : Trace) : Nat := 65536 * 2 ^ t.size.toNat

/-- The region that holds the whole trace ring. -/
def State.traceRegion (s : State) : Option RegionRec :=
  (s.regionAt s.trc.base.toNat).bind (fun r =>
    if s.trc.base.toNat + s.trc.ringBytes ≤ r.base + r.size then some r else none)

/-- A commit that loads the partition which owns the ring's region turns the collector off (R401). -/
def State.traceCommit (s : State) (scope : List Nat) : State :=
  match (s.regionAt s.trc.base.toNat).bind (fun r => r.owner) with
  | some o => if scope.contains o.val && s.trc.enable then { s with trc := { s.trc with enable := false, status := 2 } } else s
  | none => s

/-- Counters or tracing are on in a rack of a partition (R399 FLAGS bit 3). -/
def State.observed (s : State) (p : Nat) : Bool :=
  (s.racksOf p).any (fun n => (s.rack n).obs.enable || (s.rack n).obs.trace)

end Sys2Proof.Machine
end

