-- ==== Sys2Proof/Machine/Wire.lean ====
section
/-! DEFINITION. Packets and flits as bytes (12_links_and_ordering.md R235, R237, R238; 09_kneader.md R180; 13_recovery.md
R257, R262): the header's three words, the prefix and payload of each kind, the flits that carry them, and how arriving bytes
are read; and the messages and frames that the device sends to the host (14_queros_host_link.md R279 to R290). -/

namespace Sys2Proof.Machine

/-! ## Bodies (R238) -/

/-- What a packet's body travels as. -/
def bodyCode : Body → BitVec 4
  | .gseg .. => 0x1
  | .ptile .. => 0x2
  | .snap .. => 0x4
  | .fill .. => 0x5
  | .raw _ => 0x0
  | _ => 0x3

/-- A body's bytes: the prefix of its kind and its payload. The bytes of a control word have no stated layout (entry 64). -/
def bodyBytes (part : Part) : Body → List Byte
  | .gseg seg attempt route codes =>
    leBytes 8 (seg % 65536 ||| attempt % 8 <<< 16 ||| route % 8 <<< 19) ++ codes.flatMap (fun c => leBytes 2 c.toNat)
  | .ptile tile pt form route data =>
    leBytes 8 (tile % 2 ^ 32 ||| pt % 256 <<< 32 ||| form % 2 <<< 40 ||| route % 8 <<< 41) ++ data
  | .snap midx offset data => leBytes 8 (midx % 2 ^ 14 <<< 16 ||| offset % 2 ^ 34 <<< 30) ++ data
  | .fill repoch midx offset data =>
    leBytes 8 (repoch.toNat ||| midx % 2 ^ 14 <<< 16 ||| offset % 2 ^ 34 <<< 30) ++ data
  | .raw b => b
  | b => Config.wordBytes b part

/-- The longest body (R237 LEN). -/
def bodyMax : Nat := 4104

/-- The codes of a gradient segment: code i at bytes 2i and 2i + 1 (09_kneader.md R180). -/
def codesOf (b : List Byte) : List (BitVec 16) := (chunks 2 2048 b).map (fun x => BitVec.ofNat 16 (leNat x))

/-- Reads the body of a payload kind; one whose length its kind does not give is no body. -/
def spellBody (kind : Nat) (b : List Byte) : Body :=
  let w := leNat (b.take 8)
  let d := b.drop 8
  if kind = 1 ∧ b.length = bodyMax then .gseg (fieldOf w 15 0) (fieldOf w 18 16) (fieldOf w 21 19) (codesOf d)
  else if kind = 2 ∧ 8 ≤ b.length ∧ b.length ≤ bodyMax then
    .ptile (fieldOf w 31 0) (fieldOf w 39 32) (fieldOf w 40 40) (fieldOf w 43 41) d
  else if kind = 4 ∧ 8 ≤ b.length ∧ b.length ≤ bodyMax then .snap (fieldOf w 29 16) (fieldOf w 63 30) d
  else if kind = 5 ∧ 8 ≤ b.length ∧ b.length ≤ bodyMax then
    .fill (BitVec.ofNat 16 w) (fieldOf w 29 16) (fieldOf w 63 30) d
  else .raw b

/-- The reserved bits of a body's prefix are zero. -/
def prefixOk (kind : Nat) (b : List Byte) : Bool :=
  let w := leNat (b.take 8)
  if kind = 1 then fieldOf w 63 22 == 0 else if kind = 4 then fieldOf w 15 0 == 0 else true

/-! ## Headers (R237) -/

/-- The body length in bytes. -/
def packetLen (k : Packet) : Nat := (bodyBytes k.part k.body).length

def packetWord0 (k : Packet) : Nat :=
  k.kind.toNat ||| k.detour.toNat <<< 4 ||| packetLen k % 2 ^ 13 <<< 8 ||| k.src.toNat <<< 21 ||| k.dst.toNat <<< 35 |||
    k.dcoord.toNat <<< 49

def packetWord1 (k : Packet) : Nat := k.seq.toNat ||| k.step.toNat <<< 32

def packetWord2 (k : Packet) : Nat := k.stream.toNat ||| k.epoch.toNat <<< 16 ||| k.bucket.toNat <<< 32

/-- A packet on the wire: its 24-byte header, and its body. -/
def wireBytes (k : Packet) : List Byte :=
  leBytes 8 (packetWord0 k) ++ leBytes 8 (packetWord1 k) ++ leBytes 8 (packetWord2 k) ++ bodyBytes k.part k.body

/-- The packet that a header and a body spell. -/
def readPacket (h : List Byte) (body : Body) (part : Part) (crcOk prefOk : Bool) : Packet :=
  let a := leNat (h.take 8)
  let b := leNat ((h.drop 8).take 8)
  let c := leNat ((h.drop 16).take 8)
  { kind := BitVec.ofNat 4 a, detour := BitVec.ofNat 4 (a >>> 4), src := BitVec.ofNat 14 (a >>> 21)
    dst := BitVec.ofNat 14 (a >>> 35), dcoord := BitVec.ofNat 14 (a >>> 49), seq := BitVec.ofNat 32 b
    step := BitVec.ofNat 32 (b >>> 32), stream := BitVec.ofNat 16 c, epoch := BitVec.ofNat 16 (c >>> 16)
    bucket := BitVec.ofNat 20 (c >>> 32), part := part, crcOk := crcOk
    rsvOk := fieldOf a 63 63 == 0 && fieldOf c 63 52 == 0 && prefOk, body := body }

/-! ## Flits (R235) -/

/-- Bytes of content that a flit carries. -/
def flitContent : Nat := 504

/-- Bytes that a payload packet takes in its flits; the length of a body does not depend on its bytes' values. -/
def packetBytes (k : Packet) : Nat :=
  24 + (match k.body with
    | .gseg .. => bodyMax
    | .ptile _ _ _ _ d => 8 + d.length
    | .snap _ _ d => 8 + d.length
    | .fill _ _ _ d => 8 + d.length
    | .raw d => d.length
    | _ => 0)

/-- Flits that a packet takes: a control packet one, a payload packet as many as its bytes need (entry 61). -/
def packetFlits (k : Packet) : Nat := if k.kind = 0x3 then 1 else (packetBytes k + 503) / flitContent

/-- The 504 bytes of content of a flit. -/
def Flit.content (f : Flit) : List Byte :=
  let c := ((wireBytes f.pkt).drop (flitContent * f.idx)).take flitContent
  c ++ List.replicate (flitContent - c.length) 0

/-- The 512 bytes of a flit, with the acknowledgement that it carries for the opposite direction. -/
def Flit.bytes (f : Flit) (ack : BitVec 12) (akind : Nat) : List Byte :=
  let type := if f.pkt.kind = 0x3 then 2 else 1
  let b := f.content ++ leBytes 4 (f.seq.toNat ||| ack.toNat <<< 12 ||| type <<< 24 ||| akind % 16 <<< 28)
  b ++ leBytes 4 (crc32 b)

/-- The flits of a packet, numbered from `first`. -/
def flitsOf (k : Packet) (first : BitVec 12) : List Flit :=
  (List.range (packetFlits k)).map (fun i => { seq := first + BitVec.ofNat 12 i, pkt := k, idx := i })

/-- The trailer of a received flit. -/
structure FlitHdr where
  content : List Byte
  fseq : BitVec 12
  ack : BitVec 12
  type : Nat
  akind : Nat
  crcOk : Bool
  deriving DecidableEq, Repr

def flitOf (b : List Byte) : FlitHdr :=
  let t := leNat ((b.drop 504).take 4)
  { content := b.take flitContent, fseq := BitVec.ofNat 12 t, ack := BitVec.ofNat 12 (t >>> 12), type := fieldOf t 27 24
    akind := fieldOf t 31 28
    crcOk := b.length == 512 && leNat ((b.drop 508).take 4) == crc32 (b.take 508) }

/-- The payload packets that a port's content completes, and what is left; each packet starts on an 8-byte boundary, and KIND 0
is padding. -/
def unpacked : Nat → List Byte → List Packet × List Byte
  | 0, c => ([], c)
  | f + 1, c =>
    let w := leNat (c.take 8)
    let n := fieldOf w 20 8
    if fieldOf w 3 0 = 0 then ([], [])
    else if c.length < 24 ∨ c.length < 24 + n then ([], c)
    else
      let b := (c.drop 24).take n
      let r := unpacked f (c.drop ((24 + n + 7) / 8 * 8))
      (readPacket (c.take 24) (spellBody (fieldOf w 3 0) b) 0 true (prefixOk (fieldOf w 3 0) b) :: r.1, r.2)

/-- The control packets of a control flit, each with the reading that the row gives its word. -/
def unpackedCtl : List CtrlRead → List Byte → List Packet
  | [], _ => []
  | r :: t, c =>
    let w := leNat (c.take 8)
    if c.length < 24 ∨ fieldOf w 3 0 = 0 then []
    else readPacket (c.take 24) r.body r.part r.crcOk true :: unpackedCtl t (c.drop ((24 + fieldOf w 20 8 + 7) / 8 * 8))

/-! ## Messages to the host (14_queros_host_link.md R280, R284, R288, R290) -/

/-- The number of an event (R290). -/
def EvCode.number (c : EvCode) : BitVec 16 := if c = .stepPhase then 0x0040 else Config.eventCode c.ctorIdx

/-- The sizes of the fields of STEP_PHASE's payload (22_observation.md R399). -/
def phaseSizes : List Nat := [4, 1, 1, 2, 4, 4, 4, 4, 4, 4, 4, 4, 2]

/-- The 48 bytes of an event's payload. -/
def Event.payloadBytes (e : Event) : List Byte :=
  if e.code = .stepPhase then (List.zip phaseSizes e.payload).flatMap (fun x => leBytes x.1 x.2.toNat) ++ List.replicate 6 0
  else (List.range 48).map (Config.eventPayload e.code.ctorIdx e.payload)

/-- An event record. -/
def Event.bytes (e : Event) : List Byte :=
  leBytes 8 (e.src % 65536 ||| e.code.number.toNat <<< 16 ||| e.seq.toNat <<< 32) ++ leBytes 8 (e.time % 2 ^ 40) ++ e.payloadBytes

/-- A message: a completion of 16 bytes, the answer to a burst behind its header, an event record, HELLO. -/
def Out.bytes : Out → List Byte
  | .completion q htag status detail data =>
    leBytes 8 (htag.toNat ||| status.toNat <<< 16 ||| q % 16 <<< 24 ||| detail.toNat <<< 32) ++ leBytes 8 data.toNat
  | .burst _ bid blen status fcode mask data =>
    leBytes 8 (blen % 8192 ||| bid.toNat <<< 16 ||| status % 256 <<< 32 ||| fcode % 256 <<< 40) ++ leBytes 8 mask.toNat ++ data
  | .event e => e.bytes
  | .hello part rev width => Config.helloBytes part rev width
  | _ => []

/-- The channel of a message (R279, R290). -/
def Out.chan : Out → Nat
  | .completion q .. => q
  | .burst w .. => 16 + w
  | .event _ => 24
  | _ => 25

/-- Payload bytes of a frame (R279). -/
def frameRoom : Nat := 240

/-- The used payload of a frame, or the credit counts of one that gives credits: byte c adds to channel c (R280). -/
def QFrame.payload (f : QFrame) : List Byte :=
  match f.msg with
  | .credit c n => List.replicate c (0 : Byte) ++ [BitVec.ofNat 8 n]
  | m => (m.bytes.drop (frameRoom * f.idx)).take frameRoom

/-- The 256 bytes of a frame, with the acknowledgement that it carries for the opposite direction (R279). -/
def QFrame.bytes (f : QFrame) (ack : BitVec 12) (akind : Nat) : List Byte :=
  let p := f.payload
  let isCredit := match f.msg with
    | .credit .. => true
    | _ => false
  let h := (if isCredit then 0 else f.msg.chan) ||| (if isCredit then 2 else 1) <<< 5 |||
    (if f.idx = 0 ∧ !isCredit then 1 else 0) <<< 8 ||| (if f.idx + 1 = f.msg.frames ∧ !isCredit then 1 else 0) <<< 9 ||| p.length <<< 16
  let b : List Byte := leBytes 4 h ++ p ++ List.replicate (frameRoom - p.length) (0 : Byte) ++
    leBytes 4 (f.seq.toNat ||| ack.toNat <<< 12 ||| akind % 16 <<< 24) ++ List.replicate 4 (0 : Byte)
  b ++ leBytes 4 (crc32 b)

end Sys2Proof.Machine
end

