-- ==== Sys2Proof/Machine/Fabric.lean ====
section
/-! DEFINITION. The link fabric's shared operations (12_links_and_ordering.md): which port a packet takes (R240, R241),
forming and sending a packet (R239), the check of a packet delivered locally (R245, R248), closing a fence (R246),
and what a rise of the route generation sends again (R242). -/

namespace Sys2Proof.Machine

/-! ## Coordinates and ports -/

/-- Size of dimension i (0 X, 1 Y, 2 Z, 3 W); 1 before any commit. -/
def State.dim (s : State) (i : Nat) : Nat :=
  match s.rcp.links with
  | none => 1
  | some l => if i = 0 then l.dx else if i = 1 then l.dy else if i = 2 then l.dz else l.dw

def State.ownCoord (s : State) : BitVec 14 := (s.rcp.links.map (fun l => l.coord)).getD 0

/-- Component i of a coordinate (R237). -/
def coordAt (c : BitVec 14) (i : Nat) : Nat :=
  let f := coordOf c
  if i = 0 then f.1 else if i = 1 then f.2.1 else if i = 2 then f.2.2.1 else f.2.2.2.1

def coordSys (c : BitVec 14) : Nat := (coordOf c).2.2.2.2

/-- A coordinate in DCOORD form. -/
def coordMk (x y z w t : Nat) : BitVec 14 :=
  BitVec.ofNat 14 (x % 8 ||| (y % 8) <<< 3 ||| (z % 8) <<< 6 ||| (w % 16) <<< 9 ||| (t % 2) <<< 13)

/-- The + port and the - port of a dimension are 2i and 2i + 1; port T is 8 (01_architecture.md R11). -/
def portT : Nat := 8

/-- The coordinate that R232 cables to a port of a device. -/
def State.neighbour (s : State) (c : BitVec 14) (n : Nat) : BitVec 14 :=
  let g := fun i => coordAt c i
  if n = portT then coordMk (g 0) (g 1) (g 2) (g 3) (1 - coordSys c)
  else
    let i := n / 2
    let d := s.dim i
    let v := if n % 2 = 0 then (g i + 1) % d else (g i + d - 1) % d
    let h := fun j => if j = i then v else g j
    coordMk (h 0) (h 1) (h 2) (h 3) (coordSys c)

/-- The neighbour that R232 predicts behind a port. -/
def State.predicted (s : State) (n : Nat) : BitVec 14 := s.neighbour s.ownCoord n

/-- The peer's port that R232 cables to a port. -/
def peerPortOf (n : Nat) : Nat := if n = portT then portT else if n % 2 = 0 then n + 1 else n - 1

/-- A port carries traffic. -/
def State.portUp (s : State) (n : Nat) : Bool := (s.port n).state == .up

/-- Where a packet goes next from here (R240): local delivery, or a port with the dimension that it belongs to. -/
inductive Hop where
  | deliver
  | out (port : Nat) (dim : Option Nat)
  deriving DecidableEq, Repr

/-- The port of R240 for a packet that came by port `n`, or was formed here. A packet that travels the reverse way (DETOUR) never
goes back by the port it came by: otherwise it would turn round half-way, and the rule says that it cannot loop (entry 60). -/
def State.hop (s : State) (n : Option Nat) (dcoord : BitVec 14) (detour : BitVec 4) : Hop :=
  let own := s.ownCoord
  if coordSys dcoord ≠ coordSys own then .out portT none
  else
    match (List.range 4).find? (fun i => coordAt dcoord i != coordAt own i) with
    | none => .deliver
    | some i =>
      let d := s.dim i
      let h := (coordAt dcoord i + d - coordAt own i % d) % d
      let back := detour.toNat.testBit i
      let m := if decide (h ≤ d / 2) != back then 2 * i else 2 * i + 1
      .out (if back && n == some m then peerPortOf m else m) (some i)

/-! ## Sending -/

/-- Flits that the replay buffer keeps (R236). -/
def replayMax : Nat := 2048

/-- A packet joins the queue of its class (R17, R240). -/
def PortSt.enqueue (p : PortSt) (k : Packet) : PortSt :=
  if k.kind = 0x3 then { p with ctl := p.ctl ++ [k] } else { p with pay := p.pay ++ [k] }

/-- The next packet to leave: a control word before any payload (R17), once the replay buffer has room for its flits. -/
def PortSt.next (p : PortSt) : Option (Packet × PortSt) :=
  let fits := fun (k : Packet) => decide (p.flits.length + packetFlits k ≤ replayMax)
  match p.ctl, p.pay with
  | k :: t, _ => if fits k then some (k, { p with ctl := t }) else none
  | [], k :: t => if fits k then some (k, { p with pay := t }) else none
  | [], [] => none

/-- Forms the flits of the packets that may leave a port, which keeps them until they are acknowledged (R235, R236). -/
def State.pump : Nat → Nat → State → State
  | 0, _, s => s
  | f + 1, n, s =>
    match (s.port n).next with
    | none => s
    | some (k, p) =>
      State.pump f n ((s.modPort n (fun _ => { p with
        txSeq := p.txSeq + BitVec.ofNat 12 (packetFlits k), flits := p.flits ++ flitsOf k p.txSeq })).emit (.packet n k))

/-- Everything that may leave a port leaves it. -/
def State.drainPort (s : State) (n : Nat) : State := s.pump ((s.port n).ctl.length + (s.port n).pay.length) n

/-- Puts a packet into the queues of a port. -/
def State.transmit (s : State) (n : Nat) (k : Packet) : State := (s.modPort n (fun p => p.enqueue k)).drainPort n

/-- A packet with no port left: discarded, counted, and LINK_UNROUTABLE names its destination (R241); R91 judges its partitions
when a row that changes ports, routes or the running partitions ends, or else at the next step without a command (entry 178). -/
def State.unroutable (s : State) (n : Nat) (k : Packet) : State :=
  let d := s.lnk.disc
  { s with lnk := { s.lnk with
      disc := { d with unroutable := satAdd d.unroutable 1 }
      lostAt := if s.lnk.lostAt.contains n then s.lnk.lostAt else s.lnk.lostAt ++ [n] } }.raise
    (62 + n) .linkUnroutable [k.dst.toNat]

/-- Sends a packet on the port that R240 names, or on the detour of R241. -/
def State.forward (s : State) (k : Packet) (n : Nat) (dim : Option Nat) : State :=
  if s.portUp n then s.transmit n k
  else
    match dim with
    | none => s.unroutable n k
    | some i =>
      let m := peerPortOf n
      if k.detour.toNat.testBit i then s.unroutable n k
      else if s.portUp m then s.transmit m { k with detour := k.detour ||| (1 <<< i : BitVec 4) }
      else s.unroutable n k

/-! ## Local delivery -/

/-- Key of a sequence-table entry (R245). -/
def seqKey (src : BitVec 14) (stream : BitVec 16) : Nat := src.toNat * 65536 + stream.toNat

def State.seqEnt (s : State) (key : Nat) : Option SeqEnt := tfind s.lnk.seqs key

def State.putSeq (s : State) (key : Nat) (e : SeqEnt) : State :=
  { s with lnk := { s.lnk with seqs := tput (terase s.lnk.seqs key) key e } }

/-- Entries of the sequence table (R245). -/
def seqMax : Nat := 4096

/-- Makes an entry for a pair that has none, while the table has room. -/
def State.makeSeq (s : State) (key : Nat) (e : SeqEnt) : State :=
  if (s.seqEnt key).isNone && decide (s.lnk.seqs.length < seqMax) then s.putSeq key e else s

/-- What R245 says of a packet. -/
inductive Verdict where
  | accept | hold | stale | noent | epochOld | epochAhead
  deriving DecidableEq, Repr

def seqVerdict (e : Option SeqEnt) (seq : BitVec 32) (epoch : BitVec 16) : Verdict :=
  match e with
  | none => .noent
  | some e =>
    if epoch = e.epoch then
      if newer seq e.last &&
          (match e.pend with
           | none => true
           | some f => seq == f.limit || newer f.limit seq) then .accept
      else .stale
    else if (e.pend.map (fun f => f.newEpoch)) = some epoch then .hold
    else if newer e.epoch epoch then .epochOld
    else .epochAhead

/-- Counts a discarded packet (R249). -/
def Disc.count (d : Disc) : Verdict → Disc
  | .stale => { d with stale := satAdd d.stale 1 }
  | .noent => { d with noent := satAdd d.noent 1 }
  | .epochOld => { d with epochOld := satAdd d.epochOld 1 }
  | .epochAhead => { d with epochAhead := satAdd d.epochAhead 1 }
  | _ => d

def State.modDisc (s : State) (f : Disc → Disc) : State :=
  { s with lnk := { s.lnk with disc := f s.lnk.disc } }

/-- Packets that a port's hold buffer keeps (R245). -/
def holdMax : Nat := 64

/-- The port whose hold buffer keeps a packet: the one it arrived on, and port T's for one that the device sent to
itself. -/
def holdPort (n : Option Nat) : Nat := n.getD portT

/-- Accepts a packet: its entry moves on, and it waits for the row of its word. -/
def State.acceptPkt (s : State) (k : Packet) : State :=
  let key := seqKey k.src k.stream
  let t := match s.seqEnt key with
    | some e => s.putSeq key { e with last := k.seq }
    | none => s
  { t with inbox := t.inbox ++ [k] }

/-- One packet under R245. -/
def State.checkSeq (s : State) (n : Option Nat) (k : Packet) : State :=
  match seqVerdict (s.seqEnt (seqKey k.src k.stream)) k.seq k.epoch with
  | .accept => s.acceptPkt k
  | .hold =>
    let m := holdPort n
    if (s.port m).hold.length < holdMax then s.modPort m (fun p => { p with hold := p.hold ++ [k] })
    else s.modDisc (fun d => { d with holdFull := satAdd d.holdFull 1 })
  | v => s.modDisc (fun d => d.count v)

/-- Inserts a packet in ascending SEQ. -/
def insertSeq (k : Packet) : List Packet → List Packet
  | [] => [k]
  | h :: t => if newer h.seq k.seq then k :: h :: t else h :: insertSeq k t

/-- Closes the pending fence of an entry: EPOCH and LASTSEQ move, and the held packets of the pair are checked again
in ascending SEQ (R246). -/
def State.closeFence (s : State) (key : Nat) : State :=
  match s.seqEnt key with
  | none => s
  | some e =>
    match e.pend with
    | none => s
    | some f =>
      let mine := fun (k : Packet) => seqKey k.src k.stream == key
      let held := (List.range 9).flatMap (fun n => ((s.port n).hold.filter mine).map (fun k => k))
      let t := overAll (List.range 9) (fun n u => u.modPort n (fun p => { p with hold := p.hold.filter (fun k => !mine k) })) s
      let t := t.putSeq key { epoch := f.newEpoch, last := f.base - 1, pend := none }
      overAll (held.foldl (fun l k => insertSeq k l) []) (fun k u => u.checkSeq none k) t

/-- A drain fence whose LIMIT has been reached closes (R246). -/
def State.closeIfReached (s : State) (key : Nat) : State :=
  match s.seqEnt key with
  | some e =>
    (match e.pend with
     | some f => if e.last = f.limit then s.closeFence key else s
     | none => s)
  | none => s

/-- Words that a fenced device still takes (13_recovery.md R260). -/
def fencedTakes (k : Packet) : Bool :=
  match k.body with
  | .fence .. | .fillReq .. | .fill .. => true
  | _ => false

/-- A packet whose coordinates match is delivered here (R240 step 4): to the device's own rank only, with a sound
CRC-64 (R18), under the fence's restriction (R260), and then under R245. A FENCE word is not checked by R245: it
makes and moves the entries (R246). -/
def State.deliver (s : State) (n : Option Nat) (k : Packet) : State :=
  if k.dst ≠ s.lnk.rank then s.modDisc (fun d => { d with misdelivered := satAdd d.misdelivered 1 })
  else if k.kind = 0x3 ∧ k.crcOk = false then s.modDisc (fun d => { d with crc64 := satAdd d.crc64 1 })
  else if s.dev.fenced && !fencedTakes k then s
  else
    match k.body with
    | .fence .. => { s with inbox := s.inbox ++ [k] }
    | _ => (s.checkSeq n k).closeIfReached (seqKey k.src k.stream)

/-- Routes a packet from here (R240). -/
def State.route (s : State) (n : Option Nat) (k : Packet) : State :=
  match s.hop n k.dcoord k.detour with
  | .deliver => s.deliver n k
  | .out m dim => s.forward k m dim

/-! ## Forming packets (R239) -/

/-- A packet of a rack's stream to a rank, with everything but its DCOORD. -/
def State.packetOf (s : State) (n : Nat) (p : Nat) (dst : BitVec 14) (step : Step) (bid : BitVec 20) (b : Body) : Packet :=
  let t := (s.rack n).stream
  { kind := bodyCode b, detour := 0, src := s.lnk.rank, dst := dst, dcoord := 0, seq := t.txseq, step := step,
    stream := t.id, epoch := t.epoch, bucket := bid, part := ⟨p % 8, Nat.mod_lt _ (by decide)⟩, crcOk := true, body := b }

/-- Resolves DST and routes: a packet to an unused or a fenced rank is discarded here (R240). -/
def State.resolve (s : State) (k : Packet) : State :=
  let e := s.rtEntry k.dst.toNat
  match e.state with
  | .active => s.route none { k with dcoord := e.coord }
  | _ => s.modDisc (fun d => { d with noroute := satAdd d.noroute 1 })

/-- The subtype under which the latest word is kept (R242): a word of each kind, of each route for PARAM_END. ROUTE_CHANGED is
not kept: at each rise R242's first act sends the word of every unsealed bucket anew. -/
def wordKind : Body → Nat
  | .amax .. => 1 | .scale .. => 2 | .csum .. => 3 | .replay .. => 4 | .paramEnd r _ => 16 + r | .clear .. => 5
  | .adopted .. => 6 | .commit => 7 | .votes .. => 8 | .combined .. => 9 | .sealReady => 10 | .seal => 11
  | .restored .. => 12 | .resume .. => 13
  | .rollback .. => 14 | .paramResend .. => 15
  | _ => 0

def sameWord (a b : Packet) : Bool :=
  wordKind a.body == wordKind b.body && a.part == b.part && a.step == b.step && a.bucket == b.bucket && a.dst == b.dst

/-- Keeps the latest control word of each subtype for each partition, step, bucket and destination (R242). -/
def State.keepWord (s : State) (k : Packet) : State :=
  if wordKind k.body = 0 then s
  else { s with lnk := { s.lnk with latest := s.lnk.latest.filter (fun x => !sameWord x k) ++ [k] } }

/-- Sends a packet on rack n's stream, for partition p. -/
def State.sendOn (s : State) (n p : Nat) (dst : BitVec 14) (step : Step) (bid : BitVec 20) (b : Body) : State :=
  let k := s.packetOf n p dst step bid b
  ((s.modStream n (fun t => { t with txseq := t.txseq + 1 })).keepWord k).resolve k

/-- A partition's seal stream is that of its lowest-numbered rack (R239). -/
def State.sealRack (s : State) (p : Nat) : Nat := (s.racksOf p).headD 0

def State.sendSeal (s : State) (p : Nat) (dst : BitVec 14) (step : Step) (b : Body) : State :=
  s.sendOn (s.sealRack p) p dst step 0 b

/-- A packet of the device stream (R239). -/
def State.devicePacket (s : State) (p : Nat) (dst dcoord : BitVec 14) (step : Step) (b : Body) : Packet :=
  { kind := bodyCode b, detour := 0, src := s.lnk.rank, dst := dst, dcoord := dcoord, seq := s.lnk.devSeq, step := step,
    stream := 0xFFFF, epoch := 0, bucket := 0, part := ⟨p % 8, Nat.mod_lt _ (by decide)⟩, crcOk := true, body := b }

/-- The device stream counter rises by one for each packet (R239). -/
def State.nextDevice (s : State) : State := { s with lnk := { s.lnk with devSeq := s.lnk.devSeq + 1 } }

/-- Sends a packet on the device stream, to a coordinate that the caller gives (R239, R262). -/
def State.sendDevice (s : State) (p : Nat) (dst dcoord : BitVec 14) (step : Step) (b : Body) : State :=
  s.nextDevice.route none (s.devicePacket p dst dcoord step b)

/-- Sends a packet on the device stream to a rank. -/
def State.sendDeviceTo (s : State) (p : Nat) (dst : BitVec 14) (step : Step) (b : Body) : State :=
  s.nextDevice.resolve (s.devicePacket p dst 0 step b)

/-- Sends a packet on rack n's stream to a coordinate that the caller gives (R262). -/
def State.sendTo (s : State) (n p : Nat) (dst dcoord : BitVec 14) (step : Step) (b : Body) : State :=
  let k := { s.packetOf n p dst step 0 b with dcoord := dcoord }
  (s.modStream n (fun t => { t with txseq := t.txseq + 1 })).route none k

/-- Sends a port word: it travels one hop and takes no TXSEQ (R239). -/
def State.sendPort (s : State) (n : Nat) (b : Body) : State :=
  s.transmit n
    { kind := 0x3, detour := 0, src := s.lnk.rank, dst := 0, dcoord := s.predicted n, seq := 0, step := 0, stream := 0,
      epoch := 0, bucket := 0, part := 0, crcOk := true, body := b }

/-- The packet of a word's row is accepted and is the oldest of its source and stream that waits (R245, R247 O3). -/
def State.takes (s : State) (k : Packet) : Bool :=
  s.inbox.find? (fun x => x.src == k.src && x.stream == k.stream) == some k

/-- The row of a word takes its packet, of the row's kind, from the accepted ones; without it the row's condition does not hold (entries 2 and
17). -/
def State.word (s : State) (k : Packet) (is : Body → Bool) (f : State → State) : State :=
  if s.takes k && is k.body then f { s with inbox := s.inbox.erase k } else s

end Sys2Proof.Machine
end

