-- ==== Sys2Proof/Machine/Partitions.lean ====
section
/-! DEFINITION. Partitions as wholes: who their peers are, raising placement epochs with their fences
(12_links_and_ordering.md R245, R246), the partition fault (04_trays_racks_partitions.md R88 to R92), and the device
fence (13_recovery.md R260, R261). -/

namespace Sys2Proof.Machine

/-! ## Peers -/

/-- Removes repeats, keeping the first of each. -/
def dedup (l : List Nat) : List Nat := l.foldl (fun a x => if a.contains x then a else a ++ [x]) []

/-- The rank of the twin partner: the active rank placed at the coordinate behind port T (R232). -/
def State.twinRank (s : State) : Option Nat :=
  match s.rcp.links with
  | none => none
  | some l =>
    if l.twinNamed then
      (s.lnk.table.find? (fun e => e.2.state == .active && e.2.coord == s.predicted portT)).map (fun e => e.1)
    else none

/-! ## The seal tree (08_training_step.md R161; entry 14) -/

/-- The seal domain of a partition in order, the root first. -/
def State.sealOrder (s : State) (p : Nat) : List Nat :=
  match (s.slice p).bind (fun c => c.sealCfg) with
  | none => [s.lnk.rank.toNat]
  | some x => x.root :: x.domain.filter (fun r => r != x.root)

/-- Ranks with their coordinates, as the routing table has them. -/
def State.sealPlaces (s : State) (p : Nat) : List (Nat × Nat) := (s.sealOrder p).map (fun r => (r, (s.rtEntry r).coord.toNat))

/-- The parent of a rank; none at the root and outside the domain. -/
def State.sealParent (s : State) (p r : Nat) : Option Nat :=
  match (s.sealOrder p).findIdx? (fun x => x == r) with
  | none => none
  | some 0 => none
  | some (i + 1) => (s.sealOrder p)[Config.sealTree (i + 1) (s.sealPlaces p) % (i + 1)]?

def State.sealChildren (s : State) (p : Nat) : List Nat :=
  (s.sealOrder p).filter (fun r => s.sealParent p r == some s.lnk.rank.toNat)

/-- This device is the seal root of a partition. -/
def State.isSealRoot (s : State) (p : Nat) : Bool := (s.sealOrder p).head? == some s.lnk.rank.toNat

/-! ## Senders and receivers (12_links_and_ordering.md R245) -/

/-- The ranks that a route set makes this device's senders and receivers: its parents and children, the owner, and at the owner
every member (09_kneader.md R177, R179). -/
def rsetNear (own : Nat) (r : RouteSet) : List Nat :=
  if own = r.owner then r.owner :: r.members
  else if r.members.contains own then
    own :: r.owner :: r.routes.flatMap (fun t =>
      (if t.parent.isSome then [t.parentRank] else []) ++ t.children.map (fun c => c.2))
  else []

/-- The ranks with which a partition exchanges packets by its route sets and its seal tree. -/
def State.routePeers (s : State) (p : Nat) : List Nat :=
  match s.slice p with
  | none => []
  | some c =>
    dedup (c.rsets.flatMap (fun r => rsetNear s.lnk.rank.toNat r) ++ (s.sealParent p s.lnk.rank.toNat).toList ++ s.sealChildren p)

/-- Every rank that a partition's route sets, seal tree and twin role name as a sender to this device and a receiver from it. -/
def State.peers (s : State) (p : Nat) : List Nat :=
  if (s.slice p).isNone then [] else dedup (s.routePeers p ++ s.twinRank.toList)

/-- The devices to which a raised epoch is fenced: those of the partition's replica groups, which its route sets name, and every
other one that holds an entry for its streams (R246, 04_trays_racks_partitions.md R89). This device is one of them where it sends to
itself (R248). -/
def State.fencePeers (s : State) (p : Nat) : List Nat :=
  match s.slice p with
  | none => []
  | some c => dedup (s.peers p ++ c.rsets.flatMap (fun r => r.owner :: r.members))

/-! ## Epochs -/

/-- Sends the FENCE of rack n's stream to a list of ranks (R246): discard, with BASE the next TXSEQ. -/
def State.fenceStream (s : State) (n p : Nat) (ranks : List Nat) (old new : BitVec 16) : State :=
  let t := (s.rack n).stream
  overAll ranks (fun r u => u.sendOn n p (BitVec.ofNat 14 r) 0 0 (.fence t.id old new true (t.txseq - 1) t.txseq)) s

/-- This device has handed a rank over under drain: it forms no new control word of that rank's streams (13_recovery.md R268). -/
def State.drainedOff (s : State) (p : Nat) : Bool :=
  (s.recov p).migration.any (fun g => g.drain && g.handedOver) && !(s.recov p).spare

/-- Raises the placement epoch of a partition's streams by one and sends the fences (R89, 08_training_step.md
R173). -/
def State.raiseEpoch (s : State) (p : Nat) : State :=
  let t := s.modPart p (fun x => { x with epoch := x.epoch + 1 })
  overAll (t.racksOf p) (fun n u =>
    let old := (u.rack n).stream.epoch
    (u.modStream n (fun x => { x with epoch := old + 1 })).fenceStream n p (if u.drainedOff p then [] else u.fencePeers p) old (old + 1)) t

/-- The streams of a partition enter a state. -/
def State.setStreams (s : State) (p : Nat) (st : StrState) : State :=
  overAll (s.racksOf p) (fun n u => u.modStream n (fun t => { t with state := st })) s

/-! ## Buckets and the route generation (R239, R242) -/

/-- The partition and the record of a bucket id. -/
def State.bucketOf (s : State) (bid : BitVec 20) : Option (Nat × BucketRec) :=
  s.rcp.slices.findSome? (fun e => (e.2.buckets.find? (fun b => b.bid == bid)).map (fun b => (e.1, b)))

/-- A route set of a partition. -/
def State.routeSet (s : State) (p rset : Nat) : Option RouteSet :=
  (s.slice p).bind (fun c => c.rsets.find? (fun r => r.rset == rset))

/-- Sends a packet for a bucket, on its release rack's stream (R239). -/
def State.sendBkt (s : State) (p : Nat) (b : BucketRec) (dst : Nat) (step : Step) (body : Body) : State :=
  s.sendOn b.rrack.val p (BitVec.ofNat 14 dst) step b.bid body

/-- The open steps of a partition that are not sealed: at most two (08_training_step.md R161). -/
def PartSt.openSteps (x : PartSt) : List Step :=
  if !x.everOpen then []
  else [x.lastSeal + 1, x.lastSeal + 2].filter (fun n => decide ((n - x.lastSeal).toNat ≤ (x.openReg - x.lastSeal).toNat ∧
    (x.openReg - x.lastSeal).toNat ≤ 2))

/-- A kept word sent again on the stream that it was sent on, with a new sequence number and the stream's epoch. -/
def State.resend (s : State) (k : Packet) : State :=
  match (List.range 48).find? (fun n => (s.rack n).stream.id == k.stream && (s.partOf n).isSome) with
  | none => s
  | some n =>
    let t := (s.rack n).stream
    (s.modStream n (fun x => { x with txseq := x.txseq + 1 })).resolve
      { k with seq := t.txseq, epoch := t.epoch, detour := 0 }

/-- The route generation rises (R242): ROUTE_CHANGED goes to the owner of every unsealed bucket whose route set names
this device, and the latest control words go out again. -/
def State.routeRise (s : State) : State :=
  let t := { s with lnk := { s.lnk with gen := s.lnk.gen + 1 } }
  let words := t.lnk.latest
  let t := overAll (List.range 8) (fun p u =>
    match u.slice p with
    | none => u
    | some c =>
      overAll (u.part p).openSteps (fun n u =>
        overAll c.buckets (fun b u =>
          match u.routeSet p b.rset with
          | none => u
          | some r =>
            if r.owner == u.lnk.rank.toNat || r.members.contains u.lnk.rank.toNat then
              u.sendBkt p b r.owner n .routeChanged
            else u) u) u) t
  overAll words (fun k u => u.resend k) t

/-! ## Slots -/

/-- Freezes a slot (06_task_engines_and_whisk.md R121 Held). -/
def Slot.freeze (x : Slot) : Slot :=
  match x.frozen with
  | some _ => x
  | none => { x with frozen := some x.state, state := .held }

/-- Lets a held slot go on where it stood (15_recipes.md R308). -/
def Slot.thaw (x : Slot) : Slot :=
  match x.frozen with
  | none => x
  | some st => { x with frozen := none, state := st }

/-- Applies an update to every slot of a rack that is not at its reset value. -/
def State.modSlots (s : State) (n : Nat) (f : Slot → Slot) : State :=
  overAll ((s.rack n).slots.map (fun e => e.1)) (fun i u => u.modSlot n i f) s

/-- A slot at its recipe entry, or Free (R113, R125); TSTEP is the step that the partition opens next. -/
def State.entrySlot (s : State) (n i : Nat) : Slot :=
  match tget (s.rack n).entries none i with
  | none => {}
  | some a =>
    { state := .wait, next := a
      tstep := match s.partOf n with
        | some p => (s.part p).nextOpen
        | none => (s.rack n).stream.step }

/-- Every slot of a rack returns to its recipe entry or to Free. -/
def State.resetSlots (s : State) (n : Nat) : State :=
  let t := s.modRack n (fun r => { r with slots := [], holdFor := none, fusion := [], proofs := [] })
  overAll ((t.rack n).entries.map (fun e => e.1)) (fun i u => u.setSlot n i (u.entrySlot n i)) t

/-! ## Partition faults (R88 to R92) -/

def causeCode : FaultCause → BitVec 6
  | .island => 1 | .engine => 2 | .stateUe => 3 | .tray => 4 | .shared => 5 | .watchdog => 6 | .host => 7

/-- The partitions that a commit is loading. -/
def State.loadingParts (s : State) : List Nat := (List.range 8).filter (fun p => (s.part p).state == .loading)

/-- A rack goes Off: what its island holds is lost, its store and the signals on their way to it among it (17_clocks_and_islands.md
R336); it shows no recipe any more (R78). The result of self-test lies in island 78 (18_power_ladder.md R342), and the stream's
EPOCH keeps its value (15_recipes.md R304). -/
def State.rackOff (s : State) (n : Nat) : State :=
  let lo := rackBase + n * rackStride
  let t := s.setRack n { failed := (s.rack n).failed, stream := { epoch := (s.rack n).stream.epoch } }
  let t := { t with signals := t.signals.filter (fun x => x.1 != n)
                    mem := t.mem.filter (fun e => !(decide (lo ≤ e.1 ∧ e.1 < lo + rackSize)))
                    secded := t.secded.filter (fun x => !(decide (lo ≤ 8 * x ∧ 8 * x < lo + rackSize))) }
  t.modIsland n (fun i => { i with pow := .off, stopped := false, halved := false, coast := false })

/-- Ledger indexes of a layer range (07_precision_steering.md R135). -/
def inLayers (r : PartRec) (k : Nat) : Bool := decide (r.lfirst ≤ k / 8 ∧ k / 8 ≤ r.llast)

/-- The Ledger entries of a partition's layers take their reset value: they lie in its range no longer (07_precision_steering.md R136). -/
def State.resetLedger (s : State) (p : Nat) : State :=
  match s.slice p with
  | some c => { s with gov := { s.gov with ledger := s.gov.ledger.filter (fun e => !inLayers c.part e.1) } }
  | none => s

/-- A partition and its racks go to Empty: the racks leave it and their islands go off (R84, 15_recipes.md R305). -/
def State.emptyPart (s : State) (p : Nat) : State :=
  let t := overAll (s.racksOf p) (fun n u => u.rackOff n) (s.resetLedger p)
  let t := t.modPart p (fun x => { x with state := .empty, racks := 0, cause := 0, faultedMark := false, halting := false })
  { t with rcp := { t.rcp with slices := terase t.rcp.slices p } }

/-- A commit ends because a partition that it loads faults (15_recipes.md R309): PART_FAULTED, and any other partition
that it was loading goes to Empty; REC_FAIL records the rejection (R303). -/
def State.abortCommit (s : State) (p : Nat) : State :=
  match s.rcp.job with
  | none => s
  | some j =>
    let t := { s with rcp := { s.rcp with job := none, phase := 0 } }
    let t := overAll (t.loadingParts.filter (fun x => x != p)) (fun x u => u.emptyPart x) t
    let d := BitVec.ofNat 32 (0x0003 ||| p <<< 16)
    (t.recFail 0x7F 0 d).endHeld j.q j.htag (rejected d)

/-- A full commit runs: it is to load every partition. -/
def State.fullCommit (s : State) : Bool := s.rcp.job.any (fun j => !j.slice)

/-- A partition goes to Faulted (R89): the first cause is kept and a later one is only logged (R92). Issue is held and
slots are frozen, its regions are marked, epochs rise with their fences, its rack clocks stop, and a recovery in progress
stops (13_recovery.md R274). -/
def State.faultPart (s : State) (p : Nat) (cause : FaultCause) (island : Int) : State :=
  let x := s.part p
  if x.state = .empty then s
  else if x.state = .faulted then
    s.raise (srcPart p) .partFaultLater [p, (causeCode cause).toNat, island]
  else
    let t := if x.state = .loading || s.fullCommit then s.abortCommit p else s
    let t := overAll (t.racksOf p) (fun n u => u.modSlots n Slot.freeze) t
    let t := t.modPart p (fun y =>
      { y with state := .faulted, cause := causeCode cause, faultedMark := true, halting := false })
    let t := t.modRecov p (fun y =>
      if 1 ≤ y.state.toNat ∧ y.state.toNat ≤ 5 then { y with state := 6, migration := none } else y)
    let t := t.raiseEpoch p
    let t := overAll (t.racksOf p) (fun n u => u.modIsland n (fun i => { i with stopped := true })) t
    (t.raise (srcPart p) .partFault [p, (causeCode cause).toNat, island]).applyDue

/-! ## Shared resources (R91) -/

/-- Two address ranges meet. -/
def meets (a n b m : Nat) : Bool := decide (a < b + m ∧ b < a + n)

/-- A region lies on a stack (10_hbm_memory.md R205). -/
def State.onStack (s : State) (r : RegionRec) (k : Nat) : Bool :=
  let d := k / 6
  let sp := if d = 0 then s.dev.spE.toNat else s.dev.spW.toNat
  let base := d * hbmDie
  let spread := 6 * sp * gib
  let local_ := (48 - sp) * gib
  (sp != 0 && meets r.base r.size base spread) || (sp != 48 && meets r.base r.size (base + spread + (k % 6) * local_) local_)

/-- A region lies behind a Cellar port, or behind one downstream port of it, in a range that is not marked RING (11_cellar.md R228). -/
def State.behindPort (s : State) (r : RegionRec) (n : Nat) (dsp : Option Nat) : Bool :=
  s.cxl.decoders.any (fun d => !d.ring && s.decTargets d n dsp && meets r.base r.size (decFirst d) (decBytes d))

/-- A partition's own regions. -/
def State.ownRegions (s : State) (p : Nat) : List RegionRec :=
  (s.regions.filter (fun r => (r.owner.map (fun o => o.val)) == some p))

/-- A rank can be reached from here: its coordinate is here, or one of the two ports of its next dimension, or port T,
is up (R240, R241). -/
def State.reaches (s : State) (r : Nat) : Bool :=
  let e := s.rtEntry r
  if e.state != .active then true
  else
    match s.hop none e.coord 0 with
    | .deliver => true
    | .out n none => s.portUp n
    | .out n (some _) => s.portUp n || s.portUp (peerPortOf n)

/-- A partition has a stream whose traffic has no route left. Snapshot traffic to the twin partner does not count: it goes on to
the Cellar ring alone (R91). -/
def State.cutOff (s : State) (p : Nat) : Bool :=
  (s.routePeers p).any (fun r => r != s.lnk.rank.toNat && !s.reaches r)

/-- The loaded partitions that depend on a failed island (R91); none on islands 75, 78 and 79. -/
def State.dependents (s : State) (n : Nat) : List Nat :=
  (List.range 8).filter (fun p =>
    (s.part p).state != .empty &&
    (if n < 48 then (s.part p).racks.toNat.testBit n
     else if n < 60 then (s.ownRegions p).any (fun r => s.onStack r (n - 48))
     else if n < 62 then
       (s.racksOf p).any (fun k => k / 24 == n - 60) ||
         (s.ownRegions p).any (fun r =>
           meets r.base r.size (pantryBase + (n - 60) * pantrySize) pantrySize ||
             (List.range 6).any (fun j => s.onStack r (6 * (n - 60) + j)))
     else if n < 71 then s.cutOff p
     else if n < 75 then (s.ownRegions p).any (fun r => s.behindPort r (n - 71) none)
     else if n = 76 || n = 77 then
       ((s.slice p).map (fun c => c.owners.any (fun o => o.eng == n - 76))).getD false
     else false))

/-- Every partition that depends on an island goes to Faulted: with cause ISLAND for a rack island, else SHARED naming
the island. -/
def State.faultShared (s : State) (n : Nat) : State :=
  overAll (s.dependents n) (fun p u => u.faultPart p (if n < 48 then .island else .shared) n) s

/-- A port that goes down faults the partitions with a stream whose traffic has no route left; port T those whose
traffic must cross to the other system (R91). -/
def State.faultRoutes (s : State) (n : Nat) : State :=
  overAll ((s.dependents (62 + n)).filter (fun p => (s.part p).state != .faulted)) (fun p u => u.faultPart p .shared (62 + n)) s

/-- The last clause of R91's torus-port row, for the packets discarded as UNROUTABLE (12_links_and_ordering.md R241). -/
def State.settleRoutes (s : State) : State :=
  let t := overAll s.lnk.lostAt (fun n u => u.faultRoutes n) s
  { t with lnk := { t.lnk with lostAt := [] } }

/-- What a step without a command does: R91 judges the packets that the rows before it discarded (entry 178). -/
def State.idle (s : State) : State := if s.lnk.lostAt.isEmpty then s else s.settleRoutes

/-! ## The device fence (R260) -/

/-- Ports that are up. -/
def State.upPorts (s : State) : List Nat := (List.range 9).filter (fun n => s.portUp n)

/-- The device fences: every stream goes to Fenced with its epoch raised, the Snapshot Engine stops taking snapshots,
FENCED goes out on every up port, and DEVICE_FENCED is queued, but for a failure of island 78, whose record Queros sends itself
(R261). `why` numbers the reason: 0 bridge, 1 island 78, 2 island 79, 3 host. -/
def State.fenceDevice (s : State) (why : Nat) : State :=
  if s.dev.fenced then s
  else
    let t := { s with dev := { s.dev with fenced := true } }
    let t := overAll (List.range 8) (fun p u =>
      if (u.part p).state = .empty then u
      else
        (((u.raiseEpoch p).setStreams p .fenced).modSnap p (fun x => { x with state := 3 })).modRecov p
          (fun x => { x with state := 7 })) t
    let t := overAll t.upPorts (fun n u => u.sendPort n (.fenced u.ownCoord)) t
    if why = 1 then t else t.raise srcUnit .deviceFenced [why]

/-- The DEVICE_FENCED record that the Queros island sends after a failure of island 78, outside the event buffer, once the link is
up (R261). -/
def State.sendRecord (s : State) : State :=
  if s.dev.recordDue && s.qrs.state == 2 then
    let q := State.nextSeq { s with dev := { s.dev with recordDue := false } } srcUnit
    q.2.emit (.event { src := srcUnit, code := .deviceFenced, seq := q.1, time := s.hkp.count % 2 ^ 40, payload := [1] })
  else s

/-- The streams of a partition leave Rewinding at their launch (R265). -/
def State.releaseStreams (s : State) (p : Nat) : State :=
  overAll (s.racksOf p) (fun n u => u.modStream n (fun t => if t.state = .rewinding then { t with state := .active } else t)) s

/-- Marks the open phases of every partition (08_training_step.md R172, 22_observation.md R399). -/
def State.markPhases (s : State) (f : PhaseAcc → PhaseAcc) : State :=
  { s with parts := s.parts.map (fun e => (e.1, { e.2 with phases := e.2.phases.map (fun x => (x.1, f x.2)) })) }

/-- The phase account of one step of a partition (08_training_step.md R172). -/
def State.modPhase (s : State) (p : Nat) (step : Step) (f : PhaseAcc → PhaseAcc) : State :=
  s.modPart p (fun x => { x with phases := tset x.phases {} step.toNat (f (tget x.phases {} step.toNat)) })

/-- A step that could open but for its input starts to wait for it (R161, R172 INPUT_WAIT). -/
def State.noteInputWait (s : State) (p : Nat) (step : Step) : State :=
  if (s.part p).inready.toNat < step.toNat then s.modPhase p step (fun x => { x with inputSince := some s.hkp.count }) else s

/-- Issue is held in every rack: brownout response, fence, or thermal stop (18_power_ladder.md R351, R356). -/
def State.deviceHold (s : State) : Bool := s.hkp.boActive || s.dev.fenced

end Sys2Proof.Machine
end

