-- ==== Sys2Proof/Machine/Hbm.lean ====
section
/-! DEFINITION. The HBM rows (10_hbm_memory.md): a sector read and what its code says of it, writes and their
read-modify-write, patrol scrub, a failed stack, and the retirement list. -/

namespace Sys2Proof.Machine

/-- Every write in a stack's buffer is written (R217, 20_resets_and_retention.md R374). -/
def State.drainStack (s : State) (k : Nat) : State :=
  overAll ((s.stack k).merge.map (fun e => e.sector)) (fun sec u => u.rmwSector k sec .none) s

/-- Bytes of a sector. -/
def State.sectorData (s : State) (k sector : Nat) : List Byte :=
  (List.range 32).map (fun i => tget s.mem emptyByte (32 * sectorOf k sector + i))

/-- What the controller returns to a requester: the sector's data, or a bus error (R13, R211). -/
def State.returns (s : State) (k sector : Nat) (who : Requester) (rid err : Nat) : State :=
  s.emit (.sector k sector who rid err (if err = 0 then s.sectorData k sector else []))

/-- A bus error that the controller gives a requester before it reaches memory: the island does not answer, the stack has failed, the page
or bank is retired (R13, R212, R214); the last two are logged. -/
def State.refuseSector (s : State) (k sector : Nat) (who : Requester) (rid : Nat) : Option State :=
  let c := s.stack k
  if !s.isOn (48 + k) then some (s.returns k sector who rid eIslandOff)
  else if c.failed then some ((s.logError k .ue (32 * sector) 63 who rid).returns k sector who rid eUE)
  else if c.isRetired (32 * sector) then some ((s.logError k .retired (32 * sector) 63 who rid).returns k sector who rid eUnmapped)
  else none

/-- Two or more stored bytes in error leave the sector uncorrectable for every reader (R206). -/
def storedDamage : ErrPat → Bool
  | .many _ => true
  | _ => false

/-- HBM_READ: a requester reads a sector (R206, R211, R213). -/
def State.hbmRead (s : State) (k sector : Nat) (who : Requester) (rid : Nat) (pat : ErrPat) : State :=
  if sectorsPerStack ≤ sector then s
  else
    match s.refuseSector k sector who rid with
    | some t => t
    | none =>
      if (s.stack k).mergeMask sector = BitVec.allOnes 32 then s.returns k sector who rid 0
      else
        match decodeSector (s.isPoison (sectorOf k sector)) pat with
        | .clean => s.returns k sector who rid 0
        | .corrected p => (s.logError k .ce (32 * sector) p who rid).returns k sector who rid 0
        | .bad a p =>
          let t := if storedDamage pat then s.setPoison (sectorOf k sector) true else s
          (t.logError k (badKind a) (32 * sector) p who rid).returns k sector who rid eUE

def execHbmRead (k : Stack) (sector : Nat) (who : Requester) (rid : Nat) (pat : ErrPat) (s : State) :
    Host.Outcome State Fault Refusal :=
  .next (s.hbmRead k.val sector who rid pat)

/-- Stores the enabled bytes of a sector, from a byte key on. -/
def storeEnabled (m : List Host.Cell) (key : Nat) : List (Option Byte) → List Host.Cell
  | [] => m
  | none :: t => storeEnabled m (key + 1) t
  | some b :: t => storeEnabled (tset m emptyByte key b) (key + 1) t

/-- The byte enables of a write as a mask. -/
def enableMask (b : List (Option Byte)) : BitVec 32 :=
  BitVec.ofNat 32 (((List.range 32).filter (fun i => ((b[i]?).getD none).isSome)).foldl (fun m i => m ||| 1 <<< i) 0)

/-- HBM_WRITE: a write is accepted when it enters the buffer; a sector that the writes cover is written with no read,
and is sound again (R207, R209). -/
def State.hbmWrite (s : State) (k sector : Nat) (who : Requester) (rid : Nat) (b : List (Option Byte)) : State :=
  if sectorsPerStack ≤ sector ∨ b.length ≠ 32 then s
  else
    match s.refuseSector k sector who rid with
    | some t => t
    | none => ({ s with mem := storeEnabled s.mem (32 * sectorOf k sector) b }).enterMerge k sector (enableMask b) who rid

def execHbmWrite (k : Stack) (sector : Nat) (who : Requester) (rid : Nat) (bytes : List (Option Byte)) (s : State) :
    Host.Outcome State Fault Refusal :=
  .next (s.hbmWrite k.val sector who rid bytes)

/-- READ_MODIFY_WRITE: the partial write's read returns (R207, R209). -/
def execReadModifyWrite (k : Stack) (sector : Nat) (pat : ErrPat) (s : State) : Host.Outcome State Fault Refusal :=
  .next (s.rmwSector k.val sector pat)

/-- The next sector that patrol scrub reads. -/
def nextScrub (n : BitVec 31) : BitVec 31 := if n.toNat + 1 < sectorsPerStack then n + 1 else 0

/-- PATROL_SCRUB: the sector at the scrub position is read (R210). Retired pages are skipped; a correctable sector is
written back corrected, which changes no data here; an uncorrectable one is left as it is, and its next reader gets the error. -/
def State.scrub (s : State) (k : Nat) (pat : ErrPat) : State :=
  let c := s.stack k
  let n := c.scrubPos.toNat
  if !s.isOn (48 + k) || decide (s.hkp.rung ≠ 0) || c.period == 0 || c.failed then s
  else
    let t := s.modStack k (fun x => { x with scrubPos := nextScrub x.scrubPos })
    if c.isRetired (32 * n) then t
    else
      match decodeSector (s.isPoison (sectorOf k n)) pat with
      | .clean => t
      | .corrected p => t.logError k .scrubCe (32 * n) p .scrub 0
      | .bad _ p => (t.setPoison (sectorOf k n) true).logError k .scrubUe (32 * n) p .scrub 0

def execPatrolScrub (k : Stack) (pat : ErrPat) (s : State) : Host.Outcome State Fault Refusal :=
  .next (s.scrub k.val pat)

/-- STACK_FAIL: the stack is declared failed (R212); R91 applies. -/
def State.failStack (s : State) (k : Nat) : State :=
  if (s.stack k).failed then s
  else
    let t := s.modStack k (fun c => { c with failed := true })
    ((t.logError k .stackFail 0 63 .hubControl 0).raise (48 + k) .memStackFail [k]).faultShared (48 + k)

def execStackFail (k : Stack) (s : State) : Host.Outcome State Fault Refusal := .next (s.failStack k.val)

/-! ## The retirement list (R214, R215, R218) -/

/-- Entries that a list holds (R214). -/
def retireMax : Nat := 2048

/-- The entry that a write of MEM_RETIRE_n names. -/
def retireEntry (v : Nat) : Retired :=
  { bank := v.testBit 27, pc := bv 5 v 26 22, bankNo := bv 6 v 21 16, row := bv 15 v 14 0 }

/-- The stack of a MEM_RETIRE_n register. -/
def retireStack : Reg → Option Nat
  | .memRetire n => some n
  | _ => none

/-- ADD_ENTRY: a row above 24,575 is a reserved value (R218, 23_register_map.md R408); a full list drops the entry and
sets FULL. -/
def addEntryBody : RowBody := writeBody (fun s _ r v =>
  match retireStack r with
  | none => (s, ok)
  | some n =>
    if !(retireEntry v).bank && decide (24576 ≤ (retireEntry v).row.toNat) then (s, rejected dBadValue)
    else (s.modStack n (fun c =>
      if c.retire.length < retireMax then { c with retire := c.retire ++ [retireEntry v] } else { c with full := true }), ok))

def execAddEntry (c : Cmd) (s : State) : Host.Outcome State Fault Refusal :=
  .next (s.host c (isWrite .addEntry) addEntryBody)

/-- CLEAR_LIST. -/
def clearListBody : RowBody := writeBody (fun s _ r _ =>
  match retireStack r with
  | none => (s, ok)
  | some n => (s.modStack n (fun c => { c with retire := [], full := false }), ok))

def execClearList (c : Cmd) (s : State) : Host.Outcome State Fault Refusal :=
  .next (s.host c (isWrite .clearList) clearListBody)

/-- SET_ARMED (R215). -/
def setArmedBody : RowBody := writeBody (fun s _ r _ =>
  match retireStack r with
  | none => (s, ok)
  | some n => (s.modStack n (fun c => { c with armed := true }), ok))

def execSetArmed (c : Cmd) (s : State) : Host.Outcome State Fault Refusal :=
  .next (s.host c (isWrite .setArmed) setArmedBody)

end Sys2Proof.Machine
end

