-- ==== Sys2Proof/Machine/Reset.lean ====
section
/-! DEFINITION. What resets and rungs keep and lose (20_resets_and_retention.md R374 to R379, 18_power_ladder.md R343 to
R347), and the start of islands at a launch. -/

namespace Sys2Proof.Machine

/-! ## Arming a launch (17_clocks_and_islands.md R337) -/

/-- The least lead of a launch, in counts: the firmware arms at it (entry 18). -/
def launchLead : BitVec 48 := 200

/-- Arms a launch; none while the timer does not run or island 79 has failed (13_recovery.md R261). -/
def State.arm (s : State) (lead : BitVec 48) (islands : List Nat) (a : LaunchAction) : State :=
  if s.hkp.timersOn && !s.dev.hub79 then
    { s with hkp := { s.hkp with armed := s.hkp.armed ++ [{ target := s.hkp.ltime + lead, islands := islands, action := a }] } }
  else s

/-! ## What islands 0 to 78 lose -/

/-- An island as a device reset leaves it until it starts: Off, at its ageing plan clamped to nominal (19_ageing.md
R366), with the limits of no recipe. The Housekeeper's own fields stay. -/
def IslandSt.restart (n : Nat) (i : IslandSt) : IslandSt :=
  { i with pow := .off, stopped := false, halved := false, coast := false, onStarter := false, locking := none, auto := false
           hi := Config.nominalCode n, lo := Config.nominalCode n
           cur := if i.aplan.toNat ≤ (Config.nominalCode n).toNat then i.aplan else Config.nominalCode n
           trim := i.atrim }

/-- The islands that a loss of islands 0 to 78 reaches. -/
def State.islandsOff (s : State) (f : Nat → IslandSt → IslandSt) : State :=
  overAll (List.range 79) (fun n u => u.modIsland n (f n)) s

/-- The queues after their contents and counters are lost: FLOOR is H_q (16_trust.md R321). -/
def Persist.freshQueues (p : Persist) : Tab Queue :=
  p.hq.foldl (fun t e => tset t {} e.1 { floor := e.2 }) []

/-- Everything that islands 0 to 78 hold returns to its reset value, but for command keys, debug level and the booted
slot (R379). Expander memory is kept; HBM contents only across a warm reset. -/
def State.hubLost (s : State) (keepHbm : Bool) : State :=
  { s with
    mem := s.mem.filter (fun e => decide (cellarBase ≤ e.1) || (keepHbm && isHbmKey e.1))
    poison := if keepHbm then s.poison else []
    secded := s.secded.filter (fun x => decide (cellarBase ≤ 8 * x))
    cru := { keys := s.cru.keys, debug := s.cru.debug, fwActive := s.cru.fwActive }
    qrs := { queues := s.per.freshQueues }
    rcp := {}, parts := [], racks := [], gov := {}, knd := {}, hbm := [], cxl := {}, lnk := {}, snp := [], rcv := []
    rreg := {}, dev := {}, trc := {}, inbox := [], signals := [] }

/-- What entry to S3 loses: islands 0 to 77 with the partitions and slices; island 78 keeps its device-wide settings and
the Ledger (R343, R379). -/
def State.dormantLost (s : State) : State :=
  { s with
    mem := s.mem.filter (fun e => decide (cellarBase ≤ e.1))
    poison := []
    secded := s.secded.filter (fun x => decide (cellarBase ≤ 8 * x))
    qrs := { evBuf := s.qrs.evBuf, lostPend := s.qrs.lostPend
             queues := s.qrs.queues.foldl (fun t e =>
               tset t {} e.1 { e.2 with fifo := [], busy := false }) [] }
    rcp := { s.rcp with slices := [], pdigest := [], job := none }
    parts := [], racks := []
    gov := { s.gov with uwr := [], cmds := [], votes := [], closed := [] }
    knd := { bktSel := s.knd.bktSel, errValid := s.knd.errValid, errCode := s.knd.errCode, errStep := s.knd.errStep
             errBid := s.knd.errBid }
    hbm := []
    cxl := { s.cxl with ports := [] }
    lnk := { s.lnk with ports := [], latest := [], fabJob := none }
    snp := [], rcv := [], rreg := { s.rreg with twin := [], fencedTo := [] }
    dev := { s.dev with bankPtr := [] }
    inbox := [], signals := [] }

/-! ## Device resets (R371 to R376) -/

/-- An island after its ageing record is all that is left of it. -/
def IslandSt.fresh (n : Nat) (i : IslandSt) : IslandSt :=
  { IslandSt.dflt n with aplan := i.aplan, atrim := i.atrim, history := i.history, trim := i.atrim
                         cur := (i.restart n).cur }

/-- The reset that ends with a power-on or a brownout reset: only the persistent store and expander memory keep their
contents; BOOTS counts it, and TRIPPED shows a thermal trip since the one before (R372, 18_power_ladder.md R358). -/
def State.powerReset (s : State) (k : ResetKind) (code : BitVec 4) : State :=
  { State.reset with
    pending := s.pending, sent := s.sent, freeCtr := s.freeCtr
    mem := s.mem.filter (fun e => decide (cellarBase ≤ e.1))
    secded := s.secded.filter (fun x => decide (cellarBase ≤ 8 * x))
    isl := s.isl.foldl (fun t e => tset t (IslandSt.dflt e.1) e.1 (e.2.fresh e.1)) []
    per := { s.per with boots := satAdd s.per.boots 1, tripped := s.per.tripCause != 0, tripCause := 0 }
    qrs := { queues := s.per.freshQueues }
    hkp := { lastReset := code, resetting := some k
             thermTripLow := if k = .brownout then s.hkp.thermTripLow else false } }

/-- A warm reset: accepted writes are written and the stacks enter self-refresh; islands 0 to 78 are reset; rack stores
and Pantries read zero, HBM keeps its contents, and island 79 its settings (R374 to R376, R379). -/
def State.warmReset (s : State) (k : ResetKind) (code : BitVec 4) : State :=
  let t := overAll (List.range 12) (fun n u => u.drainStack n) s
  let t := (t.hubLost true).islandsOff IslandSt.restart
  let t := overAll (List.range 12) (fun n u => u.modStack n (fun c => { c with selfRefresh := true })) t
  { t with hkp := { t.hkp with
      armed := [], rung := 0, trans := false, ready := false, wakeHeld := false, exiting := none, waitEnter := none
      waitExit := false, warms := satAdd t.hkp.warms 1, lastReset := code, resetting := some k, boot := .held
      selfTest := false, testing := [], hb78 := none, hb79 := none } }

/-- A power-on or brownout reset that has not been released outranks a warm reset (R382). -/
def State.coldHeld (s : State) : Bool :=
  s.hkp.boot == .held && (s.hkp.resetting == some .powerOn || s.hkp.resetting == some .brownout)

/-! ## Starting islands -/

/-- Islands of a list come On, at the halved clock while a brownout response is in force (R382), and coasting while the crystal is lost
(17_clocks_and_islands.md R332). -/
def State.startIslands (s : State) (l : List Nat) : State :=
  overAll l (fun n u => u.modIsland n (fun i =>
    let c := i.coast || s.hkp.clkLoss
    { i with pow := .on, coast := c, halved := s.hkp.boActive && !c })) s

/-- CXL_PERST_N of a port is released when its island first starts (24_package_and_electrical.md R420). -/
def State.releasePerst (s : State) (l : List Nat) : State :=
  { s with hkp := { s.hkp with
      perstReleased := dedup (s.hkp.perstReleased ++ (l.filter (fun n => 71 ≤ n && n < 75)).map (fun n => n - 71)) } }

/-- A port of a dimension that the recipe in force gives size 1: it is left untrained (12_links_and_ordering.md R232). -/
def State.portUnused (s : State) (n : Nat) : Bool := n != portT && s.rcp.links.isSome && decide (s.dim (n / 2) ≤ 1)

/-- Links and CXL ports start to train (12_links_and_ordering.md R234, 11_cellar.md R224); after a rung exit LINK_RESUME
follows the exchange of LINK_ID (18_power_ladder.md R349). -/
def State.trainAll (s : State) (resume : Bool) : State :=
  let t := overAll (List.range 9) (fun n u =>
    u.modPort n (fun p => { p with state := if u.portUnused n then .unused else .training, inPlace := resume })) s
  overAll (List.range 4) (fun n u => u.modCxlPort n (fun c => { c with state := 1 })) t

/-- Racks in no partition go Off and lose what they hold (04_trays_racks_partitions.md R84, 18_power_ladder.md R342). -/
def State.idleRacksOff (s : State) : State :=
  overAll (List.range 48) (fun n u => if (u.partOf n).isNone then u.rackOff n else u) s

/-- FAILED of every rack is reloaded from island 79's copy (R375). -/
def State.reloadFailed (s : State) : State :=
  overAll s.hkp.failedCopy (fun e u => u.modRack e.1 (fun r => { r with failed := e.2 })) s

/-- The stacks leave self-refresh. -/
def State.leaveSelfRefresh (s : State) : State :=
  overAll (List.range 12) (fun n u => u.modStack n (fun c => { c with selfRefresh := false })) s

/-- Islands 0 to 77, and those that the recovery ROM needs: the East Pantry and Queros (16_trust.md R315). -/
def startMask (recovery : Bool) : List Nat := if recovery then [60, 75] else List.range 78

/-- The start-up launch (R338, R374): the islands start; after a power-on or brownout reset the full sweep runs and
self-test starts; after a warm reset FAILED is reloaded and HBM leaves self-refresh. -/
def State.startup (s : State) (l : List Nat) (sweep : List Sweep) : State :=
  let t := (s.startIslands l).releasePerst l
  if s.hkp.boot = .recovery then t
  else
    let t := t.trainAll false
    if s.hkp.resetting = some .powerOn ∨ s.hkp.resetting = some .brownout then
      let t := t.fullSweep sweep
      ({ t with hkp := { t.hkp with selfTest := true } }).arm launchLead (List.range 48) .selfTest
    else t.reloadFailed.leaveSelfRefresh

/-! ## Rungs (18_power_ladder.md R343 to R349) -/

/-- A recovery command is in progress (13_recovery.md R275 STATE). -/
def State.recovering (s : State) : Bool :=
  (List.range 8).any (fun p => 1 ≤ (s.recov p).state.toNat && (s.recov p).state.toNat ≤ 5)

/-- Entry to a rung starts: TRANS sets; for S2 to S4 the trackers drain and LINK_STANDBY goes out (R345). -/
def State.startEntry (s : State) (r : Nat) : State :=
  let t := { s with hkp := { s.hkp with trans := true, entering := r } }
  if r ≤ 1 then t
  else
    let t := overAll (List.range 12) (fun n u => u.drainStack n) t
    overAll t.upPorts (fun n u => u.sendPort n .linkStandby) t

/-- Sets the power of the islands of a list that are not Off. -/
def State.retain (s : State) (l : List Nat) : State :=
  overAll l (fun n u => u.modIsland n (fun i => if i.pow = .off then i else { i with pow := .retention })) s

/-- Islands go Off. -/
def State.switchOff (s : State) (l : List Nat) : State :=
  overAll l (fun n u => u.modIsland n (fun i => { i with pow := .off, stopped := false, halved := false, coast := false })) s

/-- The islands' states and the losses of a rung (R343, R379); the device fence outlasts every rung. -/
def State.enterRung (s : State) (r : Nat) : State :=
  match r with
  | 1 => s.retain (List.range 48)
  | 2 =>
    let t := overAll (List.range 12) (fun n u => u.modStack n (fun c => { c with selfRefresh := true })) s
    let t := overAll (List.range 9) (fun n u => u.modPort n (fun p =>
      if p.state = .up then { p with state := .standby, kept := true } else p)) t
    ({ t with qrs := { t.qrs with state := if t.qrs.state = 2 then 3 else t.qrs.state } }).retain (List.range 75 ++ [76, 77])
  | 3 => ((s.dormantLost).switchOff (List.range 78)).retain [78]
  | _ =>
    let t := (s.hubLost false).islandsOff IslandSt.restart
    { t with dev := { t.dev with fenced := s.dev.fenced, hub78 := s.dev.hub78, hub79 := s.dev.hub79 } }

/-- Loops that coast alone are re-locked at a rung exit, at the halved clock while a brownout response is in force
(17_clocks_and_islands.md R333). -/
def State.relockAtExit (s : State) : State :=
  if s.hkp.clkLoss then s
  else overAll (List.range 79) (fun n u => u.modIsland n (fun i =>
    if i.coast then { i with coast := false, halved := s.hkp.boActive && i.pow == .on } else i)) s

/-- A wake starts the exit (R346, R347). While a brownout response is in force it waits. -/
def State.startExit (s : State) : State :=
  if s.hkp.boActive then { s with hkp := { s.hkp with waitExit := true } }
  else
    let t := { s with hkp := { s.hkp with waitExit := false, wakeHeld := false } }
    match s.hkp.rung with
    | 1 =>
      let l := (List.range 48).filter (fun n => decide ((s.island n).pow = .retention))
      let t := (t.startIslands l).relockAtExit
      { t with hkp := { t.hkp with rung := 0 } }
    | 2 =>
      ({ t with hkp := { t.hkp with trans := true, ready := false, exiting := some 2 } }).arm launchLead (List.range 78)
        (.rungExit 2)
    | 3 =>
      let t := t.startIslands [78]
      ({ t with hkp := { t.hkp with trans := true, ready := false, exiting := some 3 } }).arm launchLead (List.range 78)
        (.rungExit 3)
    | 4 => { t with hkp := { t.hkp with trans := true, ready := false, exiting := some 4, boot := .held } }
    | _ => t

/-- The launch of an exit (R347): S2's islands resume together and the rung is S0; after S3 or S4 islands 0 to 77 start,
the full sweep runs and self-test starts. -/
def State.exitLaunch (s : State) (r : Nat) (sweep : List Sweep) : State :=
  if r = 2 then
    let l := (List.range 78).filter (fun n => decide ((s.island n).pow = .retention))
    let t := (s.startIslands l).leaveSelfRefresh.relockAtExit
    let t := { t with qrs := if t.qrs.state = 3 then t.qrs.wake else t.qrs
                      hkp := { t.hkp with rung := 0, trans := false, exiting := none } }
    overAll ((List.range 9).filter (fun n => (t.port n).kept)) (fun n u =>
      (u.modPort n (fun p => { p with state := .up, kept := false })).sendPort n .linkResume) t
  else
    let t := ((s.startIslands (List.range 78)).relockAtExit).trainAll true
    let t := t.fullSweep sweep
    ({ t with hkp := { t.hkp with selfTest := true } }).arm launchLead (List.range 48) .selfTest

/-- A CXL port holds no tracker tag (11_cellar.md R229). -/
def CxlSt.drained (c : CxlSt) : Bool := c.reqs.isEmpty && c.wait.isEmpty

/-- The rung's own end: RUNG is written and TRANS clears (R345); a wake that came during entry follows at once
(R357). Entry to S2 to S4 does not end before the CXL ports have drained their tags (11_cellar.md R229), nor any entry before the switch
of a RELOCK (17_clocks_and_islands.md R340). -/
def State.entryDone (s : State) : State :=
  if s.hkp.trans && s.hkp.exiting.isNone && !s.hkp.armed.any (fun a => a.action == .relock) && (decide (s.hkp.entering ≤ 1) || s.cxl.ports.all (fun e => e.2.drained)) then
    let r := s.hkp.entering
    let t := s.enterRung r
    let t := { t with hkp := { t.hkp with rung := r, trans := false } }
    if t.hkp.wakeHeld then t.startExit else t
  else s

def State.setPwrStatus (s : State) (c : BitVec 4) : State := { s with hkp := { s.hkp with pwrStatus := c } }

/-- An entry that waited for a commit or a RELOCK starts (R344); a partition that runs by then refuses it (entry 179). -/
def State.entryWaiting (s : State) : State :=
  match s.hkp.waitEnter with
  | none => s
  | some r =>
    if s.rcp.job.isSome || s.hkp.armed.any (fun a => a.action == .relock) then s
    else
      let t := { s with hkp := { s.hkp with waitEnter := none } }
      if t.running then t.setPwrStatus 1 else t.startEntry r

end Sys2Proof.Machine
end

