-- ==== Sys2Proof/Machine/Clock.lean ====
section
/-! DEFINITION. Clocks (17_clocks_and_islands.md): the tick of island 79, the crystal, coasting, the launch timer, plan
switches, the clock registers that act; and the hub's monitors (13_recovery.md R261, 01_architecture.md R10). -/

namespace Sys2Proof.Machine

/-- Sixteenths of the time for which issue is held by a brownout response or the thermal duty (18_power_ladder.md R351, R355). -/
def State.heldShare (s : State) : Nat := if s.hkp.boActive then 16 else 16 - min 16 s.duty

/-- Periods of 10 ns pass: the launch timer and the free-running count advance (R337, 08_training_step.md R172), and every open
step accounts for the time for which its issue is held (22_observation.md R399 HELD, in sixteenths). -/
def State.elapse (s : State) (k : Nat) : State :=
  let t := { s with hkp := { s.hkp with ltime := s.hkp.ltime + BitVec.ofNat 48 k, count := s.hkp.count + k } }
  if s.heldShare = 0 then t
  else
    overAll (List.range 8) (fun p u =>
      overAll (u.part p).openSteps (fun n v => v.modPhase p n (fun x => { x with held := x.held + k * s.heldShare })) u) t

/-- Counts until an armed target. -/
def Armed.ahead (a : Armed) (now : BitVec 48) : Int := (a.target - now).toInt

/-- The armed launch that comes first. -/
def firstArmed (now : BitVec 48) (l : List Armed) : Option Armed :=
  l.foldl (fun b a =>
    match b with
    | none => some a
    | some x => if a.ahead now < x.ahead now then some a else some x) none

/-- Of some counts, those that pass before the first armed target: its launch comes when the count reaches it (R337). -/
def State.untilLaunch (s : State) (k : Nat) : Nat :=
  match firstArmed s.hkp.ltime s.hkp.armed with
  | none => k
  | some a => min k (a.ahead s.hkp.ltime).toNat

/-- One period of island 79's clock: both counts advance by 1 on the crystal and by 4 on the starter (R332), to the target of an
armed launch at most; and what a step without a command does otherwise. -/
def State.tick (s : State) : State :=
  (if s.hkp.timersOn then s.elapse (s.untilLaunch (if s.hkp.starter then 4 else 1)) else s).idle

/-! ## The crystal (R328, R332) -/

/-- Successive windows that make the crystal stable. -/
def stableWindows : Nat := 8

/-- XTAL_CHECK_WINDOW: a window of 2,500 starter cycles. -/
def State.xtalWindow (s : State) (count : Nat) : State :=
  if s.hkp.xtalOk then s
  else
    let g := if 9600 ≤ count ∧ count ≤ 10400 then s.hkp.goodWin + 1 else 0
    if stableWindows ≤ g then { s with hkp := { s.hkp with goodWin := 0, xtalOk := true } }
    else { s with hkp := { s.hkp with goodWin := g } }

def execXtalCheckWindow (count : Nat) (s : State) : Host.Outcome State Fault Refusal := .next (s.xtalWindow count)

/-- Island 78's generator, which passed the starter through, locks at its plan frequency; PLAN_SWITCH switches to it (R328). -/
def State.lockHub (s : State) : State :=
  if (s.island 78).onStarter then s.modIsland 78 (fun i => { i with locking := some (i.cur, i.trim) }) else s

/-- CRYSTAL_HANDOVER: island 79 takes the stable crystal and both counts start from 0. A start-up whose firmware already
runs is armed now. -/
def State.handover (s : State) : State :=
  if s.hkp.xtalOk && s.hkp.starter && !s.hkp.timersOn && !s.dev.hub79 then
    let t := State.lockHub { s with hkp := { s.hkp with starter := false, timersOn := true, ltime := 0, count := 0 } }
    if t.hkp.boot = .firmware ∨ t.hkp.boot = .recovery then
      t.arm launchLead (startMask (t.hkp.boot == .recovery)) .startup
    else t
  else s

def execCrystalHandover (s : State) : Host.Outcome State Fault Refusal := .next s.handover

/-- A window of 250 starter cycles that a sound crystal would not give. -/
def badWindow (c : Nat) : Bool := decide (c < 900 ∨ 1100 < c)

/-- CLK_LOSS: two successive bad windows; every loop of islands 0 to 78 coasts and the timers move to the starter. A crystal that
came back and fails again before RELOCK is lost again. -/
def State.clkLost (s : State) (a b : Nat) : State :=
  if badWindow a && badWindow b && s.hkp.timersOn && s.hkp.xtalOk then
    let t := overAll (List.range 79) (fun n u => u.modIsland n (fun i =>
      if i.pow = .off then i else { i with coast := true, halved := false, onStarter := false })) s
    let t := { t with hkp := { t.hkp with starter := true, clkLoss := true, xtalOk := false, goodWin := 0
                                          losses := satAdd t.hkp.losses 1 } }
    (t.markPhases (fun x => { x with coast := true })).raise 79 .clkLoss []
  else s

def execClkLoss (count1 count2 : Nat) (s : State) : Host.Outcome State Fault Refusal := .next (s.clkLost count1 count2)

/-- ISL_COAST: one loop's reference fails while the crystal is sound (R333). A rack faults its partition; any other
island goes on at 200 MHz and says so. -/
def State.islCoast (s : State) (n : Nat) : State :=
  if 79 ≤ n ∨ s.hkp.clkLoss ∨ (s.island n).pow = .off ∨ (s.island n).coast then s
  else
    let t := s.modIsland n (fun i => { i with coast := true, halved := false })
    let t := t.markPhases (fun x => { x with coast := true })
    if n < 48 then t.faultShared n else t.raise n .islCoast [n]

def execIslCoast (n : Island) (s : State) : Host.Outcome State Fault Refusal := .next (s.islCoast n.val)

/-- PLAN_SWITCH: the idle loop has locked and the clock switches to it (R331). It waits while a brownout response is in
force or the loop coasts (R340). -/
def State.planSwitch (s : State) (n : Nat) : State :=
  let i := s.island n
  match i.locking with
  | none => s
  | some p => if s.hkp.boActive || i.coast then s else s.setIsland n { i with locking := none, cur := p.1, trim := p.2, onStarter := false }

def execPlanSwitch (n : Island) (s : State) : Host.Outcome State Fault Refusal := .next (s.planSwitch n.val)

/-! ## Launches (R337, R338) -/

/-- The switch of re-locked loops (R334): coasting ends, island 79 and both counts return to the crystal, and proposals
that waited take effect (19_ageing.md R369). A crystal lost again by then leaves the loops coasting (entry 180). -/
def State.relockSwitch (s : State) : State :=
  if !s.hkp.xtalOk then s
  else
  let t := overAll (List.range 79) (fun n u => u.modIsland n (fun i =>
    if i.coast then { i with coast := false, halved := s.hkp.boActive && i.pow != .off } else i)) s
  ({ t with hkp := { t.hkp with starter := false, clkLoss := false } }).applyDue

/-- The armed action. -/
def State.launchAct (s : State) (a : Armed) (sweep : List Sweep) : State :=
  match a.action with
  | .startup => s.startup a.islands sweep
  | .selfTest => { s with hkp := { s.hkp with testing := dedup (s.hkp.testing ++ a.islands) } }
  | .rungExit r => s.exitLaunch r sweep
  | .streamRelease p => s.releaseStreams p
  | .relock => s.relockSwitch.entryWaiting

/-- LAUNCH: the timer reaches the first armed target. -/
def State.launch (s : State) (sweep : List Sweep) : State :=
  match firstArmed s.hkp.ltime s.hkp.armed with
  | none => s
  | some a =>
    let d := (a.ahead s.hkp.ltime).toNat
    (State.elapse { s with hkp := { s.hkp with armed := s.hkp.armed.erase a } } d).launchAct a sweep

def execLaunch (sweep : List Sweep) (s : State) : Host.Outcome State Fault Refusal := .next (s.launch sweep)

/-! ## The hub's monitors -/

/-- HEARTBEAT: islands 78 and 79 hear each other (13_recovery.md R261). -/
def State.heartbeat (s : State) : State :=
  if s.dev.hub78 || s.dev.hub79 then s
  else { s with hkp := { s.hkp with hb78 := some s.hkp.count, hb79 := some s.hkp.count } }

def execHeartbeat (s : State) : Host.Outcome State Fault Refusal := .next s.heartbeat

/-- Counts of 1 ms. -/
def heartbeatMax : Nat := 100000

/-- The timer on an island's heartbeat has expired. -/
def State.heartbeatLate (s : State) (is79 : Bool) : Bool :=
  match (if is79 then s.hkp.hb79 else s.hkp.hb78) with
  | none => decide (heartbeatMax ≤ s.hkp.count)
  | some c => decide (heartbeatMax ≤ s.hkp.count - c)

/-- HUB_FAILURE: the device fences. With island 79 the launch timer stops (R261). -/
def State.hubFail (s : State) (is79 : Bool) (cause : HubCause) : State :=
  if cause = .heartbeat ∧ s.heartbeatLate is79 = false then s
  else if is79 then
    let t := { s with dev := { s.dev with hub79 := true } }
    ({ t with hkp := { t.hkp with timersOn := false, armed := [] } }).fenceDevice 2
  else if s.dev.hub78 then s
  else (({ s with dev := { s.dev with hub78 := true, recordDue := true } }).fenceDevice 1).sendRecord

def execHubFailure (is79 : Bool) (cause : HubCause) (s : State) : Host.Outcome State Fault Refusal :=
  .next (s.hubFail is79 cause)

/-- Failed replays that fail a bridge (01_architecture.md R10). -/
def bridgeMax : Nat := 8

/-- BRIDGE_REPLAY. BRIDGE_FAIL names the bridge by the row's number, 0 to 2: the model's choice, since R10 gives the event no payload and
numbers no bridge (entry 181). -/
def State.bridgeReplay (s : State) (b : Nat) (ok : Bool) : State :=
  if s.dev.bridgeFailed.contains b then s
  else if ok then { s with dev := { s.dev with bridgeFails := tset s.dev.bridgeFails 0 b 0 } }
  else
    let k := tget s.dev.bridgeFails 0 b + 1
    let t := { s with dev := { s.dev with bridgeFails := tset s.dev.bridgeFails 0 b k } }
    if k < bridgeMax then t
    else (({ t with dev := { t.dev with bridgeFailed := t.dev.bridgeFailed ++ [b] } }).raise 78 .bridgeFail [b]).fenceDevice 0

def execBridgeReplay (bridge : Fin 3) (ok : Bool) (s : State) : Host.Outcome State Fault Refusal :=
  .next (s.bridgeReplay bridge.val ok)

/-! ## Registers that act (R334, R339, R341) -/

def State.setClkStatus (s : State) (c : BitVec 4) : State := { s with hkp := { s.hkp with clkStatus := c } }

/-- Counts of 100 us. -/
def relockLead : BitVec 48 := 10000

/-- RELOCK. -/
def relockBody : RowBody := opBody (fun s _ _ _ =>
  if s.running then (s.setClkStatus 1, ok)
  else if !s.hkp.xtalOk then (s.setClkStatus 2, ok)
  else if (List.range 79).all (fun n => !(s.island n).coast) then (s.setClkStatus 3, ok)
  else ((s.setClkStatus 0).arm relockLead ((List.range 79).filter (fun n => (s.island n).coast)) .relock, ok))

def execRelock (c : Cmd) (s : State) : Host.Outcome State Fault Refusal := .next (s.host c (isWrite .relock) relockBody)

/-- A clock-output source that R339 lists. -/
def clkoutSrcOk (src : Nat) : Bool := decide (src < 80 ∨ (0x80 ≤ src ∧ src ≤ 0x82))

/-- Highest frequency of a source in MHz. -/
def State.clkoutMax (s : State) (src : Nat) : Nat :=
  if src < 80 then 4 * (s.island src).hi.toNat else if src = 0x81 then 25 else 100

/-- Frequency of a source in kHz; 0 while it stands still. -/
def State.srcKhz (s : State) (src : Nat) : Nat :=
  let i := s.island src
  let base := if s.hkp.starter then 25000 else 100000
  if src = 79 || (src == 78 && i.pow == .on && i.onStarter) then base
  else if src < 79 then
    if i.pow != .on || i.stopped then 0 else if i.coast then 200000 else 4000 * i.cur.toNat / (if i.halved then 2 else 1)
  else if src = 0x80 then 100000
  else if src = 0x81 then 25000
  else if s.hkp.timersOn then base
  else 0

/-- The divisor of the clock output. -/
def State.clkoutBy (s : State) : Nat := s.hkp.clkoutDiv.toNat + 1

/-- What the clock-output pins show, in kHz; none while they are held low (R339). -/
def State.clkoutKhz (s : State) : Option Rat :=
  let f := s.srcKhz s.hkp.clkoutSrc.toNat
  if s.hkp.clkoutEn && s.hkp.clkoutStatus == 0 && f != 0 then some ((f : Rat) / s.clkoutBy) else none

/-- Source cycles for which each period of the output is high: half of an even divisor, (d + 1) / 2 of an odd one (R339). -/
def clkoutHigh (d : Nat) : Nat := (d + 1) / 2

/-- CLKOUT_WRITE: a reserved SRC leaves every field as it was; a setting that could pass 250 MHz is kept and holds the
output low. -/
def clkoutBody : RowBody := writeBody (fun s _ r v =>
  let src := fieldOf v 23 16
  let status := fun (c : BitVec 3) (t : State) => { t with hkp := { t.hkp with clkoutStatus := c } }
  if !clkoutSrcOk src then (status 2 s, ok)
  else if 250 * (fieldOf v 11 0 + 1) < s.clkoutMax src then (status 1 (s.putReg v r), ok)
  else (status 0 (s.putReg v r), ok))

def execClkoutWrite (c : Cmd) (s : State) : Host.Outcome State Fault Refusal :=
  .next (s.host c (isWrite .clkout) clkoutBody)

end Sys2Proof.Machine
end

