-- ==== Sys2Proof/Machine/Queros.lean ====
section
/-! DEFINITION. Queros (14_queros_host_link.md): training, frames and credits, the plain register commands, Peel windows
and their bursts, flushing a queue, and sending events. -/

namespace Sys2Proof.Machine

/-! ## Training (R278) -/

/-- Lanes trained: all eight, or the first of the two halves whose four lanes all equalise. -/
def lanesUp (l : Nat) : Nat := if l = 0xFF then 8 else if l % 16 = 0xF ∨ l / 16 = 0xF then 4 else 0

/-- The unacknowledged frames are sent again (R279). -/
def State.resendFrames (s : State) : State :=
  let n := s.qrs.frames.length
  if n = 0 then s else ({ s with qrs := { s.qrs with resent := satAdd s.qrs.resent n } }).emit (.frameResend n)

/-- Training that takes up a link which was up is a retrain (R293; entry 177). -/
def Qrs.countRetrain (t : Qrs) : Qrs :=
  if t.state = 2 ∨ t.state = 3 then { t with retrains := satAdd t.retrains 1 } else t

/-- One attempt: up with HELLO exchanged, the unacknowledged frames sent again, then what waited, and the host's credits made up; or
down. -/
def State.qrsTrain (s : State) (lanes : Nat) : State :=
  let w := lanesUp lanes
  let s := { s with qrs := s.qrs.countRetrain }
  if w = 0 then { s with qrs := { s.qrs with state := 0, width := 0 } }
  else
    let t := State.resendFrames { s with qrs := { s.qrs with state := 2, width := w, fails := 0, helloSent := true } }
    let t := State.emit { t with qrs := t.qrs.drain } (.hello 0x3048 3 w)
    (overAll (List.range 8) (fun i u => u.grantWindow i) (overAll (List.range 16) (fun q u => u.grantQueue q) t)).sendRecord

/-- QUEROS_TRAINING: the adapter starts training while island 75 runs. -/
def State.querosTraining (s : State) (lanes : Nat) : State := if s.isOn 75 then s.qrsTrain lanes else s

def execQuerosTraining (lanes : BitVec 8) (s : State) : Host.Outcome State Fault Refusal :=
  .next (s.querosTraining lanes.toNat)

/-- TRAINING_RETRY: a link that is down trains again. -/
def execTrainingRetry (lanes : BitVec 8) (s : State) : Host.Outcome State Fault Refusal :=
  .next (if s.isOn 75 && s.qrs.state == 0 then s.qrsTrain lanes.toNat else s)

/-! ## Peel windows (R286, R287) -/

/-- R286's conditions, and R16's. -/
def Window.valid (w : Window) : Bool :=
  w.mode != 3 && w.base % 64 == 0 && w.len % 64 == 0 && w.row % 64 == 0 && w.pitch % 64 == 0 && decide (64 ≤ w.len) &&
    (w.mode != 1 || (decide (0 < w.row) && w.len % w.row == 0 && decide (w.row ≤ w.pitch))) &&
    decide (w.extent ≤ 2 ^ 48) && (decide (w.extent ≤ csrBase) || decide (csrBase + csrSize ≤ w.base))

/-- The window that a record names. -/
def winOf (c : CmdRec) : Nat := fieldOf c.arg0.toNat 2 0

/-! ## Bursts (R288, R289) -/

def bOk : Nat := 0
def bLineError : Nat := 1
def bClosed : Nat := 2
def bEnd : Nat := 3
def bDir : Nat := 4
def bBad : Nat := 5

/-- Sends the answers at the front of a window whose lines have all come; read data leaves against a read credit (R280,
R289). -/
def State.sendBursts (s : State) (w : Nat) : List Burst → State
  | [] => s.modWindow w (fun x => { x with bursts := [] })
  | b :: rest =>
    let cr := tget s.qrs.readCredits 0 w
    if !b.waiting.isEmpty || (b.isRead && cr == 0) then s.modWindow w (fun x => { x with bursts := b :: rest })
    else
      let t := s.emit (.burst w b.bid b.blen b.status b.fcode b.mask.toNat b.data)
      let t := if b.isRead then { t with qrs := { t.qrs with readCredits := tset t.qrs.readCredits 0 w (cr - 1) } } else t
      t.sendBursts w rest

def State.flushBursts (s : State) (w : Nat) : State := (s.sendBursts w (s.window w).bursts).grantWindow w

/-- Notes a failed line. -/
def Burst.fail (b : Burst) (line code : Nat) : Burst :=
  { b with status := bLineError, mask := b.mask ||| (1 <<< line : BitVec 64)
           fcode := if b.fcode = 0 then code else b.fcode }

/-- Puts the data of one line into a read burst. -/
def Burst.put (b : Burst) (line : Nat) (d : List Byte) : Burst :=
  { b with data := b.data.take (64 * line) ++ d ++ b.data.drop (64 * line + d.length) }

/-- Tags of a requester's pool in a CXL island, and those that any one rack may hold (11_cellar.md R226). The hub agents' and hub control's
accesses begin and end in one row, so that their pools are never short between rows (entry 164). -/
def cxlRackTags : Nat := 8192
def cxlOneRack : Nat := 512
def cxlPeelTags : Nat := 1024

/-- The requests of a pool are as many as its tags. -/
def CxlSt.poolFull (c : CxlSt) (o : ReqOwner) : Bool :=
  let n := fun (f : ReqOwner → Bool) => c.reqs.countP (fun r => f r.owner)
  match o with
  | .peel .. => decide (cxlPeelTags ≤ n (fun | .peel .. => true | _ => false))
  | .op k _ => decide (cxlRackTags ≤ n (fun | .op .. => true | _ => false)) ||
      decide (cxlOneRack ≤ n (fun | .op j _ => j == k | _ => false))

/-- A request takes a tag, or waits where its pool has none left (R226). -/
def CxlSt.enter (c : CxlSt) (q : CxlReq) : CxlSt :=
  if c.poolFull q.owner then { c with wait := c.wait ++ [q] } else { c with reqs := c.reqs ++ [q] }

/-- The requests that wait enter again, in order of arrival, once tags are free. -/
def CxlSt.fillTags (c : CxlSt) : CxlSt := c.wait.foldl CxlSt.enter { c with wait := [] }

/-- A new request of a Cellar port (11_cellar.md R225). -/
def State.cxlRequest (s : State) (a : Nat) (isWrite : Bool) (d : List Byte) (o : ReqOwner) : Nat × State :=
  let tgt := match s.decoderAt a with
    | some x => decTarget x a
    | none => (0, 0)
  let i := s.cxl.nextReq
  let q : CxlReq := { id := i, addr := a, isWrite := isWrite, data := d, dsp := (s.cxlPort tgt.1).dsp tgt.2, owner := o }
  let t := { s with cxl := { s.cxl with nextReq := i + 1 } }
  (i, t.modCxlPort tgt.1 (fun c => c.enter q))

/-- One line of a burst: an access of 64 bytes, or a request to the Cellar, whose completion comes later. -/
def State.burstLine (s : State) (w line a : Nat) (d : Option (List Byte)) (b : Burst) : State × Burst :=
  if s.place a = .cellar then
    match s.gateErr (.peel w) d.isSome a with
    | some e => (s, b.fail line e.code)
    | none =>
      let p := s.cxlRequest a d.isSome (d.getD []) (.peel w b.bid line)
      (p.2, { b with waiting := b.waiting ++ [(line, p.1)] })
  else
    match d with
    | some x =>
      let p := s.write (.peel w) a x
      (match p.2 with
       | none => (p.1, b)
       | some e => (p.1, b.fail line e.code))
    | none =>
      let p := s.read (.peel w) a 64
      (match p.2 with
       | .ok x => (p.1, b.put line x)
       | .error e => (p.1, b.fail line e.code))

/-- Why a burst is discarded. -/
def Window.refuses (w : Window) (isRead : Bool) (blen : Nat) : Nat :=
  if !w.isOpen then bClosed
  else if w.isRead != isRead then bDir
  else if blen < 64 ∨ 4096 < blen ∨ blen % 64 ≠ 0 then bBad
  else if w.mode ≠ 2 ∧ w.len < w.cur + blen then bEnd
  else bOk

/-- A burst that runs: its lines in order, then the answers that are due. -/
def State.burstNow (s : State) (w : Nat) (bid : BitVec 16) (blen : Nat) (d : Option (List Byte)) : State :=
  let x := s.window w
  let r := x.refuses d.isNone blen
  let b : Burst := { bid := bid, blen := blen, isRead := d.isNone, status := r, waiting := [], mask := 0, fcode := 0, data := [] }
  if r ≠ bOk then (s.modWindow w (fun y => { y with bursts := y.bursts ++ [{ b with isRead := false }] })).flushBursts w
  else
    let b := if d.isNone then { b with data := List.replicate blen 0 } else b
    let p := (List.range (blen / 64)).foldl (fun (p : State × Burst) i =>
      p.1.burstLine w i (x.addr (x.cur + 64 * i)) (d.map (fun l => (l.drop (64 * i)).take 64)) p.2) (s, b)
    let cur := if x.mode = 2 then (x.cur + blen) % x.len else x.cur + blen
    (p.1.modWindow w (fun y => { y with cur := cur, bursts := y.bursts ++ [p.2] })).flushBursts w

/-- A burst arrives on an open link. One that comes behind a window command which waits runs after it (R289). -/
def State.burst (s : State) (w : Nat) (bid : BitVec 16) (blen : Nat) (d : Option (List Byte)) : State :=
  if !s.linkReady then s
  else
    let s := s.linkWoken.useCredit (16 + w)
    if (s.window w).change.isSome then s.modWindow w (fun x => { x with later := x.later ++ [(bid, blen, d)] })
    else s.burstNow w bid blen d

/-! ## Window commands (R286, R289) -/

/-- What a window command does to its window. -/
def Window.obey (x : Window) (c : CmdRec) : Window :=
  if c.op == opPeelSet then { windowOf c with bursts := x.bursts, later := x.later } else { x with isOpen := false }

/-- A window command that waits acts once the bursts received before it have run; those received after it follow. -/
def State.settleWindow (s : State) (w : Nat) : State :=
  let x := s.window w
  match x.change with
  | none => s
  | some (q, c) =>
    if x.bursts.isEmpty then
      let t := (s.setWindow w { x.obey c with change := none, later := [] }).endHeld q c.htag ok
      overAll x.later (fun b u => u.burstNow w b.1 b.2.1 b.2.2) t
    else s

/-- Sends the answers that are due, and lets a waiting window command act. -/
def State.pumpWindow (s : State) (w : Nat) : State := (s.flushBursts w).settleWindow w

/-- A window command acts at once where its window has no burst that still runs, and else waits, holding its queue. -/
def windowAct : RowBody := fun s c =>
  let w := winOf c.r
  if (s.window w).bursts.isEmpty then (s.modWindow w (fun x => x.obey c.r), ok)
  else (s.modWindow w (fun x => { x with change := some (c.q.val, c.r) }), .held)

/-- A second command of a window waits at its queue's head for the first. -/
def State.windowCmd (s : State) (c : Cmd) (mine : State → CmdRec → Bool) (body : RowBody) : State :=
  if mine s c.r && (s.window (winOf c.r)).change.isSome then
    (if (s.queue c.q.val).fifo.head? = some c.r then s else s.wait c)
  else s.host c mine body

def peelSetBody : RowBody := fun s c =>
  if (windowOf c.r).valid then windowAct s c else (s, .done stWindowInvalid 0 0)

/-- PEEL_SET. -/
def execPeelSet (c : Cmd) (s : State) : Host.Outcome State Fault Refusal :=
  .next (s.windowCmd c (fun _ r => r.op == opPeelSet) peelSetBody)

/-- PEEL_CLOSE. -/
def execPeelClose (c : Cmd) (s : State) : Host.Outcome State Fault Refusal :=
  .next (s.windowCmd c (fun _ r => r.op == opPeelClose) windowAct)

/-- WRITE_BURST; a burst whose data has another length than BLEN breaks R287. -/
def execWriteBurst (w : WinNo) (bid : BitVec 16) (blen : Nat) (data : List Byte) (s : State) :
    Host.Outcome State Fault Refusal :=
  .next (s.burst w.val bid (if data.length = blen then blen else 0) (some data))

/-- READ_BURST. -/
def execReadBurst (w : WinNo) (bid : BitVec 16) (blen : Nat) (ue : Option Nat) (s : State) : Host.Outcome State Fault Refusal :=
  .next ((s.markUes ue).burst w.val bid blen none)

/-! ## Frames and credits (R279, R280) -/

/-- Credits that a credit frame's payload grants: byte 24 events, bytes 16 to 23 reads of windows 0 to 7. -/
def State.addCredits (s : State) (payload : List Byte) : State :=
  let c := fun i => (payload.getD i 0).toNat
  let t := { s with qrs := { s.qrs with
    evtCredits := s.qrs.evtCredits + c 24
    readCredits := (List.range 8).foldl (fun m w => tset m 0 w (tget m 0 w + c (16 + w))) s.qrs.readCredits } }
  overAll (List.range 8) (fun w u => u.pumpWindow w) t

/-- A burst header as the host sends it: STATUS, FCODE, LINEMASK and every reserved bit are zero (R288; entry 166). -/
def burstHeadOk (m : List Byte) : Bool :=
  let h := leNat (m.take 8)
  fieldOf h 15 13 == 0 && fieldOf h 63 32 == 0 && leNat ((m.drop 8).take 8) == 0

/-- A whole message of a channel: a command record joins its queue, a burst runs, HELLO is noted. A burst whose header is broken runs as
one whose BLEN breaks R287. -/
def State.message (s : State) (ch : Nat) (m : List Byte) : State :=
  if ch < 16 then (if m.length = 64 then s.enqueue ch (recOf m) else s)
  else if ch < 24 then
    let h := leNat (m.take 8)
    let d := m.drop 16
    let bid := BitVec.ofNat 16 (fieldOf h 31 16)
    let blen := if burstHeadOk m then fieldOf h 12 0 else 0
    if d.isEmpty then s.burst (ch - 16) bid blen none
    else s.burst (ch - 16) bid (if d.length = blen then blen else 0) (some d)
  else if ch = 25 then { s with qrs := { s.qrs with helloSeen := true } }
  else s

/-- Failed resends of one frame that start a retrain: the first request to send it again is no failed resend. -/
def resendMax : Nat := 16

/-- Frames up to a number are received: they leave the replay buffer, and others take their room. -/
def Qrs.acked (t : Qrs) (a : BitVec 12) : Qrs :=
  let left := t.frames.filter (fun e => newer e.seq a)
  { t with frames := left, fails := if left.length < t.frames.length then 0 else t.fails }

/-- What the acknowledgement field of a received frame says of this side's own frames: received up to ACK, or to be sent again from
the one after it. -/
def State.frameAck (s : State) (f : FrameHdr) : State :=
  if f.akind = 1 then { s with qrs := (s.qrs.acked f.ack).drain }
  else if f.akind = 2 then
    let x := s.qrs.acked f.ack
    let k := x.fails + 1
    if resendMax < k then { s with qrs := { x with state := 1, fails := 0, retrains := satAdd x.retrains 1 } }
    else
      let t := State.resendFrames { s with qrs := { x with fails := k } }
      { t with qrs := t.qrs.drain }
  else s

/-- The payload of a frame in sequence joins its channel's message. -/
def State.framePayload (s : State) (f : FrameHdr) : State :=
  if f.type = 2 then s.addCredits (f.payload.take f.len)
  else if f.type = 1 then
    let m := (if f.first then [] else tget s.qrs.asm [] f.chan) ++ f.payload.take f.len
    if f.last then ({ s with qrs := { s.qrs with asm := terase s.qrs.asm f.chan } }).message f.chan m
    else { s with qrs := { s.qrs with asm := tset s.qrs.asm [] f.chan m } }
  else s

/-- A received frame: CRC-checked and acknowledged; one out of sequence or not sound asks for a resend, and one received
before is acknowledged again. -/
def State.frame (s : State) (b : List Byte) : State :=
  let f := frameOf b
  if !s.linkReady then s
  else if !f.crcOk || !f.rsvOk then s.emit (.frameAck 2 (s.qrs.rxNext - 1))
  else
    let t := s.linkWoken.frameAck f
    if f.type = 0 then t
    else if f.fseq = s.qrs.rxNext then
      (({ t with qrs := { t.qrs with rxNext := f.fseq + 1 } }).emit (.frameAck 1 f.fseq)).framePayload f
    else if newer s.qrs.rxNext f.fseq then t.emit (.frameAck 1 (s.qrs.rxNext - 1))
    else t.emit (.frameAck 2 (s.qrs.rxNext - 1))

/-- FRAME. -/
def execFrame (bytes : List Byte) (s : State) : Host.Outcome State Fault Refusal := .next (s.frame bytes)

/-- CREDIT: a credit frame. -/
def execCredit (bytes : List Byte) (s : State) : Host.Outcome State Fault Refusal :=
  .next (if (frameOf bytes).type = 2 then s.frame bytes else s)

/-! ## Plain commands (R282) -/

/-- Registers that a read changes, which have rows of their own (23_register_map.md R410). -/
def readActs : Option Reg → Bool
  | some (.cruChal 0) | some .cruMboxData | some .ageLogData => true
  | _ => false

def regReadBody : RowBody := readBody (fun s _ r => (s, .done stOk 0 (BitVec.ofNat 64 (s.readReg r))))

/-- REG_READ. -/
def execRegRead (c : Cmd) (s : State) : Host.Outcome State Fault Refusal :=
  .next (s.host c (isReadOf (fun r => !readActs r)) regReadBody)

/-- NOP; a reserved opcode is a record of this row too, and completes with BAD_OPCODE. -/
def execNop (c : Cmd) (s : State) : Host.Outcome State Fault Refusal :=
  .next (s.host c (fun _ r => r.op == opNop || decide (r.op.toNat = 0 ∨ 10 < r.op.toNat)) (fun u _ => (u, ok)))

/-! ## Plain register writes (23_register_map.md R407, R408) -/

/-- A masked write touches bits [hi:lo]. -/
def touches (c : CmdRec) (hi lo : Nat) : Bool := (c.arg1.toNat &&& (fld .rw hi lo).mask) != 0

/-- What becomes of a write that places a reserved value: a STATUS code, or REJECTED. -/
inductive Reserved where
  | status (code : Nat)
  | reject
  deriving DecidableEq, Repr

/-- The reserved value that a write which orders no operation places in a register, if any. -/
def reservedIn (r : Reg) (c : CmdRec) (v : Nat) : Option Reserved :=
  let op := match r.opField with
    | some f => f.touched c.arg1.toNat
    | none => false
  match r with
  | .cruFwctl => if op then some (.status 5) else none
  | .hkpClkCtl => if op then some (.status 4) else none
  | .pwrCtl =>
    if op || (touches c 7 4 && !decide (1 ≤ fieldOf v 7 4 ∧ fieldOf v 7 4 ≤ 4)) then some (.status 4) else none
  | .ageCtl => if op then some (.status 2) else none
  | .recPctl _ => if op then some (.status 2) else none
  | .govCmd => if op then some (.status 4) else none
  | .snpCmd => if op then some (.status 3) else none
  | .rcvCmd => if op then some (.status 5) else none
  | .obsTrcCtl => if touches c 7 4 && decide (8 < fieldOf v 7 4) then some (.status 3) else none
  | .tskCmd _ | .memRetire _ | .lnkCtl _ | .cxlCtl _ => if op then some .reject else none
  | .lnkRtEntry => if touches c 15 14 && fieldOf v 15 14 == 3 then some .reject else none
  | .sveRate _ =>
    if touches c 3 0 && !decide (fieldOf v 3 0 = 0 ∨ (4 ≤ fieldOf v 3 0 ∧ fieldOf v 3 0 ≤ 12)) then some .reject else none
  | .obsSel _ _ => if touches c 7 0 && !eventListed (fieldOf v 7 0) then some .reject else none
  | _ => none

/-- Puts a reserved-value code into the STATUS field that reports for a register. -/
def State.reportReserved (s : State) (r : Reg) (v code : Nat) : State :=
  let x := BitVec.ofNat 4 code
  match r with
  | .cruFwctl => { s with cru := { s.cru with fwStatus := x } }
  | .hkpClkCtl => { s with hkp := { s.hkp with clkStatus := x } }
  | .pwrCtl => { s with hkp := { s.hkp with pwrStatus := x } }
  | .ageCtl => { s with hkp := { s.hkp with ageStatus := x } }
  | .recPctl p => s.modPart p (fun t => { t with pctlStatus := x })
  | .govCmd => { s with gov := { s.gov with cmdst := x } }
  | .snpCmd => { s with rreg := { s.rreg with snpCmdStatus := x, snpCmdPart := bv 3 v 14 12 } }
  | .rcvCmd => s.modRecov (fieldOf v 6 4) (fun t => { t with status := x })
  | .obsTrcCtl => { s with trc := { s.trc with status := x } }
  | _ => s

def regWriteBody : RowBody := writeBody (fun s c r v =>
  match reservedIn r c.r v with
  | some .reject => (s, rejected dBadValue)
  | some (.status k) => (s.reportReserved r v k, ok)
  | none => (s.putReg v r, ok))

/-- REG_WRITE: a register with no behaviour of its own. -/
def execRegWrite (c : Cmd) (s : State) : Host.Outcome State Fault Refusal :=
  .next (s.host c (isWrite .plain) regWriteBody)

/-! ## FLUSH (R292) -/

/-- Every unstarted command of a queue completes with FLUSHED. -/
def State.flushQueue (s : State) (q : Nat) : State :=
  let l := (s.queue q).fifo
  (overAll l (fun r u => u.complete q r.htag stFlushed 0 0) (s.modQueue q (fun t => { t with fifo := [] }))).grantQueue q

/-- The FLUSH itself completes before the commands behind it. -/
def flushBody : RowBody := writeBody (fun s c r v =>
  let t := (s.putReg v r).finish c.q.val c.r.htag ok
  match r with
  | .qrsQcfg q => (t.flushQueue q, .sent)
  | _ => (t, .sent))

/-- FLUSH. -/
def execFlush (c : Cmd) (s : State) : Host.Outcome State Fault Refusal := .next (s.host c (isWrite .flush) flushBody)

/-! ## Events (R290, R291) -/

/-- EVENT_SEND: the oldest record leaves against an event credit; after drops, the room goes to EVT_LOST. -/
def State.eventSend (s : State) : State :=
  match s.qrs.evBuf with
  | [] => s
  | e :: rest =>
    if s.qrs.evtCredits = 0 ∨ s.qrs.state ≠ 2 ∨ s.isOn 78 = false then s
    else
      let t := ({ s with qrs := { s.qrs with evBuf := rest, evtCredits := s.qrs.evtCredits - 1 } }).emit (.event e)
      if t.qrs.lostPend = 0 then t
      else ({ t with qrs := { t.qrs with lostPend := 0 } }).raise srcUnit .evtLost [t.qrs.lostPend]

def execEventSend (s : State) : Host.Outcome State Fault Refusal := .next s.eventSend

end Sys2Proof.Machine
end

