-- ==== Sys2Proof/Machine/Formats.lean ====
section
/-! DEFINITION. Number formats (02_number_formats.md): exact values, the fifteen formats, rounding (R31 to R36), the
conversion word (R27 to R30), draws of the generators (R34), and conversion with block scaling (R37 to R44). -/

namespace Sys2Proof.Machine

/-! ## Exact values -/

/-- An exact value: a NaN, an infinity, or (−1)^neg × m × 2^e. -/
inductive Num where
  | nan
  | inf (neg : Bool)
  | fin (neg : Bool) (m : Nat) (e : Int)
  deriving DecidableEq, Repr

def Num.zero : Num := .fin false 0 0

/-- 2^k for a non-negative exponent, else 1. -/
def pow2 (k : Int) : Nat := 2 ^ k.toNat

/-- m × 2^e as an integer multiple of 2^q, for q at most e. -/
def shiftTo (m : Nat) (e q : Int) : Nat := m * pow2 (e - q)

def Num.negate : Num → Num
  | .nan => .nan
  | .inf s => .inf (!s)
  | .fin s m e => .fin (!s) m e

def Num.magnitude : Num → Num
  | .nan => .nan
  | .inf _ => .inf false
  | .fin _ m e => .fin false m e

def Num.isNaN : Num → Bool
  | .nan => true
  | _ => false

def Num.isZero : Num → Bool
  | .fin _ m _ => m == 0
  | _ => false

/-- A non-zero finite value. -/
def Num.live : Num → Bool
  | .fin _ m _ => m != 0
  | _ => false

/-- The exact sum; opposite infinities give NaN, and a zero sum is +0 unless both terms are −0 (R62, R66, R129). -/
def Num.add : Num → Num → Num
  | .nan, _ => .nan
  | _, .nan => .nan
  | .inf s, .inf t => if s = t then .inf s else .nan
  | .inf s, _ => .inf s
  | _, .inf t => .inf t
  | .fin s m e, .fin t n f =>
    let q := min e f
    let a : Int := shiftTo m e q
    let b : Int := shiftTo n f q
    let z := (if s then -a else a) + (if t then -b else b)
    if z = 0 then .fin (m = 0 && n = 0 && s && t) 0 q else .fin (decide (z < 0)) z.natAbs q

/-- The exact product; an infinity times a zero is NaN (R57). -/
def Num.mul : Num → Num → Num
  | .nan, _ => .nan
  | _, .nan => .nan
  | .inf s, .inf t => .inf (s != t)
  | .inf s, .fin t n _ => if n = 0 then .nan else .inf (s != t)
  | .fin s m _, .inf t => if m = 0 then .nan else .inf (s != t)
  | .fin s m e, .fin t n f => .fin (s != t) (m * n) (e + f)

/-- a < b for values that are no NaN. -/
def Num.lt (a b : Num) : Bool :=
  match a, b with
  | .inf s, .inf t => s && !t
  | .inf s, .fin .. => s
  | .fin .., .inf t => !t
  | a, b =>
    match a.add b.negate with
    | .fin true m _ => m != 0
    | _ => false

/-- floor(log2(n / d × 2^e)) for a non-zero n. -/
def floorLog2 (n d : Nat) (e : Int) : Int :=
  let l : Int := (Nat.log2 n : Int) - Nat.log2 d
  (if d * pow2 l ≤ n * pow2 (-l) then l else l - 1) + e

/-- ceil(log2(n / d × 2^e)) for a non-zero n. -/
def ceilLog2 (n d : Nat) (e : Int) : Int :=
  let l := floorLog2 n d 0
  (if n * pow2 (-l) = d * pow2 l then l else l + 1) + e

/-! ## The formats (R19, R20) -/

/-- A format: element width; a two's-complement integer whose unit is 2^lsb, or a float of `man` significand bits; the
code of the largest finite magnitude; whether it has infinities; its canonical NaN. -/
structure Fmt where
  width : Nat
  isInt : Bool := false
  man : Nat := 0
  bias : Nat := 0
  lsb : Int := 0
  maxCode : Nat
  infs : Bool := false
  nan : Option Nat := none
  deriving DecidableEq, Repr

def fp32 : Fmt :=
  { width := 32, man := 23, bias := 127, maxCode := 0x7F7FFFFF, infs := true, nan := some 0x7FC00000 }
def fp64 : Fmt :=
  { width := 64, man := 52, bias := 1023, maxCode := 0x7FEFFFFFFFFFFFFF, infs := true, nan := some 0x7FF8000000000000 }
def bf16 : Fmt :=
  { width := 16, man := 7, bias := 127, maxCode := 0x7F7F, infs := true, nan := some 0x7FC0 }
def fp16 : Fmt :=
  { width := 16, man := 10, bias := 15, maxCode := 0x7BFF, infs := true, nan := some 0x7E00 }
def mw40 : Fmt :=
  { width := 40, man := 31, bias := 127, maxCode := 0x7F7FFFFFFF, infs := true, nan := some 0x7FC0000000 }
/-- A block scale of the FB form (R39), unsigned. -/
def e5m3 : Fmt := { width := 9, man := 3, bias := 15, maxCode := 0xFE, nan := some 0xFF }

/-- The format of a code; codes 0x9 and 0xA are stored as FP32 (R23). -/
def fmtOf (c : Nat) : Fmt :=
  match c with
  | 0x0 => { width := 4, man := 1, bias := 1, maxCode := 7 }
  | 0x1 => { width := 4, isInt := true, lsb := -2, maxCode := 7 }
  | 0x2 => { width := 6, man := 2, bias := 3, maxCode := 31 }
  | 0x3 => { width := 6, man := 3, bias := 1, maxCode := 31 }
  | 0x4 => { width := 8, man := 3, bias := 7, maxCode := 0x7E, nan := some 0x7F }
  | 0x5 => { width := 8, man := 2, bias := 15, maxCode := 0x7B, infs := true, nan := some 0x7E }
  | 0x6 => { width := 8, isInt := true, lsb := -6, maxCode := 127 }
  | 0x7 => bf16
  | 0x8 => fp16
  | 0xC => fp64
  | 0xD => { width := 16, isInt := true, maxCode := 32767 }
  | 0xE => mw40
  | _ => fp32

/-- Magnitude m and exponent e of a magnitude code. -/
def Fmt.magOf (f : Fmt) (c : Nat) : Nat × Int :=
  if f.isInt then (c, f.lsb)
  else
    let e := c >>> f.man
    let m := c % 2 ^ f.man
    if e = 0 then (m, 1 - (f.bias : Int) - f.man) else (2 ^ f.man + m, (e : Int) - f.bias - f.man)

/-- The value of an element code (R19, R20). -/
def Fmt.decode (f : Fmt) (c : Nat) : Num :=
  let neg := c.testBit (f.width - 1)
  if f.isInt then
    if neg then .fin true (2 ^ f.width - c) f.lsb else .fin false c f.lsb
  else
    let g := c % 2 ^ (f.width - 1)
    if g ≤ f.maxCode then .fin neg (f.magOf g).1 (f.magOf g).2
    else if f.infs && g = f.maxCode + 1 then .inf neg
    else .nan

/-- The largest finite magnitude. -/
def Fmt.maxMag (f : Fmt) : Nat × Int := f.magOf f.maxCode

/-- A sign on a magnitude code; integers write +0 for every zero (R21). -/
def Fmt.signed (f : Fmt) (neg : Bool) (g : Nat) : Nat :=
  if !neg then g
  else if f.isInt then (if g = 0 then 0 else 2 ^ f.width - g)
  else g + 2 ^ (f.width - 1)

/-! ## Rounding (R31 to R33) -/

/-- A magnitude rounded with an unbounded exponent: its code, and whether it exceeds the largest finite value as R35
counts it. `draw` is the random draw of stochastic rounding; `sticky` is the sticky bit of R62. -/
def Fmt.roundMag (f : Fmt) (draw : Option Nat) (sticky : Bool) (n d : Nat) (e : Int) : Nat × Bool :=
  if n = 0 then (0, false)
  else
    let q := if f.isInt then f.lsb else max (floorLog2 n d e - f.man) (1 - (f.bias : Int) - f.man)
    let num := n * pow2 (e - q)
    let den := d * pow2 (q - e)
    let k := num / den
    let r := num % den
    let base := if f.isInt then 0 else (q + f.bias + f.man - 1).toNat * 2 ^ f.man
    match draw with
    | some t =>
      let overAll := decide (f.maxCode < base + k) || (base + k == f.maxCode && r != 0)
      (base + k + (if r ≠ 0 ∧ t * den < 65536 * r then 1 else 0), overAll)
    | none =>
      let up := decide (den < 2 * r) || (2 * r == den && (sticky || k % 2 == 1))
      let c := base + k + (if up then 1 else 0)
      (c, decide (f.maxCode < c))

/-- The code of an overflow or an infinite input (R36). -/
def Fmt.overflow (f : Fmt) (ieee neg : Bool) : Nat :=
  if !ieee then f.signed neg f.maxCode
  else if f.infs then f.signed neg (f.maxCode + 1)
  else
    match f.nan with
    | some c => c
    | none => f.signed neg f.maxCode

/-- An element's conversion: its code, and whether it flushed or saturated (R35 to R37, R41). The value is divided by
`div`, a non-zero magnitude. -/
def Fmt.conv (f : Fmt) (ieee : Bool) (draw : Option Nat) (div : Nat × Int) : Num → Nat × Bool × Bool
  | .nan => (f.nan.getD 0, false, false)
  | .inf s => (f.overflow ieee s, false, true)
  | .fin s m e =>
    let r := f.roundMag draw false m div.1 (e - div.2)
    if r.2 then (f.overflow ieee s, false, true)
    else (f.signed s r.1, m != 0 && r.1 == 0, false)

/-- Rounds to nearest even. -/
def Fmt.rne (f : Fmt) (ieee : Bool) (x : Num) : Nat := (f.conv ieee none (1, 0) x).1

/-- The smallest magnitude code that is not below n / d × 2^e, at most the largest finite one. -/
def Fmt.roundUp (f : Fmt) (n d : Nat) (e : Int) : Nat :=
  if n = 0 then 0
  else
    let q := max (floorLog2 n d e - f.man) (1 - (f.bias : Int) - f.man)
    let num := n * pow2 (e - q)
    let den := d * pow2 (q - e)
    let c := (q + f.bias + f.man - 1).toNat * 2 ^ f.man + num / den + (if num % den = 0 then 0 else 1)
    min c f.maxCode

/-! ## The conversion word (R27 to R29) -/

def cwFmt (w : BitVec 16) : Nat := fieldOf w.toNat 15 12
def cwScl (w : BitVec 16) : Nat := fieldOf w.toNat 11 10
def cwSatm (w : BitVec 16) : Nat := fieldOf w.toNat 9 8
def cwSr (w : BitVec 16) : Bool := w.toNat.testBit 7
def cwCarry (w : BitVec 16) : Bool := w.toNat.testBit 6
def cwRescue (w : BitVec 16) : Bool := w.toNat.testBit 5
def cwMargin (w : BitVec 16) : Nat := fieldOf w.toNat 4 2

/-- Permitted scaling (R28). -/
def sclPermitted (f scl : Nat) : Bool :=
  if f ≤ 3 || f == 6 then scl == 1 || scl == 2
  else if f == 4 || f == 5 then scl ≤ 2
  else scl == 0

/-- A conversion word that R24, R28 or R29 calls invalid. -/
def cwInvalid (w : BitVec 16) : Bool :=
  cwFmt w == 15 || cwScl w == 3 || cwSatm w == 3 || decide (4 < cwMargin w) || fieldOf w.toNat 1 0 != 0 ||
    (cwCarry w && cwScl w == 0) || !sclPermitted (cwFmt w) (cwScl w)

/-- Block size of a scaling: 32 for MX, 16 for FB, 0 for none (R26). -/
def blockOf (scl : Nat) : Nat := if scl = 1 then 32 else if scl = 2 then 16 else 0

/-- The word resolves to IEEE (R36). -/
def cwIeee (w : BitVec 16) : Bool :=
  let f := cwFmt w
  let ieee := cwSatm w == 2 || (cwSatm w == 0 && (f == 9 || f == 10 || f == 11 || f == 12 || f == 14))
  ieee && (f == 4 || f == 5 || (7 ≤ f && f ≤ 12) || f == 14)

/-- Stochastic rounding applies (R32). -/
def cwStochastic (w : BitVec 16) (role : Nat) : Bool :=
  let f := cwFmt w
  if f == 13 then true
  else if f ≤ 8 then 5 ≤ role || cwSr w
  else false

/-! ## Draws (R34) -/

/-- A generator: its state, and whether its second draw is still to be taken. -/
abbrev Gen := BitVec 32 × Bool

def xorshift (x : BitVec 32) : BitVec 32 :=
  let x := x ^^^ (x <<< 13)
  let x := x ^^^ (x >>> 17)
  x ^^^ (x <<< 5)

def nextDraw (g : Gen) : Nat × Gen :=
  if g.2 then (g.1.toNat / 65536, (g.1, false))
  else
    let x := xorshift g.1
    (x.toNat % 65536, (x, true))

/-- Pairs each element with its draw. -/
def takeDraws : List Num → Gen → List (Num × Option Nat) × Gen
  | [], g => ([], g)
  | x :: t, g =>
    let d := nextDraw g
    let r := takeDraws t d.2
    ((x, some d.1) :: r.1, r.2)

/-! ## Counts of a conversion (R41, R139, R140) -/

/-- What the Sieve counts of a conversion. -/
structure Meter where
  amax : Num := .zero
  blocks : Nat := 0
  elems : Nat := 0
  zblk : Nat := 0
  flush : Nat := 0
  sat : Nat := 0
  resc : Nat := 0
  hist : List Nat := List.replicate 16 0
  deriving DecidableEq, Repr

def addLists (a b : List Nat) : List Nat := (List.range (max a.length b.length)).map (fun i => a.getD i 0 + b.getD i 0)

def Num.max (a b : Num) : Num := if a.lt b then b else a

def Meter.add (a b : Meter) : Meter :=
  { amax := a.amax.max b.amax, blocks := a.blocks + b.blocks, elems := a.elems + b.elems, zblk := a.zblk + b.zblk
    flush := a.flush + b.flush, sat := a.sat + b.sat, resc := a.resc + b.resc, hist := addLists a.hist b.hist }

/-- The largest finite magnitude of a list. -/
def finiteMax (l : List Num) : Num :=
  l.foldl (fun a x => match x with
    | .fin _ m e => a.max (.fin false m e)
    | _ => a) .zero

/-- Histogram bin of a scaled magnitude n / d × 2^e against the format's largest finite value (R140). -/
def histBin (f : Fmt) (n d : Nat) (e : Int) : Nat :=
  min 15 ((floorLog2 f.maxMag.1 1 f.maxMag.2 - floorLog2 n d e).toNat)

def histOf (f : Fmt) (div : Nat × Int) (l : List Num) : List Nat :=
  l.foldl (fun h x => match x with
    | .fin _ m e => if m = 0 then h else h.modify (histBin f m div.1 (e - div.2)) (· + 1)
    | _ => h) (List.replicate 16 0)

/-! ## One block (R37, R40) -/

/-- A converted block: its scale code, its element codes, its counts. -/
structure BlockOut where
  scale : Nat
  codes : List Nat
  meter : Meter
  deriving DecidableEq, Repr

/-- Elements of a block divided by a scale. -/
def convBlock (f : Fmt) (ieee : Bool) (scale : Nat) (div : Nat × Int) (l : List (Num × Option Nat)) : BlockOut :=
  let r := l.map (fun x => f.conv ieee x.2 div x.1)
  { scale := scale, codes := r.map (fun x => x.1)
    meter := { blocks := 1, elems := l.length, flush := (r.filter (fun x => x.2.1)).length
               sat := (r.filter (fun x => x.2.2)).length, hist := histOf f div (l.map (fun x => x.1)) } }

/-- A whole block that is NaN (R37). -/
def nanBlock (l : List (Num × Option Nat)) : BlockOut :=
  { scale := 0xFF, codes := l.map (fun _ => 0), meter := { blocks := 1, elems := l.length } }

/-- A zero block (R41). -/
def zeroBlock (f : Fmt) (ieee : Bool) (l : List (Num × Option Nat)) : BlockOut :=
  let b := convBlock f ieee 0 (1, 0) (l.map (fun x => match x.1 with
    | .fin _ _ _ => (Num.zero, x.2)
    | y => (y, x.2)))
  { b with meter := { blocks := 1, zblk := 1, sat := b.meter.sat } }

/-- A block that has no scale of its own to find: whole-NaN or zero. -/
def plainBlock (f : Fmt) (ieee : Bool) (l : List (Num × Option Nat)) : Option BlockOut :=
  if f.nan.isNone && l.any (fun x => x.1.isNaN) then some (nanBlock l)
  else if l.all (fun x => !x.1.live) then some (zeroBlock f ieee l)
  else none

/-- A magnitude as (m, e); zero for a value that is none. -/
def Num.mag : Num → Nat × Int
  | .fin _ m e => (m, e)
  | _ => (0, 0)

def clampExp (e : Int) : Int := if e < -127 then -127 else if 127 < e then 127 else e

/-- The MX exponent for an amax m × 2^x (R38, R40). -/
def mxExp (f : Fmt) (a : Nat × Int) : Int := clampExp (ceilLog2 a.1 f.maxMag.1 (a.2 - f.maxMag.2))

def mxBlock (f : Fmt) (ieee : Bool) (e : Int) (l : List (Num × Option Nat)) : BlockOut :=
  convBlock f ieee (e + 127).toNat (1, e) l

/-- Conversion-time scaling of an MX block. -/
def mxAuto (f : Fmt) (ieee : Bool) (l : List (Num × Option Nat)) : BlockOut :=
  match plainBlock f ieee l with
  | some b => b
  | none => mxBlock f ieee (mxExp f (finiteMax (l.map (fun x => x.1))).mag) l

/-- The rescue condition of R43 for a block converted with a carried scale. -/
def needsRescue (f : Fmt) (ieee : Bool) (div : Nat × Int) (l : List (Num × Option Nat)) : Bool :=
  let live := l.filter (fun x => x.1.live)
  live.any (fun x => (f.conv ieee x.2 div x.1).2.2) || (!live.isEmpty && live.all (fun x => (f.conv ieee x.2 div x.1).2.1))

def countRescue (b : BlockOut) : BlockOut := { b with meter := { b.meter with resc := 1 } }

/-- Carried scaling of an MX block with exponent e (R42, R43). Only a block that is re-scaled counts as rescued (R41). -/
def mxCarried (f : Fmt) (ieee rescue : Bool) (e : Int) (l : List (Num × Option Nat)) : BlockOut :=
  match plainBlock f ieee l with
  | some b => b
  | none =>
    if rescue && needsRescue f ieee (1, e) l then countRescue (mxAuto f ieee l) else mxBlock f ieee e l

/-! ## FB tiles (R39, R40, R42, R43) -/

/-- The tile scale for an amax: the FP32 code of amax / (emax × 114,688) rounded upward; 1.0 for a zero amax. -/
def tileScale (f : Fmt) (a : Nat × Int) : Nat :=
  if a.1 = 0 then 0x3F800000 else fp32.roundUp a.1 (f.maxMag.1 * 114688) (a.2 - f.maxMag.2)

/-- Block-scale code of a block with amax `a` under tile scale `t` (a magnitude). -/
def fbScale (f : Fmt) (t a : Nat × Int) : Nat := e5m3.roundUp a.1 (t.1 * f.maxMag.1) (a.2 - t.2 - f.maxMag.2)

/-- The divisor s × T. -/
def fbDiv (scale : Nat) (t : Nat × Int) : Nat × Int :=
  let s := e5m3.magOf scale
  (s.1 * t.1, s.2 + t.2)

def fbBlock (f : Fmt) (ieee : Bool) (t : Nat × Int) (l : List (Num × Option Nat)) : BlockOut :=
  match plainBlock f ieee l with
  | some b => b
  | none =>
    let c := fbScale f t (finiteMax (l.map (fun x => x.1))).mag
    convBlock f ieee c (fbDiv c t) l

/-- A tile's blocks under conversion-time scaling: the tile scale and the blocks. -/
def fbAuto (f : Fmt) (ieee : Bool) (bl : List (List (Num × Option Nat))) : Nat × List BlockOut :=
  let t := tileScale f (finiteMax (bl.flatMap (fun l => l.map (fun x => x.1)))).mag
  (t, bl.map (fbBlock f ieee (fp32.magOf t)))

/-- The block meets the rescue condition under a carried tile scale. -/
def fbMeets (f : Fmt) (ieee : Bool) (t : Nat × Int) (l : List (Num × Option Nat)) : Bool :=
  match plainBlock f ieee l with
  | some _ => false
  | none => needsRescue f ieee (fbDiv (fbScale f t (finiteMax (l.map (fun x => x.1))).mag) t) l

/-- A tile's blocks under a carried tile scale. -/
def fbCarried (f : Fmt) (ieee rescue : Bool) (t : Nat) (bl : List (List (Num × Option Nat))) : Nat × List BlockOut :=
  let m := fp32.magOf t
  let meets := bl.map (fbMeets f ieee m)
  if rescue && meets.any id then
    let r := fbAuto f ieee bl
    (r.1, (List.zip r.2 meets).map (fun x => if x.2 then countRescue x.1 else x.1))
  else (t, bl.map (fbBlock f ieee m))

/-! ## A tensor (R26, R40) -/

/-- A converted tensor: element codes with their padding, block scales, tile scales, in storage order; counts; and the
generator after it. -/
structure ConvOut where
  codes : List Nat
  scales : List Nat
  tiles : List Nat
  meter : Meter
  gen : Gen
  deriving DecidableEq, Repr

/-- Draws for every line in order. -/
def drawLines (sr : Bool) : List (List Num) → Gen → List (List (Num × Option Nat)) × Gen
  | [], g => ([], g)
  | l :: t, g =>
    let a := if sr then takeDraws l g else (l.map (fun x => (x, none)), g)
    let b := drawLines sr t a.2
    (a.1 :: b.1, b.2)

def padTo (n : Nat) (l : List Nat) : List Nat := l ++ List.replicate (n - l.length) 0

/-- Rounds up to a multiple. -/
def ceilTo (n k : Nat) : Nat := (n + k - 1) / k * k

/-- The carried amax as a magnitude: A × 2^c (R42). -/
def carriedMag (camax : BitVec 32) (w : BitVec 16) : Nat × Int :=
  match fp32.decode camax.toNat with
  | .fin _ m e => (m, e + cwMargin w)
  | _ => (0, 0)

/-- Converts lines along the blocking dimension under a conversion word. -/
def convertLines (w : BitVec 16) (role : Nat) (camax : BitVec 32) (lines : List (List Num)) (g : Gen) : ConvOut :=
  let f := fmtOf (cwFmt w)
  let ieee := cwIeee w
  let dl := drawLines (cwStochastic w role) lines g
  let total : Meter := { amax := finiteMax (lines.flatMap id) }
  let c := carriedMag camax w
  let carry := cwCarry w && c.1 != 0
  if cwScl w = 0 then
    let b := convBlock f ieee 0 (1, 0) (dl.1.flatMap id)
    { codes := b.codes, scales := [], tiles := [], meter := total.add { b.meter with blocks := 0 }, gen := dl.2 }
  else if cwScl w = 1 then
    let bl := dl.1.map (fun l => (chunks 32 l.length l).map (fun b =>
      if carry then mxCarried f ieee (cwRescue w) (mxExp f c) b else mxAuto f ieee b))
    { codes := bl.flatMap (fun l => l.flatMap (fun b => padTo 32 b.codes)), scales := bl.flatMap (fun l => l.map (fun b => b.scale))
      tiles := [], meter := bl.foldl (fun m l => l.foldl (fun m b => m.add b.meter) m) total, gen := dl.2 }
  else
    let bands := chunks 128 dl.1.length dl.1
    -- per band of 128 lines: per tile column, its scale and the blocks of each line
    let done := bands.map (fun band =>
      let cols := ((band.map (fun l => l.length)).foldl Nat.max 0 + 127) / 128
      (List.range cols).map (fun j =>
        let parts := band.map (fun l => chunks 16 8 ((l.drop (128 * j)).take 128))
        let flat := parts.flatMap id
        let r := if carry then fbCarried f ieee (cwRescue w) (tileScale f c) flat else fbAuto f ieee flat
        (r.1, parts.map (fun p => p.length), r.2)))
    -- blocks of line i of a band, tile after tile
    let lineBlocks := fun (band : List (Nat × List Nat × List BlockOut)) (i : Nat) =>
      band.flatMap (fun t => (t.2.2.drop ((t.2.1.take i).foldl (· + ·) 0)).take (t.2.1.getD i 0))
    let bl := (List.zip bands done).flatMap (fun x => (List.range x.1.length).map (lineBlocks x.2))
    { codes := bl.flatMap (fun l => l.flatMap (fun b => padTo 16 b.codes)), scales := bl.flatMap (fun l => l.map (fun b => b.scale))
      tiles := done.flatMap (fun b => b.map (fun t => t.1))
      meter := bl.foldl (fun m l => l.foldl (fun m b => m.add b.meter) m) total, gen := dl.2 }

/-! ## Hi and lo parts (R23) -/

/-- BF16 codes of hi and lo of an FP32 element. -/
def splitHiLo (x : Num) : Nat × Nat :=
  match x with
  | .nan => (0x7FC0, 0)
  | .inf s => (bf16.overflow true s, 0)
  | x =>
    let hi := bf16.rne false x
    (hi, bf16.rne false (x.add (bf16.decode hi).negate))

/-- The Sieve's counts of a split: ELEMS, AMAX and HIST only (R140). -/
def splitMeter (l : List Num) : Meter :=
  { amax := finiteMax l, elems := l.length, hist := histOf bf16 (1, 0) l }

/-! ## G16 (R37, R44) -/

/-- A dW value under scale exponent s with its draw: the code, and whether it was clamped. -/
def g16Conv (s : Int) (draw : Nat) : Num → Nat × Bool
  | .nan => (0, false)
  | x =>
    let r := (fmtOf 0xD).conv false (some draw) (1, s) x
    (r.1, r.2.2)

/-! ## Packing (R25) -/

/-- Element codes of a width packed from bit 0 upward, to whole bytes. -/
def packBits (width : Nat) (l : List Nat) : List Byte :=
  if width % 8 = 0 then l.flatMap (leBytes (width / 8))
  else
    -- 8 elements fill `width` bytes
    (chunks 8 l.length l).flatMap (fun c =>
      leBytes ((c.length * width + 7) / 8) (c.reverse.foldl (fun v x => v * 2 ^ width + x % 2 ^ width) 0))

/-- `n` element codes read back. -/
def unpackBits (width n : Nat) (b : List Byte) : List Nat :=
  if width % 8 = 0 then (List.range n).map (fun i => leNat ((b.drop (i * (width / 8))).take (width / 8)))
  else
    ((chunks width (n / 8 + 1) b).flatMap (fun c =>
      let v := leNat c
      (List.range 8).map (fun j => v / 2 ^ (width * j) % 2 ^ width))).take n

end Sys2Proof.Machine
end

