-- ==== Sys2Proof/Machine/Approx.lean ====
section
/-! DEFINITION. The functions of the Whisk and of the update engines that are accurate to some units in the last place
(06_task_engines_and_whisk.md R128, 09_kneader.md R196): their values in fixed point, and the codes that lie within a bound of a value. -/

namespace Sys2Proof.Machine

/-- Square root of a natural number, rounded down, from its highest bit. -/
def isqrt (bits n : Nat) : Nat :=
  (List.range bits).foldl (fun r i =>
    let c := r + 2 ^ (bits - 1 - i)
    if c * c ≤ n then c else r) 0

/-! ## Fixed point -/

/-- Bits behind the point. Every value below is computed to far more bits than any format holds. -/
def fixBits : Nat := 512
def fixOne : Int := 2 ^ fixBits

def fixMul (a b : Int) : Int := a * b / fixOne
def fixDiv (a b : Int) : Int := a * fixOne / b

/-- The sum of a series from its first term, each further one formed from its number and the one before. -/
def series (n : Nat) (first : Int) (next : Nat → Int → Int) : Int :=
  ((List.range n).foldl (fun (a : Int × Int) (k : Nat) =>
    let t := next (k + 1) a.2
    (a.1 + t, t)) (first, first)).1

/-- e^r for r from 0 to 1. -/
def fixExp (r : Int) : Int := series 120 fixOne (fun k t => fixMul t r / k)

/-- A series of odd powers of t, each divided by its exponent: artanh, or arctan where the signs alternate. -/
def oddSeries (n : Nat) (alternate : Bool) (t : Int) : Int :=
  let q := fixMul t t
  ((List.range n).foldl (fun (a : Int × Int) (k : Nat) =>
    (a.1 + a.2 / (2 * k + 1), fixMul a.2 (if alternate then -q else q))) (0, t)).1

def fixLn2 : Int := 2 * oddSeries 180 false (fixOne / 3)

/-- ln m for m from 1 to 2. -/
def fixLn (m : Int) : Int := 2 * oddSeries 180 false (fixDiv (m - fixOne) (m + fixOne))

def fixPi : Int := 16 * oddSeries 130 true (fixOne / 5) - 4 * oddSeries 60 true (fixOne / 239)

/-- sin x and cos x for x of magnitude pi at most. -/
def fixSin (x : Int) : Int := series 90 x (fun k t => -(fixMul (fixMul t x) x) / (2 * k * (2 * k + 1)))
def fixCos (x : Int) : Int := series 90 fixOne (fun k t => -(fixMul (fixMul t x) x) / (2 * k * (2 * k - 1)))

/-- erf t for t from 0 to 11. -/
def fixErf (t : Int) : Int :=
  let q := fixMul t t
  let s := (List.range 700).foldl (fun (a : Int × Int) (k : Nat) => (a.1 + a.2 / (2 * k + 1), -(fixMul a.2 q) / (k + 1))) (0, t)
  fixDiv (2 * s.1) (isqrt 520 (fixPi * fixOne).toNat)

/-! ## Values of the functions -/

/-- A magnitude m × 2^e in fixed point. -/
def fixOf (m : Nat) (e : Int) : Int := m * pow2 (e + fixBits) / pow2 (-(e + fixBits))

def numOfFix (z : Int) : Num := .fin (decide (z < 0)) z.natAbs (-(fixBits : Int))

/-- e^y, or 2^y where `two`, for a magnitude of y below 4,096: the factor and the power of two. -/
def expParts (two : Bool) (y : Int) : Int × Int :=
  if two then (fixExp (fixMul (y % fixOne) fixLn2), y / fixOne) else (fixExp (y % fixLn2), y / fixLn2)

/-- The same as a fixed-point number, for a power that fits. -/
def fixPower (y : Int) : Int :=
  let r := expParts false y
  r.1 * pow2 r.2 / pow2 (-r.2)

/-- A value so small, or so large, that every format flushes it, or lets it overflow. -/
def numTiny (neg : Bool) : Num := .fin neg 1 (-8000)
def numHuge : Num := .fin false 1 8000

/-- The value of a function; none where its result is not stated: an infinite operand, a logarithm of no positive number, an angle beyond
2^16. GELU is x times the normal distribution's integral, SiLU x times the sigmoid (entry 12). -/
def whiskValue (k : WhiskFn) : Num → Option Num
  | .fin s m e =>
    let size := if m = 0 then -8000 else (Nat.log2 m : Int) + e
    let y := fixOf m e
    let x := if s then -y else y
    let odd := fun (v : Int) => some (numOfFix (if s then -v else v))
    let power := fun (two : Bool) =>
      if 12 ≤ size then some (if s then numTiny false else numHuge)
      else
        let r := expParts two x
        some (.fin false r.1.toNat (r.2 - fixBits))
    let logged := fun (f : Int → Int) =>
      if s ∨ m = 0 then none else some (numOfFix (f (fixOf m (-(Nat.log2 m : Int)))))
    let half := fixDiv (fixPower (-y)) (fixOne + fixPower (-y))
    match k with
    | .recip | .rsqrt => none
    | .exp2 => power true
    | .exp => power false
    | .log2 => logged (fun v => size * fixOne + fixDiv (fixLn v) fixLn2)
    | .log => logged (fun v => size * fixLn2 + fixLn v)
    | .tanh =>
      if m = 0 then some (.fin s 0 0)
      else if 6 ≤ size then odd (fixOne - 1)
      else odd (fixDiv (fixPower (2 * y) - fixOne) (fixPower (2 * y) + fixOne))
    | .sigmoid =>
      if 8 ≤ size then some (if s then numTiny false else numOfFix (fixOne - 1))
      else some (numOfFix (if s then half else fixOne - half))
    | .erf => if m = 0 then some (.fin s 0 0) else if 11 * fixOne ≤ y then odd (fixOne - 1) else odd (fixErf y)
    | .gelu =>
      let t := fixDiv y (isqrt 1030 (2 * fixOne * fixOne).toNat)
      if m = 0 then some (.fin s 0 0)
      else if 11 * fixOne ≤ t then some (if s then numTiny true else .fin false (m * 2 ^ fixBits - 1) (e - fixBits))
      else some (numOfFix (x * (fixOne + (if s then -fixErf t else fixErf t)) / (2 * fixOne)))
    | .silu =>
      if m = 0 then some (.fin s 0 0)
      else if 8 ≤ size then some (if s then numTiny true else .fin false (m * 2 ^ fixBits - 1) (e - fixBits))
      else some (numOfFix (x * (if s then half else fixOne - half) / fixOne))
    | .sin | .cos =>
      if 65536 * fixOne < y then none
      else if m = 0 then some (if k = .sin then .fin s 0 0 else .fin false 1 0)
      else
        let a := x % (2 * fixPi)
        let a := if fixPi < a then a - 2 * fixPi else a
        some (numOfFix (if k = .sin then fixSin a else fixCos a))
  | _ => none

/-! ## Codes within a bound (R128) -/

/-- A code within `b` units in the last place of n / d × 2^e, which `pick` chooses among them; a value beyond the largest finite one
overflows. -/
def Fmt.within (f : Fmt) (b pick : Nat) (neg : Bool) (n d : Nat) (e : Int) : Nat :=
  let r := f.roundMag none false n d e
  if n = 0 then f.signed neg 0
  else if r.2 then f.overflow true neg
  else
    let v := f.magOf r.1
    let value := n * pow2 (e - v.2)
    let code := v.1 * d * pow2 (v.2 - e)
    let low := if value < code then r.1 - 1 else r.1
    let c := if value = code then low + pick % (2 * b + 1) - b else low + 1 + pick % (2 * b) - b
    f.signed neg (min c (f.maxCode + 1))

/-- 1 / sqrt(m × 2^e) as n × 2^-(fixBits + 1 + h). -/
def rsqrtParts (m : Nat) (e : Int) : Nat × Int :=
  let q := m * pow2 (e % 2)
  let r := isqrt (fixBits + 1) (2 ^ (2 * fixBits) / q)
  (2 * r + (if r * r * q = 2 ^ (2 * fixBits) then 0 else 1), -(fixBits : Int) - 1 - e / 2)

/-- The reciprocal square root to 1 unit in the last place. -/
def Fmt.rsqrtBy (f : Fmt) (pick a : Nat) : Nat :=
  match f.decode a with
  | .nan => f.rne true .nan
  | .inf s => if s then f.rne true .nan else f.signed false 0
  | .fin s m e =>
    if m = 0 then f.rne true (.inf s)
    else if s then f.rne true .nan
    else f.within 1 pick false (rsqrtParts m e).1 1 (rsqrtParts m e).2

/-- The reciprocal to 1 unit in the last place. -/
def Fmt.recipBy (f : Fmt) (pick a : Nat) : Nat :=
  match f.decode a with
  | .nan => f.rne true .nan
  | .inf s => f.signed s 0
  | .fin s m e => if m = 0 then f.rne true (.inf s) else f.within 1 pick s 1 m (-e)

/-- Units in the last place by which a function may err; FP64 has exp2 and log2 alone (R128). -/
def whiskBound (k : WhiskFn) (wide : Bool) : Nat :=
  match k with
  | .recip | .rsqrt => 1
  | .exp2 | .log2 => if wide then 1 else 2
  | _ => 4

/-- The function has no FP64 form (R128). -/
def narrowOnly : WhiskFn → Bool
  | .recip | .rsqrt | .exp2 | .log2 => false
  | _ => true

/-- A function of the last groups of R128. -/
def Fmt.approx (f : Fmt) (k : WhiskFn) (wide : Bool) (a : Nat) : Nat :=
  let pick := Config.whiskUlp k wide (BitVec.ofNat 64 a)
  match k with
  | .recip => f.recipBy pick a
  | .rsqrt => f.rsqrtBy pick a
  | k =>
    if (f.decode a).isNaN then f.rne true .nan
    else
      match whiskValue k (f.decode a) with
      | some (.fin s m e) => f.within (whiskBound k wide) pick s m 1 e
      | _ => (Config.whiskApprox k wide (BitVec.ofNat 64 a)).toNat % 2 ^ f.width

end Sys2Proof.Machine
end

