-- ==== Sys2Proof/Machine/Sieve.lean ====
section
/-! DEFINITION. The Sieve's statistics (07_precision_steering.md R139 to R141): the 128-byte records of the steering
region, the lines of each rack's cache, and the merge of a line into its record. -/

namespace Sys2Proof.Machine

/-! ## Records (R139) -/

/-- The 128 bytes of a record. -/
def statBytes (r : StatRec) : List Byte :=
  leBytes 4 r.step.toNat ++ leBytes 4 ((if r.hasData then 1 else 0) + (if r.late then 2 else 0)) ++
    leBytes 4 r.amax.toNat ++ leBytes 4 r.blocks ++ leBytes 8 r.elems ++ leBytes 4 r.zblk ++ leBytes 4 r.flush ++
    leBytes 4 r.sat ++ leBytes 4 r.resc ++ (List.range 16).flatMap (fun i => leBytes 4 (r.hist.getD i 0)) ++
    leBytes 8 r.pdiff.toNat ++ leBytes 8 r.pref.toNat ++ leBytes 2 r.pcount ++ leBytes 2 r.pskip ++ leBytes 4 0

/-- The record that 128 bytes hold. -/
def statOf (b : List Byte) : StatRec :=
  let v := fun o n => leNat ((b.drop o).take n)
  { step := BitVec.ofNat 32 (v 0 4), hasData := (v 4 4).testBit 0, late := (v 4 4).testBit 1
    amax := BitVec.ofNat 32 (v 8 4), blocks := v 12 4, elems := v 16 8, zblk := v 24 4, flush := v 28 4, sat := v 32 4
    resc := v 36 4, hist := (List.range 16).map (fun i => v (40 + 4 * i) 4)
    pdiff := BitVec.ofNat 64 (v 104 8), pref := BitVec.ofNat 64 (v 112 8), pcount := v 120 2, pskip := v 122 2 }

/-- A count saturates at its largest value. -/
def satN (w n : Nat) : Nat := min n (2 ^ w - 1)

/-- FP64 addition under IEEE 754 with RNE (R129). -/
def fp64Add (a b : BitVec 64) : BitVec 64 :=
  BitVec.ofNat 64 (fp64.rne true ((fp64.decode a.toNat).add (fp64.decode b.toNat)))

/-- FP32 magnitudes order as their codes. -/
def maxBits (a b : BitVec 32) : BitVec 32 := if a.toNat < b.toNat then b else a

/-- A line joins a record of the same step (R141). -/
def StatRec.join (a b : StatRec) : StatRec :=
  { step := b.step, hasData := true, late := a.late || b.late, amax := maxBits a.amax b.amax
    blocks := satN 32 (a.blocks + b.blocks), elems := satN 64 (a.elems + b.elems), zblk := satN 32 (a.zblk + b.zblk)
    flush := satN 32 (a.flush + b.flush), sat := satN 32 (a.sat + b.sat), resc := satN 32 (a.resc + b.resc)
    hist := (addLists a.hist b.hist).map (satN 32), pdiff := fp64Add a.pdiff b.pdiff, pref := fp64Add a.pref b.pref
    pcount := satN 16 (a.pcount + b.pcount), pskip := satN 16 (a.pskip + b.pskip) }

/-- A record of another step, or one without data, is cleared first (R141). -/
def StatRec.merge (old line : StatRec) : StatRec :=
  if old.hasData && old.step == line.step then old.join line else ({} : StatRec).join line

/-- What a conversion adds, as a line. -/
def Meter.line (m : Meter) (step : Step) : StatRec :=
  { step := step, hasData := true, amax := BitVec.ofNat 32 (fp32.rne false m.amax), blocks := m.blocks, elems := m.elems
    zblk := m.zblk, flush := m.flush, sat := m.sat, resc := m.resc, hist := m.hist }

/-! ## The steering region -/

/-- An entry is steered or carries its scale (R139). -/
def recorded (e : LedgerEntry) : Bool := e.state != .fixed || cwCarry e.cwE || cwCarry e.cwO

/-- Lowest and highest index of a partition's range that keeps records. -/
def State.statRange (s : State) (p : Nat) : Option (Nat × Nat) :=
  match s.slice p with
  | none => none
  | some c =>
    let l := (s.gov.ledger.filter (fun e =>
      c.part.lfirst ≤ e.1 / 8 && e.1 / 8 ≤ c.part.llast && recorded e.2)).map (fun e => e.1)
    match l.head?, l.getLast? with
    | some a, some b => some (a, b)
    | _, _ => none

/-- The steering region of a partition. -/
def State.steerRegion (s : State) (p : Nat) : Option RegionRec :=
  (s.slice p).bind (fun c => c.regions.find? (fun r => r.kind == .steering))

/-- Address of the record of an index and a step parity; none where the index keeps none. -/
def State.statAddr (s : State) (p i par : Nat) : Option Nat :=
  match s.statRange p, s.steerRegion p with
  | some (lo, hi), some r => if lo ≤ i ∧ i ≤ hi then some (r.base + 256 * (i - lo) + 128 * par) else none
  | _, _ => none

/-- The Governor's merge unit, as a requester. -/
def mergeUnit (p : Nat) : Who := .agent .mergeUnit 0 p

/-- The record of an index and a step parity; one that cannot be read counts as cleared (10_hbm_memory.md R211). -/
def State.statRec (s : State) (p i par : Nat) : Option StatRec :=
  (s.statAddr p i par).map (fun a => if (s.accessErr (mergeUnit p) false a 128).isSome then {} else statOf (s.readBytes a 128))

/-- A checked read of a record: one that fails is logged, and the record is cleared (R211; entry 165). -/
def State.readStat (s : State) (p a : Nat) : State × StatRec :=
  let r := s.read (mergeUnit p) a 128
  match r.2 with
  | .error _ => ((r.1.write (mergeUnit p) a (statBytes {})).1, {})
  | .ok b => (r.1, statOf b)

/-- The checked reads of the records of a list of indexes at a step parity. -/
def State.checkStats (s : State) (p par : Nat) (l : List Nat) : State :=
  overAll l (fun i u => match u.statAddr p i par with
    | some a => (u.readStat p a).1
    | none => u) s

/-- The Governor's merge unit merges a line into its record; where the record cannot be read it is cleared (R90, R141, R211). -/
def State.mergeStat (s : State) (p i : Nat) (line : StatRec) : State :=
  match s.statAddr p i (line.step.toNat % 2) with
  | none => s
  | some a =>
    let r := s.readStat p a
    (r.1.write (mergeUnit p) a (statBytes (r.2.merge line))).1

/-! ## A rack's cache (R141) -/

/-- Lines of a rack's cache. -/
def sieveLines : Nat := 512

/-- Key of a cache line. -/
def lineKey (i : Nat) (step : Step) : Nat := 2 * i + step.toNat % 2

/-- A line leaves a rack's cache and is merged. -/
def State.evict (s : State) (n key : Nat) : State :=
  match tfind (s.rack n).sieve key, s.partOf n with
  | some l, some p => (s.modRack n (fun r => { r with sieve := terase r.sieve key })).mergeStat p (key / 2) l
  | _, _ => s

/-- Makes room for a line. -/
def State.makeLine (s : State) (n key : Nat) : State :=
  match tfind (s.rack n).sieve key with
  | some _ => s
  | none =>
    if (s.rack n).sieve.length < sieveLines then s
    else
      match (s.rack n).sieve with
      | [] => s
      | e :: _ => s.evict n e.1

/-- Adds to a rack's line of an entry; an entry that keeps no records is not measured. -/
def State.addLine (s : State) (n i : Nat) (l : StatRec) : State :=
  match (s.partOf n).bind (fun p => s.statAddr p i (l.step.toNat % 2)) with
  | none => s
  | some _ =>
    let key := lineKey i l.step
    let t := match tfind (s.rack n).sieve key with
      | some o => if o.step = l.step then s else s.evict n key
      | none => s
    let t := t.makeLine n key
    let old : StatRec := (tfind (t.rack n).sieve key).getD {}
    t.modRack n (fun r => { r with sieve := tput (terase r.sieve key) key (old.merge l) })

/-- The Sieve measures a conversion in rack n for the entry with index i (R107, R139). -/
def State.measure (s : State) (n i : Nat) (step : Step) (m : Meter) : State := s.addLine n i (m.line step)

end Sys2Proof.Machine
end

