-- ==== Sys2Proof/Machine/Tile.lean ====
section
/-! DEFINITION. What a tile operation computes: address programs (05_feeders.md R101 to R104), staging windows (R95,
R96), operand pairs with their rates (03_grains_and_fusion.md R50 to R55, R67, R69), and the arithmetic of Troughs, trees
and accumulators (R56 to R66). -/

namespace Sys2Proof.Machine

/-! ## Address programs (R101) -/

structure LoopRec where
  count : Nat
  tdiv : Nat
  role : Nat
  estride : Int
  sstride : Int
  tstride : Int
  deriving DecidableEq, Repr

structure DimRec where
  size : Nat
  ostart : Nat
  stride : Nat
  dil : Nat
  padlo : Nat
  pitch : Nat
  deriving DecidableEq, Repr

structure Prog where
  base : Nat
  conv : Bool
  run : Nat
  sbase : Nat
  tbase : Nat
  loops : List LoopRec
  dims : List DimRec
  sfmt : Nat
  wide : Bool
  rsvOk : Bool
  deriving DecidableEq, Repr

/-- Two's-complement value of the low `w` bits. -/
def signedOf (w v : Nat) : Int := if v % 2 ^ w < 2 ^ (w - 1) then (v % 2 ^ w : Nat) else (v % 2 ^ w : Nat) - (2 ^ w : Nat)

def progBytes : Nat := 160

/-- The program that 160 bytes spell. -/
def progOf (b : List Byte) : Prog :=
  let w := fun i => leNat ((b.drop (8 * i)).take 8)
  let run := fieldOf (w 0) 63 52
  let conv := fieldOf (w 0) 51 48 == 1
  { base := fieldOf (w 0) 47 0, conv := conv, run := if run = 0 then 4096 else run
    sbase := fieldOf (w 1) 47 0, tbase := fieldOf (w 2) 47 0
    loops := (List.range 5).map (fun i =>
      let a := w (3 + 2 * i)
      let c := w (4 + 2 * i)
      { count := fieldOf a 15 0, tdiv := fieldOf a 18 16, role := fieldOf a 21 19, estride := signedOf 42 (a >>> 22)
        sstride := signedOf 40 c, tstride := signedOf 24 (c >>> 40) })
    dims := (List.range 3).map (fun j =>
      let a := w (13 + 2 * j)
      { size := fieldOf a 15 0, ostart := fieldOf a 31 16, stride := fieldOf a 35 32, dil := fieldOf a 39 36
        padlo := fieldOf a 47 40, pitch := fieldOf (w (14 + 2 * j)) 47 0 })
    sfmt := fieldOf (w 19) 3 0, wide := (w 19).testBit 4
    rsvOk := fieldOf (w 0) 51 48 ≤ 1 && fieldOf (w 1) 63 48 == 0 && fieldOf (w 2) 63 48 == 0 && fieldOf (w 19) 63 5 == 0 &&
      (!conv || (List.range 3).all (fun j => fieldOf (w (13 + 2 * j)) 63 48 == 0 && fieldOf (w (14 + 2 * j)) 63 48 == 0)) }

def Prog.runs (p : Prog) : Nat := p.loops.foldl (fun n l => n * l.count) 1
/-- Elements that a program yields (R102). -/
def Prog.count (p : Prog) : Nat := p.run * p.runs

/-- One contiguous run: its element, block-scale and tile-scale addresses; none for padding (R103). -/
structure RunRec where
  elem : Option Nat
  scale : Nat
  tile : Nat
  deriving DecidableEq, Repr

/-- Loop indices of run number `r`, loop 0 innermost. -/
def Prog.indices (p : Prog) (r : Nat) : List Nat :=
  (p.loops.foldl (fun (acc : List Nat × Nat) l => (acc.1 ++ [acc.2 % l.count], acc.2 / l.count)) ([], r)).1

/-- An address that a walk forms: a sum below 0 lies outside the address space, where no place answers (01_architecture.md R16). -/
def walkAddr (a : Int) : Nat := if a < 0 then 2 ^ 48 else a.toNat

/-- The run at given loop indices, for elements of a width in bits. -/
def Prog.runAt (p : Prog) (width : Nat) (ix : List Nat) : RunRec :=
  let li := List.zip p.loops ix
  let plain := li.filter (fun x => !p.conv || x.1.role == 0)
  let e := plain.foldl (fun (a : Int) x => a + x.2 * x.1.estride) (p.base : Int)
  let sc := plain.foldl (fun (a : Int) x => a + x.2 * x.1.sstride) (p.sbase : Int)
  let t := li.foldl (fun (a : Int) x => a + (x.2 / 2 ^ x.1.tdiv : Nat) * x.1.tstride) (p.tbase : Int)
  if !p.conv then { elem := some (walkAddr e), scale := walkAddr sc, tile := walkAddr t }
  else
    let named := fun role => ((li.find? (fun x => x.1.role == role)).map (fun x => x.2)).getD 0
    let cs : List (Int × DimRec) := p.dims.zipIdx.map (fun d =>
      (((d.1.ostart + named (1 + d.2)) * (d.1.stride + 1) + named (4 + d.2) * (d.1.dil + 1) : Nat) - (d.1.padlo : Int), d.1))
    if cs.all (fun c => decide (0 ≤ c.1 ∧ c.1 < c.2.size)) then
      let o := cs.foldl (fun (a : Int) c => a + c.1 * c.2.pitch) 0
      { elem := some (walkAddr (e + o))
        scale := walkAddr (cs.foldl (fun (a : Int) c => a + c.1 * ((c.2.pitch * 8 / (width * 32) : Nat) : Int)) sc), tile := walkAddr t }
    else { elem := none, scale := 0, tile := 0 }

/-- A program whose base addresses are offsets from an address. -/
def Prog.from (p : Prog) (a : Nat) : Prog := { p with base := p.base + a, sbase := p.sbase + a, tbase := p.tbase + a }

/-- The highest address behind the bytes of a strided program's elements and scales. -/
def Prog.reach (p : Prog) (width blk : Nat) (fb : Bool) : Nat :=
  let far := fun (f : LoopRec → Int) => p.loops.foldl (fun (a : Int) l => a + max 0 (((l.count - 1 : Nat) : Int) * f l)) 0
  let e := (p.base + far (fun l => l.estride)).toNat + (p.run * width + 7) / 8
  let s := (p.sbase + far (fun l => l.sstride)).toNat + (if blk = 0 then 0 else (p.run + blk - 1) / blk)
  let t := (p.tbase + p.loops.foldl (fun (a : Int) l => a + max 0 ((((l.count - 1) / 2 ^ l.tdiv : Nat) : Int) * l.tstride)) 0).toNat + 4
  max e (max (if blk = 0 then 0 else s) (if fb then t else 0))

/-- Every run in order. -/
def Prog.walk (p : Prog) (width : Nat) : List RunRec := (List.range p.runs).map (fun r => p.runAt width (p.indices r))

/-- What a generator checks when it starts a program (R104): `count` the stager-order count where there is one, the
scaling and width of what it walks, the line length along the reduction dimension, whether it serves operand B, and the
latched format where it is a fill source program. -/
def Prog.bad (p : Prog) (count : Option Nat) (scl width line : Nat) (isB : Bool) (source : Option Nat) : Bool :=
  let blk := blockOf scl
  let unit := blk * width / 8
  let roles := (p.loops.map (fun l => l.role)).filter (fun r => r != 0)
  !p.rsvOk || p.loops.any (fun l => l.role == 7 || l.count == 0) ||
    (match count with
     | some c => p.count != c
     | none => false) ||
    (p.conv && (scl == 2 || isB || roles.any (fun r => (roles.filter (fun x => x == r)).length != 1) ||
      p.dims.any (fun d => d.size == 0 || d.pitch * 8 % (width * 32) != 0))) ||
    (p.wide &&
      (match source with
       | none => true
       | some f => !(p.sfmt == 7 || p.sfmt == 8 || p.sfmt == 11) || (fmtOf p.sfmt).width ≤ (fmtOf f).width || f == 9 || f == 10)) ||
    (blk != 0 && (p.run % blk != 0 ||
      (p.walk width).any (fun r => match r.elem with
        | some a => (a + unit * 2 ^ 48 - p.base) % unit != 0
        | none => false))) ||
    (scl == 2 && (List.range p.runs).any (fun r => (r * p.run % line) % 128 + p.run > 128))

/-! ## Operand pairs (R50 to R55, R67, R69) -/

/-- How products accumulate (R56 to R64): by scale block, exactly over the whole reduction, in a tree with a window of
so many bits, or by fused multiply-add. -/
inductive AccKind where
  | block
  | exact
  | tree (window : Nat)
  | fma
  deriving DecidableEq, Repr

/-- A pair's slice depth d, output columns of a tray, passes, accumulation, latency L of R69, fusion, and its MAC event
(22_observation.md R392). Fusion is named by the Grain square. -/
structure PairInfo where
  d : Nat
  cols : Nat := 32
  passes : Nat := 1
  kind : AccKind
  lat : Nat
  fusion : Nat
  mac : Nat
  deriving DecidableEq, Repr

def oneGrain (f : Nat) : Bool := f == 0 || f == 2 || f == 3 || f == 4 || f == 5
def split16 (f : Nat) : Bool := f == 9 || f == 10

/-- Passes of a BF16 pair (R67). -/
def bfPasses (a b : Nat) : Option Nat :=
  if a = 7 ∧ b = 7 then some 1
  else if (split16 a ∧ b = 7) ∨ (a = 7 ∧ split16 b) then some 2
  else if a = 10 ∧ b = 10 then some 3
  else none

/-- The pair of two conversion words; none where R29 or R52 makes it invalid. -/
def pairInfo (wa wb : BitVec 16) : Option PairInfo :=
  let a := cwFmt wa
  let b := cwFmt wb
  if cwInvalid wa || cwInvalid wb || cwScl wa != cwScl wb then none
  else if a = 0 ∧ b = 0 then some { d := 256, kind := .block, lat := 8, fusion := 1, mac := 0x10 }
  else if a = 1 ∧ b = 1 then some { d := 256, kind := .block, lat := 8, fusion := 1, mac := 0x11 }
  else if oneGrain a && oneGrain b then
    if cwScl wa = 0 then some { d := 128, kind := .exact, lat := 6, fusion := 2, mac := 0x12 }
    else some { d := 128, kind := .block, lat := 8, fusion := 2, mac := 0x12 }
  else if a = 6 ∧ b = 6 then some { d := 32, kind := .block, lat := 8, fusion := 3, mac := 0x13 }
  else if a = 8 ∧ b = 8 then some { d := 14, kind := .tree 27, lat := 8, fusion := 4, mac := 0x17 }
  else if a = 11 ∧ b = 11 then some { d := 3, kind := .tree 51, lat := 9, fusion := 5, mac := 0x18 }
  else if a = 12 ∧ b = 12 then some { d := 1, cols := 16, kind := .fma, lat := 9, fusion := 6, mac := 0x19 }
  else (bfPasses a b).map (fun n => { d := 32, passes := n, kind := .tree 27, lat := 8, fusion := 3, mac := 0x13 + n })

/-- The accumulator entry is FP64 (R59). -/
def PairInfo.wide (p : PairInfo) : Bool := p.kind == .fma

/-- Width in bits of an element as it is staged; codes 0x9 and 0xA lie as BF16 planes (R95). -/
def stagedWidth (f : Nat) : Nat := if split16 f then 16 else (fmtOf f).width

/-- Bytes of one A row or one lane slice as read in one pass, block scales included (R98). -/
def sliceBytes (w : BitVec 16) (d : Nat) : Nat :=
  let blk := blockOf (cwScl w)
  (d * stagedWidth (cwFmt w) + 7) / 8 + (if blk = 0 then 0 else d / blk)

/-- Demand D (R98): twice the A bytes in convolution mode, and g × 32 × b / max(M, 16) rounded up. -/
def demandOf (a b g m : Nat) (conv : Bool) : Nat :=
  (if conv then 2 else 1) * a + (g * 32 * b + max m 16 - 1) / max m 16

/-- The rack's budget for stager reads (R98). -/
def stagerBudget : Nat := 3584

/-- Broadcast cycles (R54). -/
def broadcastCycles (k m d passes : Nat) : Nat := (k + d - 1) / d * max m 16 * passes

/-! ## Staging windows (R95) -/

def up64 (n : Nat) : Nat := ceilTo n 64

/-- Offsets of a window's arrays for `lines` lines of `depth` elements: lo plane, block scales, tile scales, end. -/
structure Layout where
  lo : Nat
  scale : Nat
  tile : Nat
  stop : Nat
  deriving DecidableEq, Repr

def layoutOf (w : BitVec 16) (lines depth : Nat) : Layout :=
  let f := cwFmt w
  let plane := (lines * depth * stagedWidth f + 7) / 8
  let lo := up64 plane
  let e := if split16 f then lo + plane else plane
  let blk := blockOf (cwScl w)
  let sc := up64 e
  let e2 := if blk = 0 then e else sc + lines * (depth / blk)
  let tl := up64 e2
  let e3 := if cwScl w = 2 then tl + 4 * ((lines + 127) / 128) * ((depth + 127) / 128) else e2
  { lo := lo, scale := sc, tile := tl, stop := e3 }

/-- A staging window of a rack. -/
def State.stageWin (s : State) (n win : Nat) : Option WinRec :=
  ((s.partOf n).bind (fun p => s.slice p)).bind (fun c => c.windows.find? (fun x => x.rack.val == n && x.win == win))

/-- A window's first address. -/
def winAddr (n : Nat) (x : WinRec) : Nat := rackBase + n * rackStride + x.base % rackStride

/-! ## Operands -/

/-- A run of reduction elements with its scales: a scale block, or one slice where there is none. `lo` is the second
plane of codes 0x9 and 0xA. -/
structure Chunk where
  els : List Num
  lo : List Num := []
  scale : Num := .fin false 1 0
  tile : Num := .fin false 1 0
  deriving DecidableEq, Repr

/-- The value of a block-scale code (R38, R39). -/
def scaleVal (scl c : Nat) : Num :=
  if c = 0xFF then .nan
  else if scl = 1 then .fin false 1 ((c : Int) - 127)
  else .fin false (e5m3.magOf c).1 (e5m3.magOf c).2

/-- The chunks of one line from its element codes, block scales and tile scales by column of tiles. -/
def lineChunks (w : BitVec 16) (d : Nat) (codes lo scales tiles : List Nat) : List Chunk :=
  let f := cwFmt w
  let blk := blockOf (cwScl w)
  let ef := if split16 f then bf16 else fmtOf f
  let n := if blk = 0 then d else blk
  let parts := chunks n codes.length codes
  let los := chunks n lo.length lo
  parts.zipIdx.map (fun x =>
    { els := x.1.map ef.decode
      lo := (los.getD x.2 []).map bf16.decode
      scale := if blk = 0 then .fin false 1 0 else scaleVal (cwScl w) (scales.getD x.2 0)
      tile := if cwScl w = 2 then fp32.decode (tiles.getD (x.2 * blk / 128) 0x3F800000) else .fin false 1 0 })

/-- The lines that a window's arrays hold in stager order: element codes, the second plane of codes 0x9 and 0xA, block scales and tile
scales of `lines` lines of `depth` elements. -/
def windowLines (w : BitVec 16) (lines depth d : Nat) (codes lo scales tiles : List Nat) : List (List Chunk) :=
  let nb := if blockOf (cwScl w) = 0 then 0 else depth / blockOf (cwScl w)
  let tc := (depth + 127) / 128
  (List.range lines).map (fun i =>
    lineChunks w d ((codes.drop (i * depth)).take depth) ((lo.drop (i * depth)).take depth)
      ((scales.drop (i * nb)).take nb) ((tiles.drop (i / 128 * tc)).take tc))

/-- The lines that the bytes of a window spell (R95). -/
def windowOfBytes (b : List Byte) (w : BitVec 16) (lines depth d : Nat) : List (List Chunk) :=
  let f := cwFmt w
  let l := layoutOf w lines depth
  let wd := stagedWidth f
  let total := lines * depth
  let nb := if blockOf (cwScl w) = 0 then 0 else depth / blockOf (cwScl w)
  windowLines w lines depth d (unpackBits wd total b) (if split16 f then unpackBits wd total (b.drop l.lo) else [])
    (((b.drop l.scale).take (lines * nb)).map (fun x => x.toNat))
    (if cwScl w = 2 then unpackBits 32 ((lines + 127) / 128 * ((depth + 127) / 128)) (b.drop l.tile) else [])

/-! ## Troughs, trees and accumulators -/

/-- The exact sum of products (R56, R57, R61). -/
def dotExact (a b : List Num) : Num := (List.zipWith Num.mul a b).foldl Num.add .zero

/-- A value's zero taken as +0: an integer sum has no signed zero. -/
def Num.unsignedZero : Num → Num
  | .fin s m e => if m = 0 then .zero else .fin s m e
  | x => x

/-- Rounds to a 24-bit significand with an unbounded exponent, to nearest even (R60). -/
def round24 : Num → Num
  | .fin s m e =>
    if m = 0 then .fin s 0 0
    else
      let q := floorLog2 m 1 e - 23
      let num := m * pow2 (e - q)
      let den := pow2 (q - e)
      let k := num / den
      let r := num % den
      .fin s (k + (if den < 2 * r ∨ (2 * r = den ∧ k % 2 = 1) then 1 else 0)) q
  | x => x

/-- What a completed block adds: trough × s_A × s_B × P; a flagged Trough enters as its NaN or infinity (R60). -/
def blockTerm (a b : Chunk) : Num :=
  if a.scale.isNaN || b.scale.isNaN then .nan
  else
    match dotExact a.els b.els with
    | .fin s m e => (((Num.fin s m e).mul (a.scale.mul b.scale)).mul (round24 (a.tile.mul b.tile))).unsignedZero
    | x => x

/-- One tree output: the products and the accumulator aligned in a window and rounded once (R62, R63). -/
def treeSum (window : Nat) (ieee : Bool) (acc : Nat) (ps : List Num) : Nat :=
  let all := fp32.decode acc :: ps
  let odd := all.filter (fun x => match x with
    | .fin _ _ _ => false
    | _ => true)
  if !odd.isEmpty then fp32.rne ieee (odd.foldl Num.add .zero)
  else
    let live := all.filter Num.live
    match live with
    | [] => if all.all (fun x => match x with
        | .fin s _ _ => s
        | _ => false) then fp32.signed true 0 else 0
    | x :: rest =>
      let top := fun (y : Num) => floorLog2 y.mag.1 1 y.mag.2
      let e := rest.foldl (fun m y => max m (top y)) (top x)
      let lsb := e - (window - 1 : Nat)
      let cut := fun (y : Num) =>
        let g := y.mag
        let num := g.1 * pow2 (g.2 - lsb)
        let den := pow2 (lsb - g.2)
        let k : Int := (num / den : Nat)
        (match y with
         | .fin true _ _ => -k
         | _ => k, num % den != 0)
      let parts := live.map cut
      let sum := parts.foldl (fun (a : Int) y => a + y.1) 0
      let sticky := parts.any (fun y => y.2)
      if sum = 0 then 0
      else
        let neg := decide (sum < 0)
        let r := fp32.roundMag none sticky sum.natAbs 1 lsb
        if r.2 then fp32.overflow ieee neg else fp32.signed neg r.1

/-- The part products of one slice, in the order of R67. -/
def passParts (a b : Chunk) : List (List Num × List Num) :=
  match a.lo.isEmpty, b.lo.isEmpty with
  | true, true => [(a.els, b.els)]
  | false, true => [(a.lo, b.els), (a.els, b.els)]
  | true, false => [(a.els, b.lo), (a.els, b.els)]
  | false, false => [(a.lo, b.els), (a.els, b.lo), (a.els, b.els)]

/-- One output element over its reduction, from an initial accumulator value (R59 to R67). -/
def accumulate (k : AccKind) (ieee : Bool) (init : Nat) (a b : List Chunk) : Nat :=
  match k with
  | .block =>
    (List.zip a b).foldl (fun acc x => fp32.rne ieee ((fp32.decode acc).add (blockTerm x.1 x.2))) init
  | .exact =>
    let t := ((List.zip a b).map (fun x => dotExact x.1.els x.2.els)).foldl Num.add .zero
    fp32.rne ieee ((fp32.decode init).add t.unsignedZero)
  | .tree w =>
    (List.zip a b).foldl (fun acc x =>
      (passParts x.1 x.2).foldl (fun acc y => treeSum w ieee acc (List.zipWith Num.mul y.1 y.2)) acc) init
  | .fma =>
    (List.zip a b).foldl (fun acc x =>
      (List.zip x.1.els x.2.els).foldl (fun acc y => fp64.rne ieee ((fp64.decode acc).add (y.1.mul y.2))) acc) init

/-- Every output element, rows first. -/
def tileResults (k : AccKind) (ieee : Bool) (inits : List (BitVec 64)) (n : Nat) (a b : List (List Chunk)) : List (BitVec 64) :=
  a.zipIdx.flatMap (fun r =>
    b.zipIdx.map (fun c => BitVec.ofNat 64 (accumulate k ieee (inits.getD (r.2 * n + c.2) 0).toNat r.1 c.1)))

/-- A stored element as a Whisk lane: element × block scale × tile scale, or hi + lo, rounded once (R114, R129). -/
def laneValues (wide : Bool) (l : List Chunk) : List (BitVec 64) :=
  let f := if wide then fp64 else fp32
  l.flatMap (fun c => c.els.zipIdx.map (fun x =>
    let v := match x.1 with
      | .fin s m e => if c.scale.isNaN then .nan else ((Num.fin s m e).mul (c.scale.mul c.tile)).add ((c.lo[x.2]?).getD (.fin s 0 0))
      | y => y
    BitVec.ofNat 64 (f.rne true v)))

end Sys2Proof.Machine
end

