-- ==== Sys2Proof/Machine/Whisk.lean ====
section
/-! DEFINITION. The Whisk (06_task_engines_and_whisk.md R127 to R129): vector operations under IEEE 754 with RNE,
reductions, and a program over the groups of 256 elements of a result. The encoding of a program is not the manual's
(entry 12): it is read as a list of operations. -/

namespace Sys2Proof.Machine

/-- Lanes of one group (R127). -/
def groupLanes : Nat := 256

/-! ## Correctly rounded operations on codes (R128, R129) -/

def Fmt.bin (f : Fmt) (op : Num → Num → Num) (a b : Nat) : Nat := f.rne true (op (f.decode a) (f.decode b))

/-- Quotient: 0/0 and ∞/∞ are NaN, and a division by zero is infinite. -/
def Fmt.quot (f : Fmt) (a b : Nat) : Nat :=
  match f.decode a, f.decode b with
  | .nan, _ | _, .nan => f.rne true .nan
  | .inf _, .inf _ => f.rne true .nan
  | .inf s, .fin t _ _ => f.rne true (.inf (s != t))
  | .fin s _ _, .inf t => f.signed (s != t) 0
  | .fin s m e, .fin t n g =>
    if n = 0 then f.rne true (if m = 0 then .nan else .inf (s != t))
    else
      let r := f.roundMag none false m n (e - g)
      if r.2 then f.overflow true (s != t) else f.signed (s != t) r.1

/-- Square root: of a negative number NaN, of −0 −0. -/
def Fmt.root (f : Fmt) (a : Nat) : Nat :=
  match f.decode a with
  | .nan => f.rne true .nan
  | .inf s => f.rne true (if s then .nan else .inf false)
  | .fin s m e =>
    if m = 0 then f.signed s 0
    else if s then f.rne true .nan
    else
      -- an even exponent, and enough bits that one more decides the rounding
      let k : Int := 128 + (e % 2)
      let n := m * pow2 k
      let r := isqrt 160 n
      (f.roundMag none false (2 * r + (if r * r = n then 0 else 1)) 1 ((e - k) / 2 - 1)).1

/-- The order of MIN and MAX: −0 lies below +0 (IEEE 754; entry 12). -/
def Num.below (a b : Num) : Bool :=
  a.lt b || (match a, b with
    | .fin true 0 _, .fin false 0 _ => true
    | _, _ => false)

/-- A value as it is written: a NaN is the canonical one (R129). -/
def Fmt.canon (f : Fmt) (a : Nat) : Nat := if (f.decode a).isNaN then f.rne true .nan else a

def Fmt.least (f : Fmt) (a b : Nat) : Nat :=
  if (f.decode a).isNaN || (f.decode b).isNaN then f.rne true .nan else if (f.decode b).below (f.decode a) then b else a

def Fmt.most (f : Fmt) (a b : Nat) : Nat :=
  if (f.decode a).isNaN || (f.decode b).isNaN then f.rne true .nan else if (f.decode a).below (f.decode b) then b else a

def Fmt.one (f : Fmt) : Nat := f.rne true (.fin false 1 0)

/-! ## Reductions (R128, R129) -/

/-- One level of the fixed pairwise tree over lane order. -/
def pairLevel (op : Nat → Nat → Nat) : List Nat → List Nat
  | a :: b :: t => op a b :: pairLevel op t
  | l => l

def treeReduce (op : Nat → Nat → Nat) : Nat → List Nat → Nat
  | _, [] => 0
  | _, [a] => a
  | 0, a :: _ => a
  | n + 1, l => treeReduce op n (pairLevel op l)

/-- Reduces the lanes of each row within a group whose first element is number `first` of rows of `n` elements; a row
that began in the group before carries on. The result stands in every lane of the row. -/
def rowReduce (op : Nat → Nat → Nat) (first n : Nat) (l : List Nat) (carry : Option (Nat × Nat)) :
    List Nat × Option (Nat × Nat) :=
  let rows := (List.range ((first + l.length - 1) / n + 1)).filter (fun r => first / n ≤ r)
  rows.foldl (fun (acc : List Nat × Option (Nat × Nat)) r =>
    let mine := (l.zipIdx.filter (fun x => (first + x.2) / n == r)).map (fun x => x.1)
    let v := treeReduce op 9 mine
    let w := match acc.2 with
      | some (q, c) => if q = r then op c v else v
      | none => v
    (acc.1 ++ mine.map (fun _ => w), some (r, w))) ([], carry)

/-! ## Programs -/

/-- What a program holds: its registers, its row sums so far by register, its column accumulators, and the lanes that it
stored. -/
structure WhiskSt where
  regs : Tab (List Nat) := []
  rows : Tab (Option (Nat × Nat)) := []
  cols : Tab (List Nat) := []
  out : Option (List Nat) := none
  deriving DecidableEq, Repr

/-- A register's lanes from element `first` on, `n` of them: values that nothing fixes until the program writes them. -/
def WhiskSt.lanes (w : WhiskSt) (width first n r : Nat) : List Nat :=
  (tfind w.regs r).getD ((List.range n).map (fun i => (Config.whiskUnset r (first + i)).toNat % 2 ^ width))

def WhiskSt.put (w : WhiskSt) (r : Nat) (l : List Nat) : WhiskSt := { w with regs := tput (terase w.regs r) r l }

/-- Column accumulators (R128). -/
def whiskCols : Nat := 256

def map2 (op : Nat → Nat → Nat) (a b : List Nat) : List Nat := List.zipWith op a b

/-- The register that an operation of R128's first group writes: those that have a BF16 form. -/
def bfTarget : WhiskOp → Option Nat
  | .add d _ _ | .sub d _ _ | .mul d _ _ | .fma d _ _ _ | .min d _ _ | .max d _ _ | .abs d _ | .neg d _ | .cmpLt d _ _ | .select d _ _ _ =>
    some d
  | _ => none

/-- The lanes of a group that starts at element `first` of rows of `n`, whose results are `res`; `param k` is vector k
of the parameter block. -/
def whiskOp (f : Fmt) (wide : Bool) (param : List (List Nat)) (first n : Nat) (res : List Nat) (w : WhiskSt) :
    WhiskOp → WhiskSt
  | .loadResult d => w.put d res
  | .loadParam d k => w.put d ((param.getD k []).take res.length)
  | .add d a b => w.put d (map2 (f.bin Num.add) (reg w a) (reg w b))
  | .sub d a b => w.put d (map2 (f.bin (fun x y => x.add y.negate)) (reg w a) (reg w b))
  | .mul d a b => w.put d (map2 (f.bin Num.mul) (reg w a) (reg w b))
  | .fma d a b c =>
    w.put d (List.zipWith (fun (x : Nat × Nat) z => f.rne true (((f.decode x.1).mul (f.decode x.2)).add (f.decode z)))
      (List.zip (reg w a) (reg w b)) (reg w c))
  | .min d a b => w.put d (map2 f.least (reg w a) (reg w b))
  | .max d a b => w.put d (map2 f.most (reg w a) (reg w b))
  | .abs d a => w.put d ((reg w a).map (fun x => f.rne true (f.decode x).magnitude))
  | .neg d a => w.put d ((reg w a).map (fun x => f.rne true (f.decode x).negate))
  | .cmpLt d a b => w.put d (map2 (fun x y =>
      if !(f.decode x).isNaN && !(f.decode y).isNaN && (f.decode x).lt (f.decode y) then f.one else 0) (reg w a) (reg w b))
  | .select d c a b =>
    w.put d (List.zipWith (fun z (x : Nat × Nat) => if (f.decode z).isZero then x.2 else x.1) (reg w c)
      (List.zip (reg w a) (reg w b)))
  | .div d a b => w.put d (map2 f.quot (reg w a) (reg w b))
  | .sqrt d a => w.put d ((reg w a).map f.root)
  | .approx k d a => w.put d ((reg w a).map (f.approx k wide))
  | .rowSum d a => reduce w d (f.bin Num.add) (reg w a)
  | .rowMax d a => reduce w d f.most (reg w a)
  | .rowSumSq d a => reduce w d (f.bin Num.add) ((reg w a).map (fun x => f.bin Num.mul x x))
  | .colSum d a =>
    let r := (reg w a).zipIdx.foldl (fun (acc : List Nat × List Nat) x =>
      let c := (first + x.2) % n % whiskCols
      let v := f.bin Num.add (acc.2.getD c 0) x.1
      (acc.1 ++ [v], acc.2.set c v)) ([], padTo whiskCols (tget w.cols [] d))
    { w.put d r.1 with cols := tset w.cols [] d r.2 }
  | .toBf16 d a => w.put d ((reg w a).map (fun x => f.rne true (bf16.decode (bf16.rne true (f.decode x)))))
  | .toFp16 d a => w.put d ((reg w a).map (fun x => f.rne true (fp16.decode (fp16.rne true (f.decode x)))))
  | .store a => { w with out := some (reg w a) }
  | .inBf16 op =>
    let narrow := fun (x : Nat) => bf16.rne true (f.decode x)
    let r := whiskOp bf16 wide (param.map (fun l => l.map narrow)) first n (res.map narrow)
      { w with regs := w.regs.map (fun e => (e.1, e.2.map narrow)) } op
    match bfTarget op with
    | some d => w.put d (((tfind r.regs d).getD []).map (fun x => f.rne true (bf16.decode x)))
    | none => w
where
  /-- The lanes of a register in this group. -/
  reg (w : WhiskSt) (r : Nat) : List Nat := w.lanes f.width first res.length r
  /-- A row reduction into register d. -/
  reduce (w : WhiskSt) (d : Nat) (op : Nat → Nat → Nat) (l : List Nat) : WhiskSt :=
    let r := rowReduce op first n l (tget w.rows none d)
    { w.put d r.1 with rows := tset w.rows none d r.2 }

/-- Runs a program over every group of the results, rows of `n` elements, in storage order. A program that stores
nothing leaves the results as they are. -/
def whiskRun (wide : Bool) (ops : List WhiskOp) (param : List (List Nat)) (n : Nat) (results : List (BitVec 64)) :
    List (BitVec 64) :=
  let f := if wide then fp64 else fp32
  ((chunks groupLanes results.length results).zipIdx.foldl (fun (acc : List (BitVec 64) × WhiskSt) g =>
    let res := g.1.map (fun x => x.toNat)
    let w := ops.foldl (whiskOp f wide param (groupLanes * g.2) n res) { acc.2 with regs := [], out := none }
    (acc.1 ++ ((w.out.getD res).map (BitVec.ofNat 64)), w)) ([], {})).1

/-- Vector registers and instructions of a program (R127). -/
def whiskMaxOps : Nat := 64
def whiskRegs : Nat := 32

/-- The registers that an operation names. -/
def whiskNames : WhiskOp → List Nat
  | .loadResult d => [d]
  | .loadParam d _ => [d]
  | .add d a b | .sub d a b | .mul d a b | .min d a b | .max d a b | .cmpLt d a b | .div d a b => [d, a, b]
  | .fma d a b c | .select d a b c => [d, a, b, c]
  | .abs d a | .neg d a | .sqrt d a | .approx _ d a | .rowSum d a | .rowMax d a | .rowSumSq d a | .colSum d a | .toBf16 d a
  | .toFp16 d a => [d, a]
  | .store a => [a]
  | .inBf16 op => whiskNames op

/-- A program that the library may hold: at most 64 instructions over 32 registers, BF16 forms of R128's first group alone, and functions
that the lanes have. -/
def whiskFits (l : List WhiskOp) : Bool :=
  decide (l.length ≤ whiskMaxOps) && l.all (fun o => (whiskNames o).all (fun r => decide (r < whiskRegs)) &&
    (match o with
     | .inBf16 op => (bfTarget op).isSome
     | _ => true))

/-- The FP64 lanes run a program only where they have every function that it names (R128). -/
def whiskRuns (wide : Bool) (l : List WhiskOp) : Bool :=
  !wide || l.all (fun o => match o with
    | .approx k _ _ => !narrowOnly k
    | .toBf16 .. | .toFp16 .. | .inBf16 _ => false
    | _ => true)

/-- Operations of a program that compute (22_observation.md R392 WHISK_OPS). -/
def whiskComputes : WhiskOp → Bool
  | .loadResult _ | .loadParam _ _ | .store _ => false
  | _ => true

/-- Parameter vectors that a program names. -/
def whiskParams (ops : List WhiskOp) : Nat :=
  ops.foldl (fun m o => match o with
    | .loadParam _ k => max m (k + 1)
    | _ => m) 0

end Sys2Proof.Machine
end

