-- ==== Sys2Proof/Machine/Engine.lean ====
section
/-! DEFINITION. The task engine's shared operations (06_task_engines_and_whisk.md): descriptors (R114 to R117), what a
rack's operations hold (R96 to R98, R121), faults and retries (R124, R125), waits and signals (R118), memory accesses
of a task (08_training_step.md R166), fills and output writes (05_feeders.md R106, R110). -/

namespace Sys2Proof.Machine

/-- Key of one half of a completion counter (06_task_engines_and_whisk.md R118). -/
def halfKey (ctr : Nat) (step : Step) : Nat := 2 * ctr + step.toNat % 2

/-- A wait on a counter is met (R118). -/
def State.waitMet (s : State) (n ctr val : Nat) (step : Step) : Bool :=
  let h := tget (s.rack n).halves {} (halfKey ctr step)
  (h.tag == step && decide (val ≤ h.count.toNat)) || newer h.tag step

/-! ## Descriptors -/

def kTile : Nat := 0
def kVec : Nat := 1
def kFused : Nat := 2
def kSync : Nat := 3
def kLoop : Nat := 4
def kEnd : Nat := 5

/-- The descriptor that 128 bytes at an address spell; its STEP is TSTEP + SREL (R115, R116). -/
def descOf (addr : Nat) (tstep : Step) (b : List Byte) : Desc :=
  let w := fun i => leNat ((b.drop (8 * i)).take 8)
  let kind := fieldOf (w 0) 3 0
  let m := fieldOf (w 1) 39 32
  let k := fieldOf (w 1) 53 40
  { addr := addr, kind := kind, backward := (w 0).testBit 4, prio := fieldOf (w 0) 6 5, proof := (w 0).testBit 7
    layer := fieldOf (w 0) 21 8, opid := fieldOf (w 0) 37 22, stream := BitVec.ofNat 16 (fieldOf (w 0) 53 38)
    mb := fieldOf (w 0) 61 54, srel := fieldOf (w 0) 63 62, step := tstep + BitVec.ofNat 32 (fieldOf (w 0) 63 62)
    m := if m = 0 then 256 else m, k := if k = 0 then 16384 else k
    gang := fieldOf (w 1) 58 54, pass := fieldOf (w 1) 60 59, acc := fieldOf (w 1) 62 61, isFinal := (w 1).testBit 63
    aL := fieldOf (w 2) 13 0, aR := fieldOf (w 2) 16 14, bL := fieldOf (w 2) 30 17, bR := fieldOf (w 2) 33 31
    o0L := fieldOf (w 2) 47 34, o0R := fieldOf (w 2) 50 48, nout := fieldOf (w 2) 52 51
    o1L := fieldOf (w 3) 13 0, o1R := fieldOf (w 3) 16 14, aWin := fieldOf (w 3) 22 17, bWin := fieldOf (w 3) 28 23
    aRes := (w 3).testBit 29, bRes := (w 3).testBit 30, wprog := fieldOf (w 3) 47 32
    aSrc := fieldOf (w 4) 47 0, aStg := fieldOf (w 5) 47 0, bSrc := fieldOf (w 6) 47 0, init := fieldOf (w 7) 47 0
    out0 := fieldOf (w 8) 47 0, out1 := fieldOf (w 9) 47 0
    wrack := fieldOf (w 10) 5 0, wctr := fieldOf (w 10) 11 6, wval := fieldOf (w 10) 43 12, waitEn := (w 10).testBit 63
    srack := fieldOf (w 11) 5 0, sctr := fieldOf (w 11) 11 6, sinc := fieldOf (w 11) 27 12, sigEn := (w 11).testBit 63
    bucket := BitVec.ofNat 20 (fieldOf (w 12) 19 0), brel := (w 12).testBit 20, wparam := fieldOf (w 13) 47 0
    target := fieldOf (w 1) 47 0, count := fieldOf (w 1) 61 48, lid := fieldOf (w 1) 63 62, stepInc := (w 2).testBit 0
    rsv :=
      if kind = kLoop then
        fieldOf (w 0) 63 4 != 0 || fieldOf (w 2) 63 1 != 0 || (List.range 13).any (fun i => w (3 + i) != 0)
      else if kind = kEnd then fieldOf (w 0) 63 4 != 0 || (List.range 15).any (fun i => w (1 + i) != 0)
      else
        kind > 5 || fieldOf (w 1) 62 61 == 3 || fieldOf (w 2) 52 51 == 3 || fieldOf (w 2) 63 53 != 0 || (w 3).testBit 31 ||
          fieldOf (w 3) 63 48 != 0 || (List.range 6).any (fun i => fieldOf (w (4 + i)) 63 48 != 0) ||
          fieldOf (w 10) 62 44 != 0 || fieldOf (w 11) 62 28 != 0 || fieldOf (w 12) 63 21 != 0 || fieldOf (w 13) 63 48 != 0 ||
          w 14 != 0 || w 15 != 0 }

/-- The descriptor of an address of which nothing could be read. -/
def descBlank (addr : Nat) (tstep : Step) : Desc := descOf addr tstep []

/-- A Ledger index (07_precision_steering.md R135). -/
def ledgerIx (layer role : Nat) : Nat := 8 * layer + role

/-! ## Gangs (04_trays_racks_partitions.md R73) -/

/-- Tray t starts a gang. -/
def RackSt.starts (r : RackSt) (t : Nat) : Bool := r.gangStart.toNat.testBit t

/-- Trays of the gang that starts at tray t. -/
def RackSt.gangSize (r : RackSt) (t : Nat) : Nat :=
  match (List.range (31 - t)).find? (fun i => r.starts (t + 1 + i)) with
  | some i => i + 1
  | none => 32 - t

/-- A gang's first tray, not excluded. -/
def RackSt.gangOk (r : RackSt) (t : Nat) : Bool := r.starts t && !r.exclude.toNat.testBit t

/-- Trays of an operation's gang. -/
def opTrays (o : Op) : List Nat := (List.range o.g).map (fun i => o.desc.gang + i)

/-! ## What a rack's operations hold -/

/-- The operations of a slot: issued, and not yet issued. -/
def Slot.ops (x : Slot) : List Op := x.older.toList ++ x.newer.toList

/-- Those, and the ones that faulted and are not retried. -/
def Slot.allOps (x : Slot) : List Op := x.ops ++ x.faultOp.toList ++ x.dropped.toList

/-- Every operation of a rack with its slot. -/
def RackSt.ops (r : RackSt) : List (Nat × Op) := r.slots.flatMap (fun e => e.2.ops.map (fun o => (e.1, o)))

/-- The internal operation at hand of a fused kernel is not its first one: the kernel holds its gang (R131). -/
def Op.inGang (o : Op) : Bool := (o.fused.map (fun f => f.round != 0)).getD false

/-- An operation works on trays: it is picked, or issued and its last broadcast has not passed; a fused kernel holds its
gang from its first pick until it completes (R74, R131). -/
def Op.onTrays (o : Op) : Bool :=
  o.desc.kind != kVec && o.desc.kind != kSync &&
    (match o.stage with
     | .primed | .issued => true
     | .released | .result | .drained => o.desc.kind == kFused
     | .latched | .ready => o.inGang
     | .fetched => false)

/-- A tray is taken by an operation (R97 condition 5). -/
def RackSt.trayTaken (r : RackSt) (t : Nat) : Bool := r.ops.any (fun x => x.2.onTrays && (opTrays x.2).contains t)

/-- Place in the scratch of a fused kernel of the dQ that attention chains from one key tile to the next (R133). -/
def kDq : Nat := 4

/-- A fused kernel keeps the chained dQ in a drain half (R121, R133). -/
def Op.keepsDq (o : Op) : Bool := o.fused.any (fun f => f.kind == .attnBwd && !(tget f.vals [] kDq).isEmpty)

/-- An operation has the drain half of its own results: from its pick, or from its initial values, to its completion (R74, R97 condition 2);
between two internal operations a fused kernel keeps that of the last one (R131). -/
def Op.hasHalf (o : Op) : Bool :=
  (o.desc.kind == kTile || o.desc.kind == kFused) &&
    (match o.stage with
     | .primed | .issued | .released | .result | .drained => true
     | .latched | .ready => !o.inits.isEmpty || (o.inGang && !o.keepsDq)
     | .fetched => false)

/-- Drain halves that an operation holds in each tray of its gang. -/
def Op.halves (o : Op) : Nat := (if o.hasHalf then 1 else 0) + (if o.keepsDq then 1 else 0)

/-- Drain halves of a tray in use, chained results among them (R121). -/
def RackSt.halvesUsed (r : RackSt) (t : Nat) : Nat :=
  (r.ops.filter (fun x => (opTrays x.2).contains t)).foldl (fun n x => n + x.2.halves) 0 +
    (r.slots.filter (fun e => e.2.chain.any (fun o => o.desc.kind == kTile && (opTrays o).contains t))).length

/-- Demand held by picked operations and reserved by issued ones (R98, R122). -/
def RackSt.demand (r : RackSt) : Nat :=
  (r.ops.filter (fun x => x.2.stage == .primed || x.2.stage == .issued)).foldl (fun d x => d + x.2.demand) 0

/-- An operation holds its staging windows from its latch to its completion (R96). -/
def Op.holdsWindow (o : Op) (win : Nat) : Bool :=
  o.stage != .fetched && (o.desc.aWin == win && o.desc.kind ≤ kFused || o.desc.bWin == win && (o.desc.kind == kTile || o.desc.kind == kFused))

/-- The operations of a slot that may hold windows, but for the one that writes: an operation that faulted keeps its windows until it is
retried or its rack is reset (R96, R112). -/
def Slot.holders (x : Slot) (writing : Bool) : List Op :=
  (if writing then [] else x.older.toList) ++ x.newer.toList ++ x.faultOp.toList ++ x.dropped.toList

/-- A window is held. -/
def RackSt.winHeld (r : RackSt) (win : Nat) : Bool := r.slots.any (fun e => (e.2.holders false).any (fun o => o.holdsWindow win))

/-- The issued operation of slot `i` writes into a window that another operation holds (R96, R112); its own windows do not stop it
(entry 167). -/
def State.writeHeld (s : State) (n i : Nat) (a len : Nat) : Bool :=
  match (s.partOf n).bind (fun p => s.slice p) with
  | none => false
  | some c =>
    c.windows.any (fun w => w.rack.val == n && meets a len (winAddr n w) w.size &&
      (s.rack n).slots.any (fun e => (e.2.holders (e.1 == i)).any (fun o => o.holdsWindow w.win)))

/-! ## Ready (R97, R121) -/

/-- Every tray of an operation's gang has a free drain half (R97 condition 2). -/
def RackSt.halfFree (r : RackSt) (o : Op) : Bool := (opTrays o).all (fun t => decide (r.halvesUsed t < 2))

/-- An operation whose fills have ended has a drain half, or finds one free (R97 conditions 1 to 3). -/
def RackSt.filled (r : RackSt) (o : Op) : Bool :=
  o.stage == .latched && o.fills.isEmpty && (o.desc.kind == kVec || o.hasHalf || r.halfFree o)

/-- The newer operation of a slot, where it may enter Ready; a chained one waits for its predecessor (R121). -/
def RackSt.readyable (r : RackSt) (x : Slot) : Option Op :=
  x.newer.filter (fun o => x.state == .feed && r.filled o && (o.desc.kind == kVec || o.desc.acc != 2 || x.chain.isSome))

/-- An operation enters Ready. -/
def State.enterReady (s : State) (n i : Nat) (o : Op) : State :=
  let t := s.modSlot n i (fun x => { x with newer := some { o with stage := .ready, readyAt := (s.rack n).cycle }, state := .ready })
  t.traceTask n i tReady o.desc 0 o.desc.addr

/-- The next internal operation of a fused kernel that a slot has issued, where it may enter Ready (R131). -/
def RackSt.readyInner (r : RackSt) (x : Slot) : Option Op := x.older.filter (fun o => o.fused.isSome && r.filled o)

/-- It enters Ready; the state that the slot shows is its newer descriptor's. -/
def State.enterInner (s : State) (n i : Nat) (o : Op) : State :=
  s.modSlot n i (fun x => { x with older := some { o with stage := .ready, readyAt := (s.rack n).cycle, aged := 0, starved := 0 } })

/-- Every operation of a rack that may enters Ready, in slot order. -/
def State.readyUp (s : State) (n : Nat) : State :=
  overAll ((s.rack n).slots.map (fun e => e.1)) (fun i u =>
    let t := match (u.rack n).readyInner (u.slot n i) with
      | some o => u.enterInner n i o
      | none => u
    match (t.rack n).readyable (t.slot n i) with
    | some o => t.enterReady n i o
    | none => t) s

/-! ## Waits, signals and steps (R118, R119) -/

/-- A step of a partition is open. -/
def State.stepIsOpen (s : State) (p : Nat) (step : Step) : Bool :=
  (s.part p).everOpen && !newer step (s.part p).openReg

/-- The operation's wait is met. -/
def State.descWait (s : State) (d : Desc) : Bool := !d.waitEn || s.waitMet d.wrack d.wctr d.wval d.step

/-- A signal leaves. -/
def State.sendSignal (s : State) (n ctr : Nat) (inc : BitVec 16) (step : Step) : State :=
  { s with signals := s.signals ++ [(n, ctr, inc, step)] }

/-- The partition of a rack that may work: in Run, its clocks running. -/
def State.working (s : State) (n : Nat) : Option Nat :=
  match s.partOf n with
  | none => none
  | some p => if (s.part p).state = .run ∧ s.isOn n ∧ (s.island n).stopped = false then some p else none

/-! ## Task faults (R124, R125) -/

def tfFormat : Nat := 1
def tfStage : Nat := 2
def tfAddr : Nat := 3
def tfBus : Nat := 4
def tfStream : Nat := 5
def tfDesc : Nat := 6
def tfGang : Nat := 7
def tfChain : Nat := 8
def tfKernel : Nat := 9

/-- The phase account when an operation of a step starts or stops being issued (08_training_step.md R172). -/
def PhaseAcc.issue (x : PhaseAcc) (backward : Bool) (now : Nat) : PhaseAcc :=
  if backward then { x with bwdN := x.bwdN + 1, bwdSince := if x.bwdN = 0 then now else x.bwdSince }
  else { x with fwdN := x.fwdN + 1, fwdSince := if x.fwdN = 0 then now else x.fwdSince }

def PhaseAcc.finish (x : PhaseAcc) (backward : Bool) (now : Nat) : PhaseAcc :=
  if backward then
    { x with bwdN := x.bwdN - 1, bwd := if x.bwdN = 1 then x.bwd + (now - x.bwdSince) else x.bwd, lastBwd := now
             updExposed := 0 }
  else { x with fwdN := x.fwdN - 1, fwd := if x.fwdN = 1 then x.fwd + (now - x.fwdSince) else x.fwd }

/-- An operation that was issued leaves. -/
def State.phaseFinish (s : State) (n : Nat) (o : Op) : State :=
  match s.partOf n with
  | none => s
  | some p => s.modPhase p o.desc.step (fun x => x.finish o.desc.backward s.hkp.count)

/-- The slot of a task that faults goes to Faulted, and its newer descriptor is dropped: it is fetched again behind a retried older one. Where
the newer one has faulted before, it keeps its windows until then (R96, R112, R125). `older` says that the operation was issued. -/
def Slot.fault (x : Slot) (o : Op) (older : Bool) (code : Nat) : Slot :=
  { x with
    state := .faulted, newer := none, older := if older then none else x.older, faultCode := code, faultOp := some o
    dropped := if older then x.faultOp else x.dropped
    next := if older then ((x.newer.orElse (fun _ => x.faultOp)).map (fun y => y.desc.addr)).getD x.next else x.next }

/-- A task faults: the fault is recorded and TASK_FAULT is queued. -/
def State.taskFault (s : State) (n i : Nat) (o : Op) (older : Bool) (code sub : Nat) : State :=
  let t := s.setSlot n i ((s.slot n i).fault o older code)
  let t := if older && o.desc.kind != kSync && !o.desc.proof then t.phaseFinish n o else t
  let t := t.modRack n (fun r => if r.taskFault.valid then r else
    { r with taskFault := { valid := true, slot := i, code := code, sub := sub, desc := o.desc.addr } })
  let t := t.count n cTaskFault 1 (some o.desc)
  let t := if code = tfBus then t.count n cBusErr 1 (some o.desc) else t
  let t := t.traceTask n i tFault o.desc (code * 16 + sub) o.desc.addr
  (t.raise n .taskFault [i, code, sub, o.desc.addr, o.desc.layer, o.desc.opid, o.desc.step.toNat]).readyUp n

/-- Faults the operation that a slot has not issued. -/
def State.faultNewer (s : State) (n i code sub : Nat) : State :=
  match (s.slot n i).newer with
  | none => s
  | some o => s.taskFault n i o false code sub

/-- Faults the operation that a slot has issued. -/
def State.faultOlder (s : State) (n i code sub : Nat) : State :=
  match (s.slot n i).older with
  | none => s
  | some o => s.taskFault n i o true code sub

/-! ## Memory accesses of a task -/

/-- The carried amax that a conversion of a step uses (07_precision_steering.md R137). -/
def entryCamax (e : LedgerEntry) (step : Step) : BitVec 32 := if step.toNat % 2 = 0 then e.camaxE else e.camaxO
/-- The conversion word of a step. -/
def entryCw (e : LedgerEntry) (step : Step) : BitVec 16 := if step.toNat % 2 = 0 then e.cwE else e.cwO

/-- The layers that a bucket carries (09_kneader.md R200). -/
def State.layersOf (s : State) (p : Nat) (bid : BitVec 20) : List LayerMap :=
  ((s.slice p).map (fun c => c.layers.filter (fun l => l.bid == bid))).getD []

/-- Bytes of a parameter copy that the receive programs of a bucket's layers write for a step (09_kneader.md R199): the range that
R166 means by PAR0's (entry 26). -/
def State.parSpan (s : State) (p : Nat) (b : BucketRec) (step : Step) : Nat :=
  (s.layersOf p b.bid).foldl (fun n m =>
    let one := fun (role a : Nat) =>
      let w := entryCw (s.ledgerEnt (ledgerIx m.layer role)) step
      (progOf (s.readBytes a progBytes)).reach (fmtOf (cwFmt w)).width (blockOf (cwScl w)) (cwScl w == 2)
    max n (max (one 0 m.wprg) (one 1 m.tprg))) 0

/-- The address that a task access reaches: in paired mode a descriptor of odd step is redirected from PAR0's range to
PAR1 (08_training_step.md R166). -/
def State.taskAddr (s : State) (p : Nat) (step : Step) (a : Nat) : Nat :=
  if step.toNat % 2 = 0 then a
  else
    match s.slice p with
    | none => a
    | some c =>
      match c.buckets.find? (fun b => b.paired && decide (b.par0 ≤ a ∧ a < b.par0 + s.parSpan p b step)) with
      | some b => b.par1 + (a - b.par0)
      | none => a

/-- A read of a task. -/
def State.taskRead (s : State) (n p : Nat) (step : Step) (a len : Nat) : State × Except BusErr (List Byte) :=
  s.read (.rack n) (s.taskAddr p step a) len

/-- The pieces of bytes that lie in one 64-byte line each: a request names one line (10_hbm_memory.md R216). -/
def linePieces : Nat → Nat → List Byte → List (Nat × List Byte)
  | 0, _, _ => []
  | _ + 1, _, [] => []
  | f + 1, a, b => (a, b.take (64 - a % 64)) :: linePieces f (a + (64 - a % 64)) (b.drop (64 - a % 64))

/-- Requests for the lines of a Cellar write, in address order; the first error ends the walk. -/
def State.cellarTask (s : State) (n i : Nat) : List (Nat × List Byte) → State × Option BusErr × List Nat
  | [] => (s, none, [])
  | (a, b) :: l =>
    match s.gateErr (.rack n) true a with
    | some e => (s, some e, [])
    | none =>
      let r := s.cxlRequest a true b (.op n i)
      let t := r.2.cellarTask n i l
      (t.1, t.2.1, r.1 :: t.2.2)

/-- A write of a task: a Cellar write is a request for each line, whose completion accepts it (11_cellar.md R225); their numbers join
the operation's. -/
def State.taskWrite (s : State) (n p i : Nat) (step : Step) (a : Nat) (b : List Byte) : State × Option BusErr × List Nat :=
  let x := s.taskAddr p step a
  if s.place x = .cellar then
    s.cellarTask n i (linePieces (b.length + 1) x b)
  else
    let r := s.write (.rack n) x b
    (r.1, r.2, [])

/-- Reads pieces one after another; the first error ends the walk. -/
def State.taskReads (s : State) (n p : Nat) (step : Step) : List (Nat × Nat) → State × Except BusErr (List (List Byte))
  | [] => (s, .ok [])
  | (a, len) :: t =>
    let r := s.taskRead n p step a len
    match r.2 with
    | .error e => (r.1, .error e)
    | .ok b =>
      let q := r.1.taskReads n p step t
      match q.2 with
      | .error e => (q.1, .error e)
      | .ok l => (q.1, .ok (b :: l))

/-- Writes pieces one after another; the first error ends the walk, and what was accepted stays (R125). -/
def State.taskWrites (s : State) (n p i : Nat) (step : Step) : List (Nat × List Byte) → State × Option BusErr × List Nat
  | [] => (s, none, [])
  | (a, b) :: t =>
    let r := s.taskWrite n p i step a b
    match r.2.1 with
    | some e => (r.1, some e, r.2.2)
    | none =>
      let q := r.1.taskWrites n p i step t
      (q.1, q.2.1, r.2.2 ++ q.2.2)

/-- Reads an address program. -/
def State.readProg (s : State) (n p : Nat) (step : Step) (a : Nat) : State × Except BusErr Prog :=
  let r := s.taskRead n p step a progBytes
  (r.1, match r.2 with
    | .error e => .error e
    | .ok b => .ok (progOf b))

/-! ## Fills (05_feeders.md R95, R96, R101, R106) -/

/-- Lines and line length of an operand, its word, role, layer, source program and window; VEC reads rows through A. -/
structure Side where
  lines : Nat
  len : Nat
  depth : Nat
  word : BitVec 16
  layer : Nat
  role : Nat
  src : Nat
  win : Nat
  d : Nat
  deriving DecidableEq, Repr

/-- The pair of an operation's latched words. -/
def opPair (o : Op) : Option PairInfo := if o.desc.kind = kTile ∨ o.desc.kind = kFused then pairInfo o.cwA o.cwB else none

/-- Output columns of a tile operation (R73). -/
def opCols (o : Op) : Nat :=
  match opPair o with
  | some q => q.cols * o.g
  | none => o.desc.k

def blockPad (w : BitVec 16) (n : Nat) : Nat := if blockOf (cwScl w) = 0 then n else ceilTo n (blockOf (cwScl w))

/-- An operation's operand A or B as it is filled. -/
def opSide (o : Op) (k : FillKind) : Side :=
  let q := opPair o
  let depth := fun w => match q with
    | some x => ceilTo o.desc.k x.d
    | none => blockPad w o.desc.k
  let d := fun w => match q with
    | some x => x.d
    | none => blockPad w o.desc.k
  match k with
  | .b => { lines := opCols o, len := o.desc.k, depth := depth o.cwB, word := o.cwB, layer := o.desc.bL, role := o.desc.bR
            src := o.desc.bSrc, win := o.desc.bWin, d := d o.cwB }
  | _ => { lines := o.desc.m, len := o.desc.k, depth := depth o.cwA, word := o.cwA, layer := o.desc.aL, role := o.desc.aR
           src := o.desc.aSrc, win := o.desc.aWin, d := d o.cwA }

/-- Operand A is read by a stager's convolution program. -/
def opConv (o : Op) (k : FillKind) : Bool := o.desc.kind == kTile && o.desc.aStg != 0 && k == .a

/-- Format, scaling, width and block of a source's elements (R106). -/
def srcFmt (w : BitVec 16) (p : Prog) : Nat × Nat :=
  if p.wide then (p.sfmt, 0) else (if split16 (cwFmt w) then 0xB else cwFmt w, cwScl w)

/-- A fill source program is invalid for its operand (R104): what it asks of a block-scaled operand it asks of a wide source too, whose lines
count their padding (entry 27). The box of a convolution, `box`, has no stager order to count. -/
def srcBad (x : Side) (box isB : Bool) (p : Prog) : Bool :=
  let line := blockPad x.word x.len
  p.bad (if box then none else some (x.lines * line)) (cwScl x.word) (fmtOf (srcFmt x.word p).1).width line isB (some (cwFmt x.word))

/-- Bytes that a filled operand takes in its window. -/
def stagedBytes (x : Side) (box : Bool) (p : Prog) : Nat :=
  if box then (layoutOf x.word 1 (blockPad x.word p.count)).stop else (layoutOf x.word x.lines x.depth).stop

/-- Values gathered from a source: element codes, block scales, tile scales by element position, and the runs that were read: the others
are padding (R103). -/
structure Gathered where
  codes : List Nat
  scales : List Nat
  tiles : List (Nat × Nat)
  live : List Bool
  deriving DecidableEq, Repr

/-- Reads a source's runs in order (R102, R103). -/
def State.gather (s : State) (n p : Nat) (step : Step) (q : Prog) (f scl : Nat) : State × Except BusErr Gathered :=
  let wd := (fmtOf f).width
  let blk := blockOf scl
  let runs := q.walk wd
  let eb := (q.run * wd + 7) / 8
  let pieces := runs.flatMap (fun r => match r.elem with
    | none => []
    | some a => (a, eb) :: ((if blk = 0 then [] else [(r.scale, q.run / blk)]) ++ (if scl = 2 then [(r.tile, 4)] else [])))
  let got := s.taskReads n p step pieces
  (got.1, match got.2 with
    | .error e => .error e
    | .ok bs =>
      let step1 := fun (acc : Gathered × List (List Byte)) (r : RunRec) =>
        match r.elem with
        | none =>
          ({ acc.1 with codes := acc.1.codes ++ List.replicate q.run 0
                        scales := acc.1.scales ++ List.replicate (if blk = 0 then 0 else q.run / blk) 0
                        live := acc.1.live ++ [false] }, acc.2)
        | some _ =>
          let c := unpackBits wd q.run (acc.2.headD [])
          let l1 := acc.2.tail
          let sc := if blk = 0 then [] else (l1.headD []).map (fun b => b.toNat)
          let l2 := if blk = 0 then l1 else l1.tail
          let tl := if scl = 2 then [(acc.1.codes.length, leNat (l2.headD []))] else []
          let l3 := if scl = 2 then l2.tail else l2
          ({ codes := acc.1.codes ++ c, scales := acc.1.scales ++ sc, tiles := acc.1.tiles ++ tl, live := acc.1.live ++ [true] }, l3)
      .ok (runs.foldl step1 ({ codes := [], scales := [], tiles := [], live := [] }, bs)).1)

/-- Regroups a flat list into lines of `n`, each padded to `m`. -/
def relined (n m : Nat) (lines : Nat) (l : List Nat) : List Nat :=
  (List.range lines).flatMap (fun i => padTo m ((l.drop (i * n)).take n))

/-- Tile scales of lines of `line` elements laid on the grid of lines of `depth`; further tiles hold padding. -/
def regrid (lines line depth : Nat) (t : List Nat) : List Nat :=
  if t.isEmpty then []
  else
    let a := (line + 127) / 128
    let b := (depth + 127) / 128
    (List.range ((lines + 127) / 128)).flatMap (fun i =>
      (List.range b).map (fun j => if j < a then t.getD (i * a + j) 0x3F800000 else 0x3F800000))

/-- An operand as its window holds it (R95): element codes or hi plane, lo plane, block scales, tile scales. -/
structure Form where
  els : List Nat
  lo : List Nat
  scales : List Nat
  tiles : List Nat
  deriving DecidableEq, Repr

/-- Stored codes of lines of `len` elements, each padded to whole blocks, brought to lines of `depth` (R26, R54); codes 0x9 and 0xA are
split (R23). -/
def stagedForm (w : BitVec 16) (lines len depth : Nat) (codes scales tiles : List Nat) : Form :=
  let blk := blockOf (cwScl w)
  let line := blockPad w len
  let c := relined line depth lines codes
  let hl := if split16 (cwFmt w) then c.map (fun x => splitHiLo (fp32.decode x)) else []
  { els := if split16 (cwFmt w) then hl.map (fun x => x.1) else c, lo := hl.map (fun x => x.2)
    scales := if blk = 0 then [] else relined (line / blk) (depth / blk) lines scales, tiles := regrid lines line depth tiles }

/-- The chunks of a form's lines. -/
def Form.chunkLines (f : Form) (w : BitVec 16) (lines depth d : Nat) : List (List Chunk) :=
  windowLines w lines depth d f.els f.lo f.scales f.tiles

/-- The bytes of a window's arrays, as pieces at offsets. -/
def Form.pieces (f : Form) (w : BitVec 16) (l : Layout) : List (Nat × List Byte) :=
  (0, packBits (stagedWidth (cwFmt w)) f.els) :: ((if f.lo.isEmpty then [] else [(l.lo, packBits 16 f.lo)]) ++
    (if f.scales.isEmpty then [] else [(l.scale, f.scales.map (BitVec.ofNat 8))]) ++
    (if f.tiles.isEmpty then [] else [(l.tile, packBits 32 f.tiles)]))

/-! ### Conversion past padding (R103, R106, R107) -/

/-- Codes put back between elements of padding, which are +0. -/
def spread : List (Option Num) → List Nat → List Nat
  | [], _ => []
  | none :: t, c => 0 :: spread t c
  | some _ :: t, c => c.headD 0 :: spread t c.tail

/-- The codes and scales of 32-element blocks, those of padding alone with scale 0x00. -/
def spreadBlocks : List (List (Option Num)) → List Nat → List Nat → List Nat × List Nat
  | [], _, _ => ([], [])
  | b :: t, c, s =>
    if b.all Option.isNone then
      let r := spreadBlocks t c s
      (List.replicate 32 0 ++ r.1, 0 :: r.2)
    else
      let r := spreadBlocks t (c.drop 32) s.tail
      (padTo 32 (spread b (c.take 32)) ++ r.1, s.headD 0 :: r.2)

/-- Converts lines some of whose elements are convolution padding: those are neither converted, nor counted, nor drawn for. FB has no
such lines (R104). -/
def convertPast (w : BitVec 16) (role : Nat) (camax : BitVec 32) (lines : List (List (Option Num))) (g : Gen) : ConvOut :=
  let real := fun (l : List (Option Num)) => l.filterMap id
  if lines.all (fun l => l.all Option.isSome) || cwScl w = 2 then convertLines w role camax (lines.map real) g
  else if cwScl w = 0 then
    let c := convertLines w role camax [lines.flatMap real] g
    { c with codes := spread (lines.flatMap id) c.codes }
  else
    let b := lines.flatMap (fun l => chunks 32 l.length l)
    let c := convertLines w role camax ((b.map real).filter (fun l => !l.isEmpty)) g
    let r := spreadBlocks b c.codes c.scales
    { c with codes := r.1, scales := r.2 }

/-- What a fill makes of gathered values, with the counts of its conversion and the input generator after it. -/
structure Filled where
  form : Form
  meter : Option Meter
  gen : Gen
  deriving DecidableEq, Repr

/-- Turns gathered values into an operand's staged form (R95, R106): the box of a convolution, `box`, is one line of its runs. What a wide
source reads at the padding of a line is padding, which is not converted (02_number_formats.md R26). -/
def fillForm (x : Side) (box : Bool) (q : Prog) (camax : BitVec 32) (g : Gathered) (gen : Gen) : Filled :=
  let lines := if box then 1 else x.lines
  let len := if box then q.count else x.len
  let depth := if box then blockPad x.word q.count else x.depth
  let real := fun (k : Nat) => g.live.getD (k / q.run) true
  if q.wide then
    let nums := g.codes.zipIdx.map (fun c => if real c.2 then some ((fmtOf q.sfmt).decode c.1) else none)
    let c := convertPast x.word x.role camax ((chunks (blockPad x.word len) nums.length nums).map (fun l => l.take len)) gen
    { form := stagedForm x.word lines len depth c.codes c.scales c.tiles, meter := some c.meter, gen := c.gen }
  else
    let line := blockPad x.word len
    let tc := (line + 127) / 128
    let tl := if cwScl x.word = 2 then
        (List.range ((lines + 127) / 128 * tc)).map (fun t =>
          ((g.tiles.find? (fun y => y.1 / line / 128 == t / tc && y.1 % line / 128 == t % tc)).map (fun y => y.2)).getD 0x3F800000)
      else []
    { form := stagedForm x.word lines len depth g.codes g.scales tl
      meter := if split16 (cwFmt x.word) then
          some (splitMeter ((g.codes.zipIdx.filter (fun c => real c.2)).map (fun c => fp32.decode c.1)))
        else none
      gen := gen }

/-- Counts what the converters count of a descriptor (22_observation.md R392). -/
def State.countConv (s : State) (n : Nat) (d : Desc) (m : Meter) : State :=
  (((s.count n cConvElems m.elems (some d)).count n cConvSat m.sat (some d)).count n cConvFlush m.flush (some d)).count n cConvResc
    m.resc (some d)

/-- Reads and converts a source for an operand: its form is staged, its conversion is measured, and the input generator advances (R106,
R107). -/
def State.fillSide (s : State) (n p : Nat) (o : Op) (x : Side) (box : Bool) (q : Prog) : State × Except BusErr Form :=
  let f := srcFmt x.word q
  let g := s.gather n p o.desc.step q f.1 f.2
  match g.2 with
  | .error e => (g.1, .error e)
  | .ok v =>
    let st := (g.1.rack n).stream
    let i := ledgerIx x.layer x.role
    let c := fillForm x box q (entryCamax (g.1.ledgerEnt i) o.desc.step) v (st.genIn, st.drawHalfIn)
    let t := g.1.modStream n (fun y => { y with genIn := c.gen.1, drawHalfIn := c.gen.2 })
    (match c.meter with
      | some m => (t.measure n i o.desc.step m).countConv n o.desc m
      | none => t, .ok c.form)

/-- A window's first address, 0 where the recipe names none. -/
def State.winBase (s : State) (n win : Nat) : Nat := ((s.stageWin n win).map (winAddr n)).getD 0

/-- Runs one fill of an operand of an operation: its source is read, converted, and written into the window. The result is the bytes
written, the source address and the elements of the source. -/
def State.runFill (s : State) (n p : Nat) (o : Op) (x : Side) (box : Bool) : State × Except BusErr (Nat × Nat × Nat) :=
  let pr := s.readProg n p o.desc.step x.src
  match pr.2 with
  | .error e => (pr.1, .error e)
  | .ok q =>
    let r := pr.1.fillSide n p o x box q
    match r.2 with
    | .error e => (r.1, .error e)
    | .ok f =>
      let l := if box then layoutOf x.word 1 (blockPad x.word q.count) else layoutOf x.word x.lines x.depth
      let b := f.pieces x.word l
      let t := overAll b (fun y u => (u.write (.rack n) (s.winBase n x.win + y.1) y.2).1) r.1
      (t, .ok (b.foldl (fun a y => a + y.2.length) 0, q.base, q.count))

/-! ## Stager reads (R95, R100, R103) -/

/-- The lines of an operand in its window, in stager order. -/
def State.stagedLines (s : State) (n : Nat) (x : Side) : State × Except BusErr (List (List Chunk)) :=
  let r := s.read (.rack n) (s.winBase n x.win) (layoutOf x.word x.lines x.depth).stop
  (r.1, match r.2 with
    | .error e => .error e
    | .ok b => .ok (windowOfBytes b x.word x.lines x.depth x.d))

/-- Bytes of the hi plane of a box: that of the fill, or, for a resident box, the reach of the stager program's dimensions. -/
def boxPlane (o : Op) (q : Prog) : Nat := if o.box = 0 then q.dims.foldl (fun m d => max m (d.size * d.pitch)) 0 else 2 * o.box

/-- The lines that a stager's convolution program reads from the box in the window; the lo plane of codes 0x9 and 0xA follows the hi plane. -/
def State.readBox (s : State) (n p : Nat) (o : Op) (q : Prog) : State × Except BusErr (List (List Chunk)) :=
  let x := opSide o .a
  let base := s.winBase n x.win
  let f := cwFmt x.word
  let blk := blockOf (cwScl x.word)
  let line := blockPad x.word x.len
  let hi := s.gather n p o.desc.step (q.from base) (if split16 f then 7 else f) (cwScl x.word)
  match hi.2 with
  | .error e => (hi.1, .error e)
  | .ok v =>
    let lines := fun (lo : List Nat) => Form.chunkLines
      { els := relined line x.depth x.lines v.codes, lo := lo, tiles := []
        scales := if blk = 0 then [] else relined (line / blk) (x.depth / blk) x.lines v.scales } x.word x.lines x.depth x.d
    if split16 f then
      let lo := hi.1.gather n p o.desc.step (q.from (base + up64 (boxPlane o q))) 7 0
      (lo.1, match lo.2 with
        | .error e => .error e
        | .ok u => .ok (lines (relined line x.depth x.lines u.codes)))
    else (hi.1, .ok (lines []))

/-! ## Initial values (R115 INIT) -/

/-- The initial values are FP64: those of an FP64 product that forms no weight gradient. -/
def initWide (o : Op) : Bool :=
  ((opPair o).map PairInfo.wide).getD false &&
    !((decide (1 ≤ o.desc.nout) && o.desc.o0R == 7) || (decide (2 ≤ o.desc.nout) && o.desc.o1R == 7))

def initFmt (o : Op) : Nat := if initWide o then 0xC else 0xB

/-- Loads initial values through a program, of FP64 where `wide`; FP32 values widen exactly into an FP64 entry. -/
def State.runInit (s : State) (n p : Nat) (o : Op) (a : Nat) (wide : Bool) : State × Except BusErr (List (BitVec 64)) :=
  let pr := s.readProg n p o.desc.step a
  match pr.2 with
  | .error e => (pr.1, .error e)
  | .ok q =>
    let g := pr.1.gather n p o.desc.step q (if wide then 0xC else 0xB) 0
    (g.1, match g.2 with
      | .error e => .error e
      | .ok v =>
        let widen := ((opPair o).map PairInfo.wide).getD false && !wide
        .ok (v.codes.map (fun c => BitVec.ofNat 64 (if widen then fp64.rne true (fp32.decode c) else c))))

/-! ## Output writes (R110) -/

/-- Writes along tokens are those of the roles S and dY (R109). -/
def alongTokens (role : Nat) : Bool := role == 4 || role == 5

/-- The lines of a result of rows of `n` in a write's order. -/
def resultLines (tokens : Bool) (n : Nat) (v : List Num) : List (List Num) :=
  let rows := chunks n v.length v
  if tokens then (List.range n).map (fun j => rows.map (fun r => r.getD j .zero)) else rows

/-- The values are FP64. -/
def opWide (o : Op) : Bool :=
  if o.desc.kind = kVec then cwFmt o.cwA == 0xC else ((opPair o).map PairInfo.wide).getD false

/-- Elements in a row of an operation's result. -/
def opRow (o : Op) : Nat := if o.desc.kind = kTile then opCols o else o.desc.k

/-- One output write: target layer, role, word and program. -/
structure OutSide where
  layer : Nat
  role : Nat
  word : BitVec 16
  prog : Nat
  deriving DecidableEq, Repr

def opOuts (o : Op) : List OutSide :=
  ([{ layer := o.desc.o0L, role := o.desc.o0R, word := o.cwO0, prog := o.desc.out0 },
    { layer := o.desc.o1L, role := o.desc.o1R, word := o.cwO1, prog := o.desc.out1 }]).take o.desc.nout

/-- The word that a write converts under: a dW write is FP32 with IEEE overflow, whatever its entry names. -/
def outWord (x : OutSide) : BitVec 16 := if x.role = 7 then 0xB200 else x.word

/-- Lines of an output write of a tile of rows and columns, and the elements of one line. -/
def outShape (rows cols : Nat) (x : OutSide) : Nat × Nat := if alongTokens x.role then (cols, rows) else (rows, cols)

/-- The program of a write is invalid (R104). -/
def outBad (rows cols : Nat) (x : OutSide) (q : Prog) : Bool :=
  let w := outWord x
  let line := blockPad w (outShape rows cols x).2
  q.bad (some ((outShape rows cols x).1 * line)) (cwScl w) (fmtOf (cwFmt w)).width line false none

/-- Pieces of a write: each run's elements, block scales and tile scale (R102). -/
def outPieces (q : Prog) (w : BitVec 16) (line : Nat) (c : ConvOut) : List (Nat × List Byte) :=
  let wd := (fmtOf (cwFmt w)).width
  let blk := blockOf (cwScl w)
  let tc := (line + 127) / 128
  ((q.walk wd).zipIdx).flatMap (fun r =>
    match r.1.elem with
    | none => []
    | some a =>
      let at0 := r.2 * q.run
      (a, packBits wd ((c.codes.drop at0).take q.run)) ::
        ((if blk = 0 then [] else [(r.1.scale, ((c.scales.drop (at0 / blk)).take (q.run / blk)).map (BitVec.ofNat 8))]) ++
         (if cwScl w = 2 then [(r.1.tile, leBytes 4 (c.tiles.getD (at0 / line / 128 * tc + at0 % line / 128) 0x3F800000))] else [])))

end Sys2Proof.Machine
end

