-- ==== Sys2Proof/Machine/Fused.lean ====
section
/-! DEFINITION. Fused kernels (06_task_engines_and_whisk.md R131 to R133): the internal tile operations of NORM_BWD, RMS_BWD and
ATTN_BWD, and the arithmetic of their Whisk passes. The parameter block's reading and the places of the entries and programs it names
are not the manual's (entry 28). -/

namespace Sys2Proof.Machine

/-! ## Parameters -/

/-- Bytes of a parameter block that are read. -/
def fusedParBytes : Nat := 256

/-- Entry number `k` of the parameter block. Normalisation: 0 dX(C), 1 WT(C), 2 S, 3 and 4 the outputs. Attention: 0 Q, 1 K, 2 V, 3 dO, 4 O,
5 dO along tokens, 6 K along keys, 7 Q along tokens, 8 dK, 9 dV. -/
def Fused.ent (f : Fused) (k : Nat) : Nat := f.par.ents.getD k 0

/-- Program number `k` for block or tile `j`. Normalisation: 0 x, 1 gamma, 2 dgamma, 3 dbeta. Attention: 0 Q, 1 K, 2 V, 3 dO, 4 O, 5 dO along
tokens, 6 K along keys, 7 Q along tokens, 8 L, 9 dV, 10 dK, 11 and 12 the initial values of dV and dK. -/
def Fused.prog (f : Fused) (k j : Nat) : Nat := f.par.progs.getD k 0 + progBytes * j

/-- Ledger index of a role of the score layer (R133). -/
def Fused.score (f : Fused) (role : Nat) : Nat := ledgerIx f.par.score role

def roleX : Nat := 2
def roleY : Nat := 3
def roleDY : Nat := 5
def roleDX : Nat := 6
def roleDW : Nat := 7

/-- The entries that a kernel latches (R131, R133). -/
def fusedNames (k : FusedKind) (par : Config.FusedPar) : List Nat :=
  match k with
  | .normBwd | .rmsBwd => (List.range 5).map (fun i => par.ents.getD i 0)
  | .attnBwd => (List.range 10).map (fun i => par.ents.getD i 0) ++ [roleX, roleY, roleDY, roleDX].map (ledgerIx par.score)

/-- The word under which a kernel converts for an entry: the latched one, but a dW write is FP32 (05_feeders.md R110). -/
def Fused.word (f : Fused) (ix : Nat) : BitVec 16 :=
  if ix % 8 = roleDW then 0xB200 else ((f.words.find? (fun y => y.1 == ix)).map (fun y => y.2)).getD 0

/-- Rows of a normalisation's block: the largest multiple of 16, not above 256, whose g, x and statistics fit FUSED_SCRATCH (R132). -/
def blockRows (fscratch feats : Nat) : Nat := min 256 (fscratch / (8 * feats + 32) / 16 * 16)

/-- Column tiles of a kernel: of the feature dimension, or the key tiles. -/
def Fused.tiles (f : Fused) : Nat :=
  match f.kind with
  | .attnBwd => max 1 f.par.tiles
  | _ => max 1 ((f.par.feats + f.width - 1) / f.width)

/-- Internal operations for one tile. -/
def Fused.stages (f : Fused) : Nat :=
  match f.kind with
  | .attnBwd => 5
  | _ => 1

/-- Blocks of rows. -/
def Fused.blocks (f : Fused) (m : Nat) : Nat :=
  match f.kind with
  | .attnBwd => 1
  | _ => if f.block = 0 then 1 else (m + f.block - 1) / f.block

/-- Internal operations of a kernel. -/
def Fused.rounds (f : Fused) (m : Nat) : Nat := f.blocks m * (f.tiles * f.stages)

/-- Block, tile and stage of the internal operation. -/
def Fused.at (f : Fused) : Nat × Nat × Nat :=
  (f.round / f.stages / f.tiles, f.round / f.stages % f.tiles, f.round % f.stages)

/-- Rows of the block at hand. -/
def Fused.rows (f : Fused) (m : Nat) : Nat :=
  match f.kind with
  | .attnBwd => m
  | _ => min f.block (m - f.at.1 * f.block)

/-- Columns of the tile at hand: the last tile of the features may be narrower. -/
def Fused.cols (f : Fused) : Nat :=
  match f.kind with
  | .attnBwd => f.width
  | _ => min f.width (f.par.feats - f.at.2.1 * f.width)

/-! ## Internal tile operations -/

/-- Where an internal operation finds an operand: through a source program, or in the scratch window. -/
inductive FusedSrc where
  | prog (a : Nat)
  | kept (key : Nat)
  deriving DecidableEq, Repr

/-- An internal tile operation: the entries of its operands, its rows, reduction depth and columns, its operands, the program of its initial
values with their width, and the place of the results that it chains on. -/
structure FusedOp where
  ixA : Nat
  ixB : Nat
  rows : Nat
  depth : Nat
  cols : Nat
  a : FusedSrc
  b : FusedSrc
  init : Option (Nat × Bool) := none
  chain : Option Nat := none
  deriving DecidableEq, Repr

/-! Places of the scratch window. Normalisation: 0 to 3 the row sums, 4 and 5 dgamma and dbeta by tile, 8 + 3j, 9 + 3j and 10 + 3j the values
dy, g and x of tile j. Attention: 0 P, 1 P as packed, 2 and 3 dS as packed along features and along tokens, 4 the chained dQ, 5 D, 6 L,
7 + 2j and 8 + 2j the dV and dK of tile j that a chained kernel goes on with. -/

def kSums : Nat := 0
def kDgamma : Nat := 4
def kDbeta : Nat := 5
def kTile0 : Nat := 8
def kP : Nat := 0
def kPform : Nat := 1
def kDsFeat : Nat := 2
def kDsTok : Nat := 3
def kD : Nat := 5
def kL : Nat := 6
def kDv (j : Nat) : Nat := 7 + 2 * j
def kDk (j : Nat) : Nat := 8 + 2 * j

/-- Where dV or dK of a key tile goes on from: a program, whose values are in the accumulator's format but for a weight gradient (R115 INIT), or
the results that a chained kernel left (R133). -/
def Fused.start (_ : Fused) (d : Desc) (ix a key : Nat) (wide : Bool) (u : FusedOp) : FusedOp :=
  if d.acc = 1 then { u with init := some (a, wide && ix % 8 != roleDW) } else if d.acc = 2 then { u with chain := some key } else u

/-- The results of a product of two entries are FP64. -/
def Fused.wide (f : Fused) (a b : Nat) : Bool := ((pairInfo (f.word a) (f.word b)).map PairInfo.wide).getD false

/-- The internal operation at hand (R132, R133). -/
def fusedOp (d : Desc) (f : Fused) : FusedOp :=
  let j := f.at.2.1
  match f.kind with
  | .normBwd | .rmsBwd =>
    { ixA := f.ent 0, ixB := f.ent 1, rows := f.rows d.m, depth := d.k, cols := f.width
      a := .prog (d.aSrc + progBytes * f.at.1), b := .prog (d.bSrc + progBytes * j) }
  | .attnBwd =>
    match f.at.2.2 with
    | 0 => { ixA := f.ent 0, ixB := f.ent 1, rows := d.m, depth := f.par.head, cols := f.width, a := .prog (f.prog 0 0), b := .prog (f.prog 1 j) }
    | 1 => { ixA := f.ent 3, ixB := f.ent 2, rows := d.m, depth := f.par.head, cols := f.width, a := .prog (f.prog 3 0), b := .prog (f.prog 2 j) }
    | 2 => f.start d (f.ent 9) (f.prog 11 j) (kDv j) (f.wide (f.score roleY) (f.ent 5))
      { ixA := f.score roleY, ixB := f.ent 5, rows := f.width, depth := d.m, cols := f.par.head, a := .kept kPform, b := .prog (f.prog 5 0) }
    | 3 =>
      { ixA := f.score roleDX, ixB := f.ent 6, rows := d.m, depth := f.width, cols := f.par.head, a := .kept kDsFeat, b := .prog (f.prog 6 j)
        chain := some kDq }
    | _ => f.start d (f.ent 8) (f.prog 12 j) (kDk j) (f.wide (f.score roleDX) (f.ent 7))
      { ixA := f.score roleDX, ixB := f.ent 7, rows := f.width, depth := d.m, cols := f.par.head, a := .kept kDsTok, b := .prog (f.prog 7 0) }

/-- Rows, reduction depth and columns of what the trays run for an operation. -/
def opShape (o : Op) : Nat × Nat × Nat :=
  match o.fused with
  | some f => ((fusedOp o.desc f).rows, (fusedOp o.desc f).depth, (fusedOp o.desc f).cols)
  | none => (o.desc.m, o.desc.k, opCols o)

/-- The operation with its internal operation's words, passes and demand (R98). -/
def Op.atRound (o : Op) (f : Fused) : Op :=
  let q := fusedOp o.desc f
  let a := f.word q.ixA
  let b := f.word q.ixB
  match pairInfo a b with
  | none => { o with fused := some f, cwA := a, cwB := b }
  | some i =>
    { o with fused := some f, cwA := a, cwB := b, passes := i.passes
             demand := demandOf (sliceBytes a i.d) (sliceBytes b i.d) o.g q.rows false }

/-- A kernel at its first internal operation: its tile is as wide as the gang makes the first product, and a normalisation's block of rows
fits `room` bytes of scratch (R132). -/
def Op.withFused (o : Op) (f : Fused) (room : Nat) : Op :=
  o.atRound { f with
    width := ((pairInfo (f.word (f.ent 0)) (f.word (f.ent 1))).map (fun q => q.cols * o.g)).getD 32, block := blockRows room f.par.feats }

/-- Every internal operation of a kernel, as it will run. -/
def fusedAll (o : Op) (f : Fused) : List Op := (List.range (f.rounds o.desc.m)).map (fun r => o.atRound { f with round := r })

/-- A kernel has another internal operation after the one at hand. -/
def Fused.more (f : Fused) (m : Nat) : Bool := decide (f.round + 1 < f.rounds m)

/-! ## What stands in the scratch window -/

def Fused.get (f : Fused) (k : Nat) : List (List Nat) := tget f.vals [] k
def Fused.put (f : Fused) (k : Nat) (v : List (List Nat)) : Fused := { f with vals := tset f.vals [] k v }

/-- A kernel goes on with the dV and dK that the kernel before it in its task left (R133). -/
def Fused.resume (f c : Fused) : Fused :=
  (List.range f.tiles).foldl (fun a j => (a.put (kDv j) (c.get (kDv j))).put (kDk j) (c.get (kDk j))) f

/-- An operand of an internal operation; one that the Whisk reads, `d` = 0, is padded to whole blocks alone (R114). -/
def Fused.side (f : Fused) (ix lines len src win d : Nat) : Side :=
  let w := f.word ix
  let p := blockPad w len
  { lines := lines, len := len, depth := if d = 0 then p else ceilTo len d, word := w, layer := ix / 8, role := ix % 8, src := src
    win := win, d := if d = 0 then max 1 p else d }

/-- The operand A or B that the operation at hand fills: the descriptor's, or an internal operation's, which is staged in the descriptor's
windows (R97 condition 1, R131). -/
def feedSide (o : Op) (k : FillKind) : Side :=
  match o.fused with
  | none => opSide o k
  | some f =>
    let u := fusedOp o.desc f
    let d := ((opPair o).map (fun q => q.d)).getD 1
    let src := fun (x : FusedSrc) => match x with
      | .prog a => a
      | .kept _ => 0
    match k with
    | .b => f.side u.ixB u.cols u.depth (src u.b) o.desc.bWin d
    | _ => f.side u.ixA u.rows u.depth (src u.a) o.desc.aWin d

/-- The fills and loads that the operation at hand runs. -/
def opFills (o : Op) : List FillKind :=
  let d := o.desc
  match o.fused with
  | none =>
    (if d.kind == kTile && !d.aRes || d.kind == kVec && !d.aRes then [FillKind.a] else []) ++
      (if d.kind == kTile && !d.bRes then [FillKind.b] else []) ++ (if d.kind == kTile && d.acc == 1 then [FillKind.init] else [])
  | some f =>
    let u := fusedOp d f
    let one := fun (x : FusedSrc) (k : FillKind) => match x with
      | .prog _ => [k]
      | .kept _ => []
    one u.a .a ++ one u.b .b ++ (if u.init.isSome then [FillKind.init] else [])

/-- The program of the initial values of the operation at hand, and whether they are FP64. -/
def opInit (o : Op) : Nat × Bool :=
  match o.fused with
  | none => (o.desc.init, initWide o)
  | some f => ((fusedOp o.desc f).init).getD (0, false)

/-- The values count of an initial-value program (R104, R115). -/
def initBad (o : Op) (q : Prog) : Bool :=
  q.bad (some ((opShape o).1 * (opShape o).2.2)) 0 (if (opInit o).2 then 64 else 32) (opShape o).2.2 false none

/-- The lines of a converted tensor that stands in the scratch window as codes, block scales and tile scales. -/
def Fused.keptLines (f : Fused) (key : Nat) (x : Side) : List (List Chunk) :=
  let v := f.get key
  (stagedForm x.word x.lines x.len x.depth (v.getD 0 []) (v.getD 1 []) (v.getD 2 [])).chunkLines x.word x.lines x.depth x.d

/-- Reads a tensor through its source program for the Whisk (R104, R106); the fault code and sub-code otherwise. -/
def State.fusedFill (s : State) (n p : Nat) (o : Op) (x : Side) : State × Except (Nat × Nat) (List (List Chunk)) :=
  let r := s.readProg n p o.desc.step x.src
  match r.2 with
  | .error e => (r.1, .error (tfBus, e.code))
  | .ok q =>
    if srcBad x false false q then (r.1, .error (tfAddr, 0))
    else
      let t := r.1.fillSide n p o x false q
      (t.1, match t.2 with
        | .error e => .error (tfBus, e.code)
        | .ok g => .ok (g.chunkLines x.word x.lines x.depth x.d))

/-- An operand of an internal operation: from its window, or from the scratch window. -/
def State.fusedOperand (s : State) (n : Nat) (o : Op) (f : Fused) (src : FusedSrc) (k : FillKind) :
    State × Except BusErr (List (List Chunk)) :=
  match src with
  | .prog _ => s.stagedLines n (feedSide o k)
  | .kept key => (s, .ok (f.keptLines key (feedSide o k)))

/-- A program of so many unscaled FP32 values is invalid (R104). -/
def vecBad (count : Nat) (q : Prog) : Bool := q.bad (some count) 0 32 count false none

/-- Unscaled FP32 values through a program. -/
def State.fusedVec (s : State) (n p : Nat) (o : Op) (a count : Nat) : State × Except (Nat × Nat) (List Nat) :=
  let r := s.readProg n p o.desc.step a
  match r.2 with
  | .error e => (r.1, .error (tfBus, e.code))
  | .ok q =>
    if vecBad count q then (r.1, .error (tfAddr, 0))
    else
      let g := r.1.gather n p o.desc.step q 0xB 0
      (g.1, match g.2 with
        | .error e => .error (tfBus, e.code)
        | .ok v => .ok v.codes)

/-- FP32 lanes of a stored tensor's lines, `len` of each, in rows of the tile: a tensor blocked along tokens is stored by columns. -/
def laneRows (tokens : Bool) (rows len : Nat) (l : List (List Chunk)) : List (List Nat) :=
  let v := l.map (fun x => ((laneValues false x).take len).map (fun y => y.toNat))
  if tokens then (List.range rows).map (fun i => v.map (fun c => c.getD i 0)) else v

/-- What a Whisk pass reads through a program: a stored tensor of an entry, of rows and columns of the tile, or FP32 values. -/
inductive FusedRead where
  | tensor (ix rows cols src : Nat)
  | vec (src count : Nat)
  deriving DecidableEq, Repr

/-- The side of a stored tensor that the Whisk reads. -/
def Fused.readSide (f : Fused) (ix rows cols src : Nat) : Side :=
  if alongTokens (ix % 8) then f.side ix cols rows src 0 0 else f.side ix rows cols src 0 0

/-- The program that a read walks is invalid. -/
def FusedRead.bad (f : Fused) (q : Prog) : FusedRead → Bool
  | .tensor ix rows cols src => srcBad (f.readSide ix rows cols src) false false q
  | .vec _ count => vecBad count q

def FusedRead.src : FusedRead → Nat
  | .tensor _ _ _ a => a
  | .vec a _ => a

/-- Reads what a pass reads, in rows. -/
def State.fusedRead (s : State) (n p : Nat) (o : Op) (f : Fused) : FusedRead → State × Except (Nat × Nat) (List (List Nat))
  | .tensor ix rows cols src =>
    let x := f.readSide ix rows cols src
    let r := s.fusedFill n p o x
    (r.1, match r.2 with
      | .error e => .error e
      | .ok l => .ok (laneRows (alongTokens (ix % 8)) rows x.len l))
  | .vec src count =>
    let r := s.fusedVec n p o src count
    (r.1, match r.2 with
      | .error e => .error e
      | .ok l => .ok [l])

/-- Reads in order; the first failure ends them. -/
def State.fusedReads (s : State) (n p : Nat) (o : Op) (f : Fused) : List FusedRead → State × Except (Nat × Nat) (List (List (List Nat)))
  | [] => (s, .ok [])
  | x :: l =>
    let r := s.fusedRead n p o f x
    match r.2 with
    | .error e => (r.1, .error e)
    | .ok v =>
      let t := r.1.fusedReads n p o f l
      (t.1, match t.2 with
        | .error e => .error e
        | .ok m => .ok (v :: m))

/-- What the pass behind the internal operation at hand reads (R132, R133): x and gamma of a normalisation's tile; dO, O and L before
attention's first key tile. -/
def Fused.reads (f : Fused) (m : Nat) : List FusedRead :=
  match f.kind with
  | .normBwd | .rmsBwd =>
    [.tensor (f.ent 2) (f.rows m) f.cols (f.prog 0 (f.at.1 * f.tiles + f.at.2.1)), .vec (f.prog 1 f.at.2.1) f.cols]
  | .attnBwd =>
    if f.at.2 = (0, 0) then
      [.tensor (f.ent 3) m f.par.head (f.prog 3 0), .tensor (f.ent 4) m f.par.head (f.prog 4 0), .vec (f.prog 8 0) m]
    else []

/-! ## What a pass writes -/

/-- A tile that a pass writes: rows, columns, and its writes. -/
structure PassShape where
  rows : Nat
  cols : Nat
  outs : List OutSide
  deriving DecidableEq, Repr

/-- The descriptor's writes for a tile, by the number of the tile. -/
def tileOuts (o : Op) (k : Nat) : List OutSide := (opOuts o).map (fun x => { x with prog := x.prog + progBytes * k })

/-- A write that a parameter block names. -/
def Fused.out (f : Fused) (ix prog : Nat) : OutSide := { layer := ix / 8, role := ix % 8, word := f.word ix, prog := prog }

/-- The tiles that the pass behind the internal operation at hand writes. Behind a block's last tile a normalisation writes dx of every tile,
and behind the last block dgamma and dbeta as the layer's dW (R132). Attention writes dV and dK of each key tile, but where they are held
for a chained kernel, and dQ at the last one (R133). -/
def Fused.shapes (f : Fused) (o : Op) : List PassShape :=
  let b := f.at.1
  let j := f.at.2.1
  match f.kind with
  | .normBwd | .rmsBwd =>
    if j + 1 < f.tiles then []
    else
      let width := fun (k : Nat) => min f.width (f.par.feats - k * f.width)
      let sums := fun (prog : Nat) => (List.range f.tiles).map (fun k =>
        ({ rows := 1, cols := width k, outs := [{ layer := o.desc.layer, role := roleDW, word := 0, prog := f.prog prog k }] } : PassShape))
      (List.range f.tiles).map (fun k => ({ rows := f.rows o.desc.m, cols := width k, outs := tileOuts o (b * f.tiles + k) } : PassShape)) ++
        (if b + 1 < f.blocks o.desc.m then [] else sums 2 ++ sums 3)
  | .attnBwd =>
    let kept := fun (ix prog : Nat) => if o.desc.isFinal then [{ rows := f.width, cols := f.par.head, outs := [f.out ix prog] }] else []
    match f.at.2.2 with
    | 2 => kept (f.ent 9) (f.prog 9 j)
    | 3 => if j + 1 < f.tiles then [] else [{ rows := o.desc.m, cols := f.par.head, outs := tileOuts o 0 }]
    | 4 => kept (f.ent 8) (f.prog 10 j)
    | _ => []

/-- Bytes of a converted tensor of lines. -/
def formBytesOf (w : BitVec 16) (lines len : Nat) : Nat :=
  let line := blockPad w len
  let blk := blockOf (cwScl w)
  (lines * line * (fmtOf (cwFmt w)).width + 7) / 8 + (if blk = 0 then 0 else lines * (line / blk)) +
    (if cwScl w = 2 then 4 * ((lines + 127) / 128) * ((line + 127) / 128) else 0)

/-- Bytes that a kernel holds in its scratch window (R131 to R133): of a normalisation one block of rows, which takes at least 16; of
attention P, its packed form, the two forms of dS, L and D, and, `held`, the dV and dK of its tiles. -/
def Fused.scratch (f : Fused) (m : Nat) (held : Bool) : Nat :=
  match f.kind with
  | .normBwd | .rmsBwd => (max 16 f.block) * (8 * f.par.feats + 32)
  | .attnBwd =>
    4 * m * f.width + formBytesOf (f.word (f.score roleY)) f.width m + formBytesOf (f.word (f.score roleDX)) m f.width +
      formBytesOf (f.word (f.score roleDX)) f.width m + 8 * m +
      (if held then f.tiles * f.width * f.par.head *
        ((if f.wide (f.score roleY) (f.ent 5) then 8 else 4) + (if f.wide (f.score roleDX) (f.ent 7) then 8 else 4))
       else 0)

/-- Every address program that a kernel walks, with what R104 asks of it: operands, initial values, what its passes read and write. -/
def fusedProgs (o : Op) (f : Fused) : List (Nat × (Prog → Bool)) :=
  (fusedAll o f).flatMap (fun r => match r.fused with
    | none => []
    | some g =>
      let u := fusedOp o.desc g
      let side := fun (x : FusedSrc) (k : FillKind) => match x with
        | .prog a => [(a, srcBad (feedSide r k) false (k == .b))]
        | .kept _ => []
      side u.a .a ++ side u.b .b ++ (u.init.toList.map (fun x => (x.1, initBad r))) ++
        (g.reads o.desc.m).map (fun x => (x.src, fun q => x.bad g q)) ++
        (g.shapes r).flatMap (fun x => x.outs.map (fun y => (y.prog, outBad x.rows x.cols y))))

/-! ## Whisk arithmetic (R128, R129) -/

def wAdd (a b : Nat) : Nat := fp32.bin Num.add a b
def wSub (a b : Nat) : Nat := fp32.bin (fun x y => x.add y.negate) a b
def wMul (a b : Nat) : Nat := fp32.bin Num.mul a b
def wDiv (a b : Nat) : Nat := fp32.quot a b
def wNat (n : Nat) : Nat := fp32.rne true (.fin false n 0)

/-- A row's sum joins a running one: each group of 256 by the pairwise tree, the groups in ascending column order (R129). -/
def rowAcc (acc : Nat) (l : List Nat) : Nat := (chunks groupLanes l.length l).foldl (fun a g => wAdd a (treeReduce wAdd 9 g)) acc

/-- Rows of running sums that take a tile's rows. -/
def rowsAcc (acc : List Nat) (m : List (List Nat)) : List Nat := m.zipIdx.map (fun r => rowAcc (acc.getD r.2 0) r.1)

/-- Column sums in ascending row order. -/
def colAcc (acc : List Nat) (m : List (List Nat)) : List Nat :=
  m.foldl (fun a r => r.zipIdx.map (fun x => wAdd (a.getD x.2 0) x.1)) acc

def zipRows (f : Nat → Nat → Nat) (a b : List (List Nat)) : List (List Nat) := List.zipWith (List.zipWith f) a b

/-! ### Normalisation (R132) -/

/-- The first pass of a tile: g, x and the row sums, and dbeta's column sums. -/
def Fused.normTile (f : Fused) (dy x : List (List Nat)) (gamma : List Nat) : Fused :=
  let j := f.at.2.1
  let g := dy.map (fun r => List.zipWith wMul r gamma)
  let s := f.get kSums
  let sums := [rowsAcc (s.getD 0 []) g, rowsAcc (s.getD 1 []) (zipRows wMul g x), rowsAcc (s.getD 2 []) x, rowsAcc (s.getD 3 []) (zipRows wMul x x)]
  let db := (List.range f.tiles).map (fun i => (f.get kDbeta).getD i [])
  ((((f.put kSums sums).put kDbeta (db.modify j (fun a => colAcc a dy))).put (kTile0 + 3 * j) dy).put (kTile0 + 1 + 3 * j) g).put
    (kTile0 + 2 + 3 * j) x

/-- Per row: mu, r, c1 and c2. -/
def Fused.normRow (f : Fused) (i : Nat) : Nat × Nat × Nat × Nat :=
  let s := fun k => ((f.get kSums).getD k []).getD i 0
  let feats := wNat f.par.feats
  let rms := f.kind == .rmsBwd
  let mu := if rms then 0 else wDiv (s 2) feats
  let r := fp32.approx .rsqrt false (wAdd (wSub (wDiv (s 3) feats) (wMul mu mu)) f.par.konst.toNat)
  let c1 := if rms then 0 else wDiv (s 0) feats
  (mu, r, c1, wDiv (wMul r (wSub (s 1) (wMul mu (s 0)))) feats)

/-- The second pass of a tile: dx, and dgamma's column sums. -/
def Fused.normDx (f : Fused) (j : Nat) : Fused × List (List Nat) :=
  let g := f.get (kTile0 + 1 + 3 * j)
  let x := f.get (kTile0 + 2 + 3 * j)
  let rows := (List.zip g x).zipIdx.map (fun e =>
    let q := f.normRow e.2
    let xhat := e.1.2.map (fun y => wMul (wSub y q.1) q.2.1)
    (xhat, List.zipWith (fun a h => wMul q.2.1 (wSub (wSub a q.2.2.1) (wMul h q.2.2.2))) e.1.1 xhat))
  let dg := (List.range f.tiles).map (fun i => (f.get kDgamma).getD i [])
  (f.put kDgamma (dg.modify j (fun a => colAcc a (zipRows wMul (f.get (kTile0 + 3 * j)) (rows.map (fun r => r.1))))), rows.map (fun r => r.2))

/-- The second pass over every tile: dx by tile. -/
def Fused.normEnd (f : Fused) : Fused × List (List (List Nat)) :=
  (List.range f.tiles).foldl (fun (a : Fused × List (List (List Nat))) j =>
    let r := a.1.normDx j
    (r.1, a.2 ++ [r.2])) (f, [])

/-! ### Attention (R133) -/

/-- log2(e), rounded to FP32. -/
def log2e : Nat := fp32.rne true (.fin false 0x171547652B82FE17 (-60))

/-- P = exp2(tau × log2(e) × S − L). -/
def Fused.softP (f : Fused) (sc : List (List Nat)) (l : List Nat) : List (List Nat) :=
  let c := wMul f.par.konst.toNat log2e
  sc.zipIdx.map (fun r => r.1.map (fun x => fp32.approx .exp2 false (wSub (wMul c x) (l.getD r.2 0))))

/-- D = rowsum(dO ⊙ O). -/
def rowDots (a b : List (List Nat)) : List Nat := (zipRows wMul a b).map (rowAcc 0)

/-- dS = P ⊙ (dP − D). -/
def scoreGrad (p dp : List (List Nat)) (d : List Nat) : List (List Nat) :=
  (List.zip p dp).zipIdx.map (fun r => List.zipWith (fun x y => wMul x (wSub y (d.getD r.2 0))) r.1.1 r.1.2)

end Sys2Proof.Machine
end

