-- ==== Sys2Proof/Machine/Observe.lean ====
section
/-! DEFINITION. Observation (22_observation.md): the readable copies, clearing, and the trace ring. -/

namespace Sys2Proof.Machine

/-! ## Counters (R394) -/

/-- READABLE_COPY: a clocked rack's copies take the live counts unless FREEZE holds them. -/
def State.readableCopy (s : State) (n : Nat) : State :=
  if s.isOn n && !(s.island n).stopped then
    s.modRack n (fun r => if r.obs.freeze then r else { r with obs := { r.obs with copy := r.obs.live } })
  else s

def execReadableCopy (n : Rack) (s : State) : Host.Outcome State Fault Refusal := .next (s.readableCopy n.val)

/-- COUNTER_CLEAR: the counts and copies are zeroed before the other bits of the write act (R401). -/
def counterClearBody : RowBody := writeBody (fun s _ r v =>
  match r with
  | .obsCtl n => ((s.modRack n (fun k => { k with obs := { k.obs with live := [], copy := [] } })).putReg v r, ok)
  | _ => (s, ok))

def execCounterClear (c : Cmd) (s : State) : Host.Outcome State Fault Refusal :=
  .next (s.host c (isWrite .counterClear) counterClearBody)

/-! ## The trace ring (R395 to R398) -/

/-- The ring is placed as R395 asks: in a Pantry, aligned to its size, in a data region that every traced rack's
partition owns, or a common one. -/
def State.tracePlaced (s : State) : Bool :=
  let a := s.trc.base.toNat
  let n := s.trc.ringBytes
  isPantryKey a && isPantryKey (a + n - 1) && a % n == 0 &&
    (match s.traceRegion with
     | none => false
     | some r => r.kind == .data &&
       (match r.owner with
        | none => true
        | some o => (List.range 48).all (fun k => !(s.rack k).obs.trace || s.partOf k == some o.val)))

/-- TRACE_ENABLE: a reserved SIZE leaves everything as it was; a ring out of place leaves ENABLE clear. -/
def traceEnableBody : RowBody := writeBody (fun s _ r v =>
  if 8 < fieldOf v 7 4 then ({ s with trc := { s.trc with status := 3 } }, ok)
  else
    let t := s.putReg v r
    if t.tracePlaced then ({ t with trc := { t.trc with status := 0 } }, ok)
    else ({ t with trc := { t.trc with status := 1, enable := false } }, ok))

def execTraceEnable (c : Cmd) (s : State) : Host.Outcome State Fault Refusal :=
  .next (s.host c (isWrite .traceEnable) traceEnableBody)

/-- The 32 bytes of a record (R396). -/
def traceBytes (r : TraceRec) : List Byte :=
  let b := fun (x : Bool) (lo : Nat) => if x then 1 <<< lo else 0
  leBytes 8 (r.time % 2 ^ 40 ||| r.kind <<< 40 ||| r.rack <<< 45 ||| r.slot <<< 51 ||| b r.backward 58 ||| r.prio <<< 59 |||
      b r.proof 61) ++
    leBytes 8 (r.step.toNat ||| r.layer <<< 32 ||| r.opid <<< 48) ++
    leBytes 8 (r.mb ||| r.gang <<< 8 ||| (r.arg0 % 2 ^ 32) <<< 16) ++ leBytes 8 r.arg1

/-- Records that the ring holds. -/
def Trace.slots (t : Trace) : Nat := t.ringBytes / 32

/-- Writing has to stop: STOP mode with HEAD about to reach TAIL (R398). -/
def Trace.full (t : Trace) : Bool := t.stop && (t.head.toNat + 1) % t.slots == t.tail.toNat % t.slots

/-- One record lost at the ring. -/
def Trace.lose (t : Trace) : Trace := { t with lost := satAdd t.lost 1, lostRun := t.lostRun + 1 }

/-- One record at HEAD; one that the Pantry does not take is lost (01_architecture.md R13). -/
def State.traceAppend (s : State) (r : TraceRec) : State :=
  let h := s.trc.head.toNat % s.trc.slots
  let t := s.write .processor (s.trc.base.toNat + 32 * h) (traceBytes r)
  match t.2 with
  | some _ => { t.1 with trc := t.1.trc.lose }
  | none => { t.1 with trc := { t.1.trc with head := BitVec.ofNat 24 ((h + 1) % s.trc.slots) } }

/-- A record that says how many were lost (R397). -/
def lostRecord (time n : Nat) (rack : Nat) : TraceRec :=
  { time := time, kind := tLost, rack := rack, slot := 0x7F, backward := false, prio := 0, proof := false, step := 0, layer := 0
    opid := 0, mb := 0, gang := 0, arg0 := n, arg1 := 0 }

/-- The ring's region carries the mark of a faulted partition (04_trays_racks_partitions.md R90). -/
def State.traceFaulted (s : State) : Bool :=
  match (s.regionAt s.trc.base.toNat).bind (fun r => r.owner) with
  | some o => (s.part o.val).faultedMark
  | none => false

/-- A record reaches the ring: discarded and counted where it cannot be written; a LOST record goes first when writing
resumes. -/
def State.traceStore (s : State) (r : TraceRec) : State :=
  if s.trc.full || s.traceFaulted then { s with trc := s.trc.lose }
  else if s.trc.lostRun = 0 then s.traceAppend r
  else
    let t := s.traceAppend (lostRecord r.time s.trc.lostRun r.rack)
    if t.trc.head = s.trc.head then t
    else
    let t := { t with trc := { t.trc with lostRun := 0 } }
    if t.trc.full then { t with trc := t.trc.lose } else t.traceAppend r

/-- TRACE_WRITE: the first record of a rack's queue leaves it, while the rack and the hub that holds the ring run (R401,
01_architecture.md R13). -/
def State.traceWrite (s : State) (n : Nat) : State :=
  match (s.rack n).obs.queue with
  | [] => s
  | r :: rest =>
    if !(s.trc.enable && s.isOn 78 && s.isOn n && !(s.island n).stopped) then s
    else (s.modRack n (fun k => { k with obs := { k.obs with queue := rest } })).traceStore r

def execTraceWrite (n : Rack) (s : State) : Host.Outcome State Fault Refusal := .next (s.traceWrite n.val)

end Sys2Proof.Machine
end

