-- ==== Sys2Proof/Machine/Trust.lean ====
section
/-! DEFINITION. The Crust (16_trust.md): install records, command keys, the debug challenge, attestation, the mailbox, and
the firmware registers. Outcomes of Falcon-1024 and ML-KEM-1024 are operands (entry 9). -/

namespace Sys2Proof.Machine

/-! ## Images (15_recipes.md R295, R296) -/

/-- `n` zero bytes. -/
def zeros (n : Nat) : List Byte := List.replicate n 0

/-- An image with SIGLEN and SIG taken as zero. -/
def zeroSig (b : List Byte) : List Byte :=
  b.take 1920 ++ zeros 2 ++ (b.drop 1922).take 6 ++ zeros 1536 ++ b.drop 3464

def imageDigest (b : List Byte) : BitVec 256 := digest256 (zeroSig b)

/-- SHAKE256 hash of the PKEY of an image. -/
def imagePkHash (b : List Byte) : BitVec 256 := digest256 ((b.drop 64).take 1793)

/-- A field of a byte string. -/
def bytesField (b : List Byte) (off n : Nat) : Nat := leNat ((b.drop off).take n)

/-- All of a range of bytes is zero. -/
def zeroAt (b : List Byte) (off n : Nat) : Bool := ((b.drop off).take n).all (fun x => x == 0)

/-- A 32-byte hash as bytes. -/
def hashBytes (h : BitVec 256) : List Byte := leBytes 32 h.toNat

/-! ## The mailbox (R326) -/

def State.mailbox (s : State) : List Byte := (List.range 1024).flatMap (fun i => leBytes 8 (tget s.cru.mbox 0 i).toNat)

/-- Writes bytes into the mailbox from word 0. -/
def State.setMailbox (s : State) (b : List Byte) : State :=
  let w := (chunks 8 1024 b).zipIdx
  { s with cru := { s.cru with mbox := w.foldl (fun m e => tset m 0 e.2 (BitVec.ofNat 64 (leNat e.1))) s.cru.mbox } }

/-! ## Install records (R317, R318) -/

def dRecInvalid : BitVec 32 := 0x0101
def dSerial : BitVec 32 := 0x0102
def dOseqOld : BitVec 32 := 0x0103
def dSigner : BitVec 32 := 0x0104
def dSigBad : BitVec 32 := 0x0105
def dSlotState : BitVec 32 := 0x0106
def dChallenge : BitVec 32 := 0x0107

/-- Bytes of an install record. -/
def installLen : Nat := 5120

structure InstallRec where
  op : Nat
  sslot : Nat
  tslot : Nat
  qmask : Nat
  serial : Word64
  oseq : Word64
  newHash : BitVec 256
  pkHash : BitVec 256
  ct : List Byte
  ok : Bool
  deriving DecidableEq, Repr

/-- The record that bytes spell; `ok` says that MAGIC, OP, the lengths and the reserved bytes are as R317 gives them. -/
def installOf (b : List Byte) : InstallRec :=
  let op := bytesField b 4 1
  let t := bytesField b 6 1
  let siglen := bytesField b 3456 2
  { op := op, sslot := bytesField b 5 1, tslot := t, qmask := bytesField b 8 2
    serial := BitVec.ofNat 64 (bytesField b 16 8), oseq := BitVec.ofNat 64 (bytesField b 24 8)
    newHash := BitVec.ofNat 256 (bytesField b 32 32), pkHash := digest256 ((b.drop 1632).take 1793)
    ct := (b.drop 64).take 1568
    ok := b.length == installLen && bytesField b 0 4 == 0xA13C1057 && decide (1 ≤ op ∧ op ≤ 7) &&
      (decide (t < 4) || !(op == 2 || op == 3 || op == 5)) && decide (1 ≤ siglen ∧ siglen ≤ 1536) &&
      zeroAt b 7 1 && zeroAt b 10 6 && zeroAt b 3425 31 && zeroAt b 3458 6 && zeroAt b 5000 120 }

/-- The record of a command: from the mailbox, or from a 64-byte-aligned address in HBM. -/
def State.installBytes (s : State) (c : CmdRec) : State × Except Ending (List Byte) :=
  let a := c.addr.toNat
  if a = 0 then (s, .ok (s.mailbox.take installLen))
  else if a % 64 ≠ 0 ∨ hbmTop < a + installLen then (s, .error (rejected dRecInvalid))
  else
    let p := s.read .processor a installLen
    match p.2 with
    | .ok b => (p.1, .ok b)
    | .error e => (p.1, .error (busError e))

/-- The signer of a record may sign it. -/
def Persist.signerOk (p : Persist) (r : InstallRec) : Bool :=
  if r.op = 5 then p.ownerCount == 0 && r.pkHash == r.newHash
  else if r.op = 7 then p.ownerCount == 0 && r.pkHash == rootHash
  else decide (r.sslot < 4) && tget p.owners none r.sslot == some r.pkHash

/-- The target slot is in the state that the operation needs. -/
def Persist.slotOk (p : Persist) (r : InstallRec) : Bool :=
  if r.op = 2 ∨ r.op = 5 then (tget p.owners none r.tslot).isNone
  else if r.op = 3 then (tget p.owners none r.tslot).isSome
  else true

/-- The first check up to the signature that a record fails, in R318's order: what takes the place of key and tag (R319). -/
def State.installErr (s : State) (r : InstallRec) (debugCmd sigOk : Bool) : Option (BitVec 32) :=
  if !r.ok || (debugCmd != decide (6 ≤ r.op)) then some dRecInvalid
  else if r.serial ≠ s.per.serial then some dSerial
  else if r.oseq.toNat ≤ s.per.oseq.toNat then some dOseqOld
  else if !s.per.signerOk r then some dSigner
  else if !sigOk then some dSigBad
  else none

/-- The checks behind the counter's: the slot state (R318), and the challenge of a debug record (R324). -/
def State.slotErr (s : State) (r : InstallRec) (debugCmd : Bool) : Option (BitVec 32) :=
  if !s.per.slotOk r then some dSlotState
  else if debugCmd && !(s.cru.chalValid && r.newHash == s.cru.chal) then some dChallenge
  else none

/-- A derived command key (R319). -/
def deriveKey (ss : List Byte) (serial : Word64) (q : Nat) : BitVec 256 :=
  digest256 (ss ++ asciiBytes "ALN3-CMDKEY" ++ leBytes 8 serial.toNat ++ [BitVec.ofNat 8 q])

/-- INSTALL: the shared secret is what the device KEM key decapsulates. -/
def State.installKeys (s : State) (r : InstallRec) : State :=
  let ss := Config.decaps s.per.kemPriv r.ct
  let keys := (bitsOf 16 r.qmask).foldl
    (fun m q => tset m none q (some { k := deriveKey ss s.per.serial q, installer := r.sslot })) s.cru.keys
  { s with cru := { s.cru with keys := keys } }

/-- RELEASE. -/
def State.releaseOwners (s : State) : State :=
  { s with per := { s.per with owners := [] }, cru := { s.cru with keys := [] } }

/-- REMOVE_OWNER; removing the last filled slot acts as RELEASE. -/
def State.removeOwner (s : State) (t : Nat) : State :=
  let p := { s.per with owners := tset s.per.owners none t none }
  if p.ownerCount = 0 then s.releaseOwners
  else
    { s with per := p
             cru := { s.cru with keys := s.cru.keys.filter (fun e =>
               match e.2 with
               | some k => k.installer != t
               | none => true) } }

/-- What the OP of a checked record does (R318, R319, R324). -/
def State.installAct (s : State) (r : InstallRec) : State :=
  match r.op with
  | 1 => s.installKeys r
  | 2 | 5 => { s with per := { s.per with owners := tset s.per.owners none r.tslot (some r.newHash) } }
  | 3 => s.removeOwner r.tslot
  | 4 => s.releaseOwners
  | 6 => { s with cru := { s.cru with debug := max s.cru.debug 1 } }
  | _ => { s with cru := { s.cru with debug := 2, keys := [] } }

/-- A checked record acts: the owner sequence becomes OSEQ with the change, or nothing changes. -/
def State.installDo (s : State) (r : InstallRec) (debugCmd stored : Bool) : State × Ending :=
  match s.slotErr r debugCmd with
  | some d => (s, rejected d)
  | none =>
    if !stored then (s, rejected dPstoreFail)
    else
      let t := s.installAct r
      ({ t with per := { t.per with oseq := r.oseq } }, ok)

/-- A checked record whose counter is accepted acts (R319, R321). -/
def State.installRun (s : State) (c : Cmd) (r : InstallRec) (debugCmd stored : Bool) : State × Ending :=
  match s.ctrErr c.q.val c.r with
  | some e => (s, .done e 0 0)
  | none =>
    match s.accept c.q.val c.r.ctr c.pok with
    | none => (s, rejected dPstoreFail)
    | some t => t.installDo r debugCmd stored

/-- The record of KEY_INSTALL or DEBUG: its checks take the place of steps 1 and 2 of R285, and the counter's check follows (R319). -/
def State.processInstall (s : State) (c : Cmd) (debugCmd sigOk stored : Bool) : State :=
  let fin := fun (p : State × Ending) => p.1.finish c.q.val c.r.htag p.2
  if s.badOpcode c.r then fin (s, .done stBadOpcode 0 0)
  else if !c.r.crit then fin (s, .done stNotCritical 0 0)
  else
    match s.tagErr c.q.val c.r with
    | some e => fin (s, .done e 0 0)
    | none =>
      let p := s.installBytes c.r
      match p.2 with
      | .error e => fin (p.1, e)
      | .ok b =>
        match p.1.installErr (installOf b) debugCmd sigOk with
        | some d => fin (p.1, rejected d)
        | none => fin (p.1.installRun c (installOf b) debugCmd stored)

/-- KEY_INSTALL. -/
def execKeyInstall (c : Cmd) (sigOk stored : Bool) (s : State) : Host.Outcome State Fault Refusal :=
  .next (s.hostBy c (fun _ r => r.op == opKeyInstall) (fun u => u.processInstall c false sigOk stored))

/-- DEBUG. -/
def execDebug (c : Cmd) (sigOk : Bool) (s : State) : Host.Outcome State Fault Refusal :=
  .next (s.hostBy c (fun _ r => r.op == opDebug) (fun u => u.processInstall c true sigOk c.pok))

/-! ## The challenge (R324) -/

/-- CHALLENGE_READ: a fresh challenge; its first word is what the read returns. -/
def challengeBody : RowBody := readBody (fun s _ _ =>
  let a := s.free
  let b := a.2.free
  let c := b.2.free
  let d := c.2.free
  let t := d.2
  let v := BitVec.ofNat 256 (a.1.toNat ||| b.1.toNat <<< 64 ||| c.1.toNat <<< 128 ||| d.1.toNat <<< 192)
  ({ t with cru := { t.cru with chal := v, chalValid := true } }, .done stOk 0 a.1))

def execChallengeRead (c : Cmd) (s : State) : Host.Outcome State Fault Refusal :=
  .next (s.host c (isReadOf (fun r => r == some (.cruChal 0))) challengeBody)

/-! ## The mailbox port (R326) -/

/-- MBOX_ACCESS: reads or writes mailbox word INDEX, and INDEX advances. -/
def mboxBody : RowBody := fun s c =>
  let step := fun (t : State) => { t with cru := { t.cru with mboxIdx := t.cru.mboxIdx + 1 } }
  if c.r.op = opRead then readBody (fun t _ r => (step t, .done stOk 0 (BitVec.ofNat 64 (t.readReg r)))) s c
  else writeBody (fun t _ _ v =>
    (step { t with cru := { t.cru with mbox := tset t.cru.mbox 0 t.cru.mboxIdx.toNat (BitVec.ofNat 64 v) } }, ok)) s c

def execMboxAccess (c : Cmd) (s : State) : Host.Outcome State Fault Refusal :=
  .next (s.host c (fun t r => isReadOf (fun x => x == some .cruMboxData) t r || isWrite .mbox t r) mboxBody)

/-! ## Attestation (R323) -/

/-- Policy bytes of every loaded partition, in ascending order. -/
def State.policyDigest (s : State) : List Byte := shake256 (s.rcp.slices.flatMap (fun e => e.2.policy)) 32

/-- Bytes 0 to 2,303 of a report, with SIGLEN and SIG zero. -/
def State.reportBody (s : State) (c : CmdRec) : List Byte :=
  leBytes 4 0xA13CA77E ++ zeros 2 ++ leBytes 1 s.cru.debug ++ leBytes 1 s.per.ownerCount ++
    leBytes 8 s.per.serial.toNat ++ leBytes 8 c.data.toNat ++ leBytes 8 c.arg1.toNat ++ leBytes 8 s.hkp.count ++
    leBytes 4 s.per.boots.toNat ++ leBytes 4 s.cru.fwVer.toNat ++ hashBytes s.cru.fwDigest ++ hashBytes s.rcp.digest ++
    (List.range 8).flatMap (fun p => hashBytes (tget s.rcp.pdigest 0 p)) ++ s.policyDigest ++
    (List.range 4).flatMap (fun i => hashBytes ((tget s.per.owners none i).getD 0)) ++
    (List.range 80).flatMap (fun n => [BitVec.ofNat 8 (s.island n).shown, (s.island n).margin]) ++
    leBytes 8 s.per.ageSeq.toNat ++ zeros 16 ++ zeros 1536 ++ zeros 56

/-- The report with its signature by the identity key. -/
def State.report (s : State) (c : CmdRec) (rnd : List Byte) : List Byte :=
  let b := s.reportBody c
  let g := (Config.falconSign s.per.idPriv (digest256 b) rnd).take 1536
  b.take 704 ++ leBytes 2 g.length ++ (b.drop 706).take 6 ++ g ++ zeros (1536 - g.length) ++ b.drop 2248

/-- ATTEST: a report, or the certificate, into HBM or the mailbox. -/
def attestBody (rnd : List Byte) : RowBody := fun s c =>
  let b := if c.r.arg0.getLsbD 0 then certBytes s.per else s.report c.r rnd
  let a := c.r.addr.toNat
  if a = 0 then (s.setMailbox b, ok)
  else if hbmTop < a + b.length then (s, busError { code := eUnmapped })
  else
    let p := s.write .processor a b
    match p.2 with
    | none => (p.1, ok)
    | some e => (p.1, busError e)

def execAttest (c : Cmd) (rnd : List Byte) (s : State) : Host.Outcome State Fault Refusal :=
  .next (s.host c (fun _ r => r.op == opAttest) (attestBody rnd))

/-! ## Firmware (R314, R316) -/

def State.setFwStatus (s : State) (c : BitVec 4) : State := { s with cru := { s.cru with fwStatus := c } }

/-- Bytes of a firmware slot. -/
def fwMax : Nat := 2 ^ 20

/-- The header of a firmware image: R295's fields as R314 changes them, with every reserved byte zero. -/
def fwHeadOk (b : List Byte) : Bool :=
  bytesField b 0 4 == 0xA13CF003 && bytesField b 4 2 == 1 && bytesField b 6 1 == 0x10 && zeroAt b 22 10 && zeroAt b 40 24 &&
    zeroAt b 1857 63 && decide (1 ≤ bytesField b 1920 2 ∧ bytesField b 1920 2 ≤ 1536) && zeroAt b 1922 6 && zeroAt b 3464 632

/-- STAGE: the image at ADDR is verified and goes into the slot that is not running. -/
def State.stageFw (s : State) (a : Nat) (sigOk pok : Bool) : State :=
  let p := s.read .processor a 4096
  match p.2 with
  | .error _ => p.1.setFwStatus 3
  | .ok h =>
    let len := bytesField h 8 8
    if fwMax < len ∨ len < 4096 then p.1.setFwStatus 3
    else
      let q := p.1.read .processor a len
      match q.2 with
      | .error _ => q.1.setFwStatus 3
      | .ok b =>
        let f : FwImage := { image := b, version := BitVec.ofNat 32 (bytesField b 18 4), digest := imageDigest b, pkHash := imagePkHash b }
        if fwHeadOk b = false ∨ f.pkHash ≠ rootHash ∨ sigOk = false then
          q.1.setFwStatus 1
        else if f.version.toNat < q.1.per.fwMin.toNat then q.1.setFwStatus 2
        else if !pok then q.1.setFwStatus 4
        else
          ({ q.1 with per := if q.1.cru.fwActive then { q.1.per with fwSlot0 := some f }
                             else { q.1.per with fwSlot1 := some f } }).setFwStatus 0

def stageBody (sigOk : Bool) : RowBody := opBody (fun s c _ v => (s.stageFw (fieldOf v 47 0) sigOk c.pok, ok))

def execStage (c : Cmd) (sigOk : Bool) (s : State) : Host.Outcome State Fault Refusal :=
  .next (s.host c (isWrite .stage) (stageBody sigOk))

/-- LOCK: FW_MINVER rises to the running VERSION. -/
def lockBody : RowBody := opBody (fun s c _ _ =>
  if !c.pok then (s.setFwStatus 4, ok)
  else
    let m := if s.per.fwMin.toNat < s.cru.fwVer.toNat then s.cru.fwVer else s.per.fwMin
    (({ s with per := { s.per with fwMin := m } }).setFwStatus 0, ok))

def execLock (c : Cmd) (s : State) : Host.Outcome State Fault Refusal := .next (s.host c (isWrite .lock) lockBody)

end Sys2Proof.Machine
end

