-- ==== Sys2Proof/Machine/Image.lean ====
section
/-! DEFINITION. Recipe images (15_recipes.md R294 to R300): the records that an image's bytes spell, by the layouts of the chapters
that define them, with the values and places that the manual gives no layout (entry 10). -/

namespace Sys2Proof.Machine

/-! ## Places in an image -/

/-- Word `i` of the 64-bit words of a record. -/
def wordAt (b : List Byte) (i : Nat) : Nat := leNat ((b.drop (8 * i)).take 8)

/-- The bytes of a range. -/
def cut (b : List Byte) (off n : Nat) : List Byte := (b.drop off).take n

/-- A number below `n`. -/
def finOf (n v : Nat) (h : 0 < n := by decide) : Fin n := ⟨v % n, Nat.mod_lt _ h⟩

/-- A directory entry and its section's header (R297). -/
def dirOf (b : List Byte) (k : Nat) : DirEnt :=
  let e := cut b (4096 + 32 * k) 32
  let off := bytesField e 8 8
  let h := cut b off 16
  { type := bytesField e 0 2, offset := off, slen := bytesField e 16 8, rsvOk := zeroAt e 2 6 && zeroAt e 24 8
    count := bytesField h 0 4, size := bytesField h 4 4, headOk := zeroAt h 8 8 }

def dirsOf (b : List Byte) : List DirEnt := (List.range (bytesField b 16 2)).map (dirOf b)

/-- Where the records of a section type stand: behind its header, to its end. -/
def recordsOf (dir : List DirEnt) (t : Nat) : Nat × Nat :=
  match dir.find? (fun e => e.type == t) with
  | some e => (e.offset + 16, e.offset + e.slen)
  | none => (0, 0)

/-- A place lies in the records of a section. -/
def inside (x : Nat × Nat) (off n : Nat) : Bool := decide (x.1 ≤ off ∧ off + n ≤ x.2)

/-- Records of `n` bytes each behind another, from a place and as long as they lie in the section. -/
def rowsAt (b : List Byte) (x : Nat × Nat) (start n count : Nat) : List (List Byte) :=
  ((List.range count).filter (fun i => inside x (start + n * i) n)).map (fun i => cut b (start + n * i) n)

/-- A record of `n` bytes at a stated place; none where the place lies outside the section. -/
def rowAt (b : List Byte) (x : Nat × Nat) (off n : Nat) : Option (List Byte) := if inside x off n then some (cut b off n) else none

/-! ## Records -/

/-- A field of bits is zero. -/
def clear (v hi lo : Nat) : Bool := fieldOf v hi lo == 0

/-- A GANGS record (R298). -/
def gangOf (b : List Byte) : GangRec :=
  let h := bytesField b 0 4
  { rack := finOf 48 (fieldOf h 5 0), part := if fieldOf h 11 8 < 8 then some (finOf 8 (fieldOf h 11 8)) else none
    gangStart := BitVec.ofNat 32 (bytesField b 4 4), exclude := BitVec.ofNat 32 (bytesField b 8 4) }

def gangRsv (b : List Byte) : Bool :=
  let h := bytesField b 0 4
  decide (fieldOf h 5 0 < 48) && clear h 7 6 && clear h 31 12 && (decide (fieldOf h 11 8 < 8) || fieldOf h 11 8 == 15) && zeroAt b 12 4

/-- A partition record (R299). -/
def partOfBytes (b : List Byte) : PartRec :=
  let w := wordAt b
  { part := finOf 8 (fieldOf (w 0) 2 0), discard := (w 0).testBit 3, proofK := BitVec.ofNat 4 (fieldOf (w 0) 7 4)
    proofSlots := fieldOf (w 0) 12 8, ageLimit := BitVec.ofNat 24 (fieldOf (w 0) 39 16), phase := BitVec.ofNat 12 (fieldOf (w 0) 51 40)
    racks := ((List.range 48).filter (fun k => (w 1).testBit k)).map (finOf 48)
    lfirst := fieldOf (w 2) 13 0, llast := fieldOf (w 2) 29 16, s0 := BitVec.ofNat 32 (fieldOf (w 3) 31 0)
    watchdog := fieldOf (w 3) 63 32, fscratch := fieldOf (w 4) 22 0, proofSeed := BitVec.ofNat 32 (fieldOf (w 4) 63 32) }

def partRsv (b : List Byte) : Bool :=
  let w := wordAt b
  clear (w 0) 15 13 && clear (w 0) 63 52 && clear (w 1) 63 48 && clear (w 2) 15 14 && clear (w 2) 63 30 && clear (w 4) 31 23 && zeroAt b 40 216

/-- A stream record (R298). -/
def streamOf (b : List Byte) : StreamRec :=
  { rack := finOf 48 (fieldOf (bytesField b 0 2) 5 0), streamId := BitVec.ofNat 16 (bytesField b 2 2), seed := BitVec.ofNat 32 (bytesField b 4 4) }

def streamRsv (b : List Byte) : Bool :=
  decide (fieldOf (bytesField b 0 2) 5 0 < 48) && clear (bytesField b 0 2) 15 6 && zeroAt b 8 8

/-- The KIND codes of R300. -/
def regionKind : Nat → Option RegionKind
  | 1 => some .data | 2 => some .steering | 3 => some .proofRing | 4 => some .exchange | 5 => some .master
  | 6 => some .schedule | 7 => some .ring | 8 => some .fillmap | 9 => some .twinStore | 10 => some .scratch
  | _ => none

/-- A region record (R300). -/
def regionOf (b : List Byte) : RegionRec :=
  let o := bytesField b 16 1
  { base := bytesField b 0 8, size := bytesField b 8 8, owner := if o < 8 then some (finOf 8 o) else none
    kind := (regionKind (bytesField b 17 1)).getD .data }

def regionRsv (b : List Byte) : Bool :=
  (decide (bytesField b 16 1 < 8) || bytesField b 16 1 == 15) && (regionKind (bytesField b 17 1)).isSome && zeroAt b 18 14

/-- A decoder record (11_cellar.md R221). -/
def decoderOf (k : Nat) (b : List Byte) : DecRec :=
  let w := wordAt b
  let dsp := fun (v lo : Nat) => (List.range 8).map (fun i => fieldOf v (lo + 3 * i + 2) (lo + 3 * i))
  { index := k, base := fieldOf (w 0) 15 0, size := fieldOf (w 0) 31 16, pways := fieldOf (w 0) 33 32, eways := fieldOf (w 0) 35 34
    gran := fieldOf (w 0) 37 36, ports := (List.range 4).map (fun i => fieldOf (w 0) (39 + 2 * i) (38 + 2 * i)), ring := (w 0).testBit 46
    dsps := [dsp (w 1) 0, dsp (w 1) 24, dsp (w 2) 0, dsp (w 2) 24] }

def decoderRsv (b : List Byte) : Bool :=
  let w := wordAt b
  fieldOf (w 0) 33 32 != 3 && fieldOf (w 0) 37 36 != 3 && clear (w 0) 63 47 && clear (w 1) 63 48 && clear (w 2) 63 48 && zeroAt b 24 8

/-- Ranks of a bitmap: rank r is bit r mod 8 of byte r / 8 (R298; entry 10). -/
def ranksOf (b : List Byte) : List Nat :=
  (List.range (8 * b.length)).filter (fun r => (b.getD (r / 8) 0).toNat.testBit (r % 8))

def lstateOf : Nat → LState
  | 1 => .steady | 2 => .settling | 3 => .ceiling | _ => .fixed

/-- A Ledger entry (07_precision_steering.md R136). -/
def ledgerOf (b : List Byte) : LedgerEntry :=
  let v := leNat b
  { camaxO := BitVec.ofNat 32 (fieldOf v 127 96), camaxE := BitVec.ofNat 32 (fieldOf v 95 64), pin := v.testBit 60
    state := lstateOf (fieldOf v 59 58), group := BitVec.ofNat 4 (fieldOf v 57 54), cls := BitVec.ofNat 5 (fieldOf v 53 49)
    ncnt := BitVec.ofNat 8 (fieldOf v 48 41), wcnt := BitVec.ofNat 5 (fieldOf v 40 36), rung := BitVec.ofNat 3 (fieldOf v 34 32)
    cwO := BitVec.ofNat 16 (fieldOf v 31 16), cwE := BitVec.ofNat 16 (fieldOf v 15 0) }

def ledgerRsv (b : List Byte) : Bool := clear (leNat b) 63 61 && clear (leNat b) 35 35

/-- A policy class (R147). -/
def classOf (b : List Byte) : ClassRec :=
  let w := wordAt b
  let f32 := fun (v hi lo : Nat) => BitVec.ofNat 32 (fieldOf v hi lo)
  { rungs := (List.range 8).map (fun i => BitVec.ofNat 16 (bytesField b (2 * i) 2)), nrung := fieldOf (w 2) 2 0, ceil := fieldOf (w 2) 6 4
    floor := fieldOf (w 2) 10 8, wpersist := fieldOf (w 2) 20 16, hyst := fieldOf (w 2) 31 24, pmin := fieldOf (w 2) 47 32
    peWiden := f32 (w 3) 31 0, peNarrow := f32 (w 3) 63 32, satWiden := f32 (w 4) 31 0, flushWiden := f32 (w 4) 63 32
    satNarrow := f32 (w 5) 31 0, flushNarrow := f32 (w 5) 63 32, uwqWiden := f32 (w 6) 31 0, uwqNarrow := f32 (w 6) 63 32 }

/-- Reserved bits, and the ranges that R147 states. -/
def classRsv (b : List Byte) : Bool :=
  let v := wordAt b 2
  clear v 3 3 && clear v 7 7 && clear v 15 11 && clear v 23 21 && clear v 63 48 && !clear v 20 16 && !clear v 31 24 && !clear v 47 32 &&
    wordAt b 7 == 0

/-- A bucket record (08_training_step.md R164); its route set, which the record does not hold, is stated beside it. -/
def bucketOfBytes (rset : Nat) (b : List Byte) : BucketRec :=
  let w := wordAt b
  { bid := BitVec.ofNat 20 (fieldOf (w 0) 19 0), paired := fieldOf (w 0) 21 20 == 1, relcnt := fieldOf (w 0) 37 22
    rrack := finOf 48 (fieldOf (w 0) 43 38), owner := fieldOf (w 0) 61 48, acc := fieldOf (w 1) 47 0, nseg := fieldOf (w 1) 63 48
    gret := fieldOf (w 2) 47 0, par0 := fieldOf (w 3) 47 0, par1 := fieldOf (w 4) 47 0
    arack := finOf 48 (fieldOf (w 5) 5 0), actr := fieldOf (w 5) 11 6, crack := finOf 48 (fieldOf (w 5) 17 12), cctr := fieldOf (w 5) 23 18
    cval := fieldOf (w 5) 55 24, lfirst := fieldOf (w 6) 13 0, llast := fieldOf (w 6) 27 14, rset := rset }

/-- Reserved bits and values, and the ranges that R164 states. -/
def bucketRsv (b : List Byte) : Bool :=
  let w := wordAt b
  decide (fieldOf (w 0) 19 0 ≤ 0xFFFEF) && decide (fieldOf (w 0) 21 20 < 2) && !clear (w 0) 37 22 && decide (fieldOf (w 0) 43 38 < 48) &&
    clear (w 0) 47 44 && clear (w 0) 63 62 && !clear (w 1) 63 48 && clear (w 2) 63 48 && clear (w 3) 63 48 && clear (w 4) 63 48 &&
    decide (fieldOf (w 5) 5 0 < 48) && decide (fieldOf (w 5) 17 12 < 48) && clear (w 5) 63 56 && clear (w 6) 63 28 && w 7 == 0

/-- A parameter-map entry (09_kneader.md R200). -/
def layerOf (bid : BitVec 20) (b : List Byte) : LayerMap :=
  let w := wordAt b
  { bid := bid, layer := fieldOf (w 0) 13 0, o := fieldOf (w 0) 29 14, i := fieldOf (w 0) 45 30, moff := fieldOf (w 1) 39 0
    wprg := fieldOf (w 2) 47 0, tprg := fieldOf (w 3) 47 0 }

def layerRsv (b : List Byte) : Bool :=
  let w := wordAt b
  !clear (w 0) 29 14 && !clear (w 0) 45 30 && clear (w 0) 63 46 && clear (w 1) 63 40 && clear (w 2) 63 48 && clear (w 3) 63 48

/-- An owner record (R195). -/
def ownerOf (b : List Byte) : OwnerRec :=
  let w := wordAt b
  { bid := BitVec.ofNat 20 (fieldOf (w 0) 19 0), rset := fieldOf (w 0) 27 20, eng := fieldOf (w 0) 28 28, mw40 := (w 0).testBit 29
    bound := (w 0).testBit 30, guardBits := fieldOf (w 0) 35 32, nstate := fieldOf (w 0) 38 36, uprog := fieldOf (w 0) 46 39
    sched := fieldOf (w 0) 50 47, holders := fieldOf (w 0) 63 51, mg0 := fieldOf (w 1) 47 0, mg1 := fieldOf (w 2) 47 0
    sg0 := fieldOf (w 3) 47 0, sg1 := fieldOf (w 4) 47 0, spitch := fieldOf (w 5) 47 0, pmap := fieldOf (w 6) 47 0, const := fieldOf (w 7) 47 0 }

def ownerRsv (b : List Byte) : Bool :=
  let w := wordAt b
  clear (w 0) 31 31 && decide (fieldOf (w 0) 35 32 ≤ 8) && decide (fieldOf (w 0) 38 36 ≤ 4) &&
    (List.range 7).all (fun i => clear (w (i + 1)) 63 48)

/-! ## The whole image -/

/-- The reserved fields of the header, and what it states of its own fields (R295). -/
def headerRsv (b : List Byte) : Bool :=
  let n := bytesField b 1920 2
  zeroAt b 18 14 && zeroAt b 40 24 && zeroAt b 1857 63 && zeroAt b 1922 6 && zeroAt b 3464 632 && decide (1 ≤ n ∧ n ≤ 1536) &&
    zeroAt b (1928 + n) (1536 - n)

/-- Records that hold a reserved bit or value, of a section type. -/
def badRows (t : Nat) (l : List (List Byte)) (okf : List Byte → Bool) : List (Nat × Nat) :=
  (l.zipIdx.filter (fun x => !okf x.1)).map (fun x => (t, x.2))

/-- The entries of the LEDGER section that stand at a partition's place: its layer range in ascending index. -/
def ledgerRows (b : List Byte) (x : Nat × Nat) (parts : List PartRec) (a : RecAt) : List (Nat × List Byte) :=
  match parts.find? (fun r => r.part == a.part) with
  | none => []
  | some r => ((List.range (8 * (r.llast + 1 - r.lfirst))).filter (fun i => inside x (a.offset + 16 * i) 16)).map
      (fun i => (8 * r.lfirst + i, cut b (a.offset + 16 * i) 16))

/-- Policy classes of a partition as bytes, in ascending class number. -/
def classBytes (b : List Byte) (x : Nat × Nat) (lay : ImageLay) (p : Part) (use : Nat → Bool) : List Byte :=
  (List.range 32).flatMap (fun k => if !use k then [] else
    (lay.classes.filter (fun c => c.1 == k && c.2.part == p)).flatMap (fun c => (rowAt b x c.2.offset 64).getD []))

/-- Lock-map records of a partition as bytes, in ascending lock-set number. -/
def lockBytes (b : List Byte) (x : Nat × Nat) (lay : ImageLay) (p : Part) (use : LockAt → Bool) : List Byte :=
  let mine := lay.locks.filter (fun k => k.place.part == p && use k)
  (List.range 8192).flatMap (fun n =>
    (mine.filter (fun k => k.set == n)).flatMap (fun k => (rowAt b x k.place.offset k.place.len).getD []))

/-- A steering group with its range of indices, which is that of its entries outside Fixed, and the bytes of its policy digest: the
classes that its entries name, its record, and its lock sets (R149, R151). -/
def groupOfLay (b : List Byte) (x : Nat × Nat) (lay : ImageLay) (parts : List PartRec) (ledger : List (Nat × LedgerEntry)) (g : GroupAt) :
    GroupRec :=
  let r := parts.find? (fun y => y.part == g.place.part)
  let mine := ledger.filter (fun e => e.2.group.toNat == g.group.val &&
    (r.map (fun y => decide (y.lfirst ≤ e.1 / 8 ∧ e.1 / 8 ≤ y.llast))).getD false)
  let ix := (mine.filter (fun e => e.2.state != .fixed)).map (fun e => e.1)
  { group := g.group, part := g.place.part, members := g.members, owner := g.owner, bucket := g.bucket
    lo := ix.foldl min (ix.headD 0), hi := ix.foldl max 0
    policyBytes := classBytes b x lay g.place.part (fun k => mine.any (fun e => e.2.cls.toNat == k)) ++
      (rowAt b x g.place.offset g.place.len).getD [] ++
      lockBytes b x lay g.place.part (fun k => k.entries.any (fun i => mine.any (fun e => e.1 == i))) }

/-- A route set as a device of a rank holds it (R177). -/
def routeSetOf (own : Nat) (r : RouteSetAt) : RouteSet :=
  { rset := r.rset, owner := r.owner, members := r.members
    routes := r.routes.map (fun l => match l.find? (fun n => n.rank == own) with
      | some n => { parent := n.parent.map (fun x => x.1), parentRank := (n.parent.map (fun x => x.2)).getD 0, children := n.children, nodes := l }
      | none => { parent := none, parentRank := 0, children := [], nodes := l }) }

/-- Bytes to copy, where the place lies in its section. -/
def copyOf (b : List Byte) (x : Nat × Nat) (c : CopyAt) : Option BlobRec := (rowAt b x c.offset c.len).map (fun l => { addr := c.addr, bytes := l })

/-- What a layout states of records without a layout counts only where the image holds their section (R298). -/
def layWithin (lay : ImageLay) (dir : List DirEnt) : ImageLay :=
  let has := fun (t : Nat) => dir.any (fun e => e.type == t)
  { lay with
    windows := if has 0x03 then lay.windows else [], expected := if has 0x04 then lay.expected else []
    ide := if has 0x04 then lay.ide else [], links := if has 0x05 then lay.links else none
    groups := if has 0x07 then lay.groups else [], locks := if has 0x07 then lay.locks else []
    entries := if has 0x08 then lay.entries else [], library := if has 0x08 then lay.library else []
    rsets := if has 0x0A then lay.rsets else [], scheds := if has 0x0A then lay.scheds else []
    snaps := if has 0x0B then lay.snaps else [], clocks := if has 0x0C then lay.clocks else [] }

/-- The image that bytes spell, for a device of a rank. -/
def imageOf (rank : Nat) (lay : ImageLay) (b : List Byte) : Image :=
  let dir := dirsOf b
  let x := recordsOf dir
  let lay := layWithin lay dir
  let own := (lay.links.map (fun l => l.rank.toNat)).getD rank
  let gangs := rowsAt b (x 0x01) (x 0x01).1 16 ((x 0x01).2 / 16)
  let np := ((dir.find? (fun e => e.type == 0x02)).map (fun e => e.count)).getD 0
  let parts := rowsAt b (x 0x02) (x 0x02).1 256 np
  let streams := rowsAt b (x 0x02) ((x 0x02).1 + 256 * np) 16 ((x 0x02).2 / 16)
  let regions := rowsAt b (x 0x03) ((x 0x03).1 + 32) 32 lay.regionCount
  let decoders := rowsAt b (x 0x04) (x 0x04).1 32 lay.decoderCount
  let prec := parts.map partOfBytes
  let ledger := lay.ledger.flatMap (ledgerRows b (x 0x07) prec)
  let lrec := ledger.map (fun e => (e.1, ledgerOf e.2))
  let classes := lay.classes.filterMap (fun c => (rowAt b (x 0x07) c.2.offset 64).map (fun r => (c.2.part, c.1, r)))
  let buckets := lay.buckets.filterMap (fun c => (rowAt b (x 0x09) c.2.offset 64).map (fun r => (c.2.part, c.1, r)))
  let layers := lay.layers.filterMap (fun c => (rowAt b (x 0x09) c.2.offset 32).map (fun r => (c.2.part, c.1, r)))
  let owners := lay.owners.filterMap (fun c => (rowAt b (x 0x0A) c.offset 64).map (fun r => (c.part, r)))
  { magic := BitVec.ofNat 32 (bytesField b 0 4), format := BitVec.ofNat 16 (bytesField b 4 2), kind := b.getD 6 0, part := b.getD 7 0
    length := bytesField b 8 8, rsvOk := headerRsv b, imgid := BitVec.ofNat 64 (bytesField b 32 8), pkHash := imagePkHash b, dir := dir
    parts := prec, gangs := gangs.map gangOf, streams := streams.map streamOf, spE := lay.spE, spW := lay.spW, regions := regions.map regionOf
    windows := lay.windows, decoders := decoders.zipIdx.map (fun d => decoderOf d.2 d.1), expected := lay.expected, ide := lay.ide
    links := lay.links
    seals := lay.seals.filterMap (fun e => (rowAt b (x 0x06) e.offset 2048).map (fun r => { part := e.part, domain := ranksOf r, root := e.root }))
    ledger := lrec, classes := classes.map (fun c => (c.1, c.2.1, classOf c.2.2))
    groups := lay.groups.map (groupOfLay b (x 0x07) lay prec lrec)
    policy := prec.map (fun r => (r.part, classBytes b (x 0x07) lay r.part (fun _ => true) ++ lockBytes b (x 0x07) lay r.part (fun _ => true) ++
      (lay.groups.filter (fun g => g.place.part == r.part)).flatMap (fun g => (rowAt b (x 0x07) g.place.offset g.place.len).getD [])))
    locks := lay.locks.map (fun k => (k.place.part, k.entries)), entries := lay.entries
    rackBytes := lay.rackBytes.filterMap (copyOf b (x 0x08)), library := lay.library
    buckets := buckets.map (fun c => (c.1, bucketOfBytes c.2.1 c.2.2)), layers := layers.map (fun c => (c.1, layerOf c.2.1 c.2.2))
    rsets := lay.rsets.map (fun r => (r.part, routeSetOf own r)), owners := owners.map (fun c => (c.1, ownerOf c.2))
    uprogs := lay.uprogs.filterMap (fun c => (rowAt b (x 0x0A) c.2.offset c.2.len).map (fun r =>
      (c.2.part, c.1, (List.range (r.length / 4)).map (fun k => BitVec.ofNat 32 (bytesField r (4 * k) 4)))))
    scheds := lay.scheds, snaps := lay.snaps, clocks := lay.clocks
    blobs := lay.blobs.filterMap (fun c => (copyOf b (x 0x0D) c).map (fun r => (c.part, r)))
    bad := badRows 0x01 gangs gangRsv ++ badRows 0x02 parts partRsv ++ badRows 0x02 streams streamRsv ++ badRows 0x03 regions regionRsv ++
      badRows 0x04 decoders decoderRsv ++ badRows 0x07 (ledger.map (fun e => e.2)) ledgerRsv ++
      badRows 0x07 (classes.map (fun c => c.2.2)) classRsv ++ badRows 0x09 (buckets.map (fun c => c.2.2)) bucketRsv ++
      badRows 0x09 (layers.map (fun c => c.2.2)) layerRsv ++ badRows 0x0A (owners.map (fun c => c.2)) ownerRsv }

end Sys2Proof.Machine
end

