-- ==== Sys2Proof/Machine/Ring.lean ====
section
/-! DEFINITION. Ring and twin slots in memory (13_recovery.md R255, R256): the bytes of a manifest, the reads of the Snapshot Engine, and
the table of a ring as its memory has it. -/

namespace Sys2Proof.Machine

/-! ## Manifests (R255) -/

/-- Bytes of a manifest with a given MDIGEST. -/
def manifestBytesWith (m : Manifest) (d : BitVec 256) : List Byte :=
  leBytes 4 1 ++ leBytes 4 m.step.toNat ++ leBytes 2 m.rank.toNat ++ leBytes 2 m.coord.toNat ++ [BitVec.ofNat 8 m.part] ++
    leBytes 3 0 ++ leBytes 4 m.shards.length ++ leBytes 4 m.k ++ leBytes 8 m.time ++ leBytes 32 m.rdigest.toNat ++
    leBytes 32 d.toNat ++ m.shards.flatMap (fun e =>
      leBytes 4 e.kind ++ leBytes 4 e.bid.toNat ++ leBytes 8 e.len ++ leBytes 8 e.soff ++ leBytes 8 0 ++ leBytes 32 e.digest.toNat)

def manifestBytes (m : Manifest) : List Byte := manifestBytesWith m (digest256 (manifestBytesWith m 0))

/-- Bytes of a manifest of so many shards. -/
def manifestLen (n : Nat) : Nat := 96 + 64 * n

/-- The most shards that a manifest of 1 MiB lists. -/
def manifestMax : Nat := 16382

/-- NSHARD, where bytes begin as a manifest does. -/
def manifestHead (b : List Byte) : Option Nat :=
  let n := leNat ((b.drop 16).take 4)
  if manifestLen 0 ≤ b.length ∧ leNat (b.take 4) = 1 ∧ n ≤ manifestMax then some n else none

/-- The manifest that bytes spell, where MDIGEST verifies. -/
def manifestOf (b : List Byte) : Option Manifest :=
  let v := fun o n => leNat ((b.drop o).take n)
  let n := v 16 4
  let m : Manifest :=
    { step := BitVec.ofNat 32 (v 4 4), rank := BitVec.ofNat 14 (v 8 2), coord := BitVec.ofNat 14 (v 10 2), part := v 12 1, k := v 20 4
      time := v 24 8, rdigest := BitVec.ofNat 256 (v 32 32)
      shards := (List.range (min n b.length)).map (fun i =>
        let o := manifestLen i
        { kind := v o 4, bid := BitVec.ofNat 20 (v (o + 4) 4), len := v (o + 8) 8, soff := v (o + 16) 8
          digest := BitVec.ofNat 256 (v (o + 32) 32) }) }
  if manifestLen n ≤ b.length ∧ manifestBytes m = b.take (manifestLen n) then some m else none

/-! ## Ring slots (R256) -/

/-- Offset of the first shard in a slot, and the boundary on which shards start. -/
def shardsAt : Nat := 2 ^ 20
def shardAlign : Nat := 4096

/-- Index that stands for the manifest (R257). -/
def midxManifest : Nat := 0x3FFF

/-- A ring slot. -/
def SnapSt.ring (x : SnapSt) (i : Nat) : RingSlot := tget x.slots {} i
def SnapSt.setRing (x : SnapSt) (i : Nat) (v : RingSlot) : SnapSt := { x with slots := tset x.slots {} i v }

/-- Address of a byte of a ring slot. -/
def ringAddr (r : SnapRec) (slot off : Nat) : Nat := r.ringBase + slot * r.slotSize + off

/-! ## Reads of the Snapshot Engine (R211) -/

/-- A read: what it logs stays, whether or not it answers. -/
def State.snapRead (s : State) (a n : Nat) : State × Option (List Byte) :=
  let r := s.read .snapshot a n
  (r.1, r.2.toOption)

/-- A second read that what the first one answers decides. -/
def State.snapThen {α : Type} (r : State × Option (List Byte)) (f : State → List Byte → State × Option α) : State × Option α :=
  match r.2 with
  | some b => f r.1 b
  | none => (r.1, none)

/-- The manifest of a slot whose bytes an address function places. -/
def State.slotManifest (s : State) (at_ : Nat → Nat) : State × Option Manifest :=
  State.snapThen (s.snapRead (at_ 0) (manifestLen 0)) (fun t h =>
    match manifestHead h with
    | some n => State.snapThen (t.snapRead (at_ 0) (manifestLen n)) (fun u b => (u, manifestOf b))
    | none => (t, none))

/-- The bytes of a shard or the manifest in a slot. -/
def State.slotBytes (s : State) (at_ : Nat → Nat) (m : Manifest) (midx : Nat) : State × Option (List Byte) :=
  if midx = midxManifest then s.snapRead (at_ 0) (manifestLen m.shards.length)
  else
    match m.shards[midx]? with
    | some e => s.snapRead (at_ e.soff) e.len
    | none => (s, none)

/-- The slots of a partition's ring as its memory has them: those whose manifest verifies (R256, R273). -/
def State.ringTable (s : State) (p : Nat) (r : SnapRec) : State × Tab RingSlot :=
  (List.range r.rslots).foldl (fun a i =>
    let m := a.1.slotManifest (ringAddr r i)
    (m.1, match m.2.filter (fun m => m.part == p) with
      | some x => tset a.2 {} i { step := x.step, used := true, manifest := some x }
      | none => a.2)) (s, [])

end Sys2Proof.Machine
end

