-- ==== Sys2Proof/Machine/Recipe.lean ====
section
/-! DEFINITION. Recipes (15_recipes.md): admission, the structure of an image, the apply pass, and running and halting a
partition. The cross-checks of other chapters and the digest pass stand in Validate. -/

namespace Sys2Proof.Machine

/-! ## Rejections (R303) -/

def dCommitBusy : Nat := 0x0001
def dPartFaulted : Nat := 0x0003
def dImagePlace : Nat := 0x0004
def dRetireUnarmed : Nat := 0x0005
def dImageUe : Nat := 0x0006
def dSigKey : Nat := 0x0007
def dSigBadImage : Nat := 0x0008
def dHeader : Nat := 0x0009
def dSection : Nat := 0x000A
def dCheck : Nat := 0x000B
def dConflict : Nat := 0x000C
def dTray : Nat := 0x000D
def dCellar : Nat := 0x000E
def dMiswired : Nat := 0x000F
def dChanged : Nat := 0x0010

/-- Where a check failed: its code and argument, directory index and record index. -/
structure Reject where
  code : Nat
  arg : Nat := 0
  sec : Nat := 0x7F
  record : Nat := 0
  deriving DecidableEq, Repr

def Reject.detail (r : Reject) : BitVec 32 := BitVec.ofNat 32 (r.code ||| r.arg <<< 16)

def State.noteReject (s : State) (r : Reject) : State := s.recFail r.sec r.record r.detail

/-- The first element of a list of checks that fails. -/
def firstReject (l : List (Option Reject)) : Option Reject := l.findSome? id

/-! ## COMMIT: admission (R301, R302) -/

def commitSlice (c : CmdRec) : Bool := fieldOf c.arg0.toNat 1 0 == 2
def commitPart (c : CmdRec) : Nat := fieldOf c.arg0.toNat 6 4

/-- ARG0 holds no reserved value. -/
def commitArgsOk (c : CmdRec) : Bool :=
  (fieldOf c.arg0.toNat 1 0 == 1 || fieldOf c.arg0.toNat 1 0 == 2) && fieldOf c.arg0.toNat 3 2 == 0 &&
    fieldOf c.arg0.toNat 31 7 == 0

/-- The partitions that a commit concerns. -/
def commitScope (slice : Bool) (p : Nat) : List Nat := if slice then [p] else List.range 8

/-- Largest image. -/
def imageMax : Nat := 512 * 2 ^ 20

/-- LENGTH is the one that the header states; a header that cannot be read is met in the digest pass. -/
def State.lengthOk (s : State) (a n : Nat) : Bool :=
  match (s.read .processor (a + 8) 8).2 with
  | .ok b => leNat b == n
  | .error _ => true

/-- The first admission check that fails. -/
def State.admitErr (s : State) (c : CmdRec) : Option Reject :=
  let slice := commitSlice c
  let p := commitPart c
  let scope := commitScope slice p
  let a := c.addr.toNat
  let n := c.data.toNat
  firstReject
    [ if s.rcp.job.isSome then some { code := dCommitBusy } else none
    , (scope.find? (fun x => (s.part x).state == .run || (s.part x).state == .loading)).map
        (fun x => { code := 0x0002, arg := x })
    , (scope.find? (fun x => (s.part x).state == .faulted)).map (fun x => { code := dPartFaulted, arg := x })
    , if a % 4096 = 0 ∧ n % 4096 = 0 ∧ 8192 ≤ n ∧ n ≤ imageMax ∧ a + n ≤ hbmTop ∧
          s.regions.all (fun r => match r.owner with
            | none => true
            | some o => scope.contains o.val || !meets a n r.base r.size) ∧ s.lengthOk a n
        then none else some { code := dImagePlace }
    , ((List.range 12).find? (fun k => !(s.stack k).armed)).map (fun k => { code := dRetireUnarmed, arg := k }) ]

/-- COMMIT: an admitted commit runs in the background; a slice's target goes to Loading (R307). -/
def commitBody : RowBody := fun s c =>
  if !commitArgsOk c.r then (s, .done stBadOpcode 0 0)
  else
    match s.admitErr c.r with
    | some e => (s.noteReject e, rejected e.detail)
    | none =>
      let slice := commitSlice c.r
      let p := commitPart c.r
      let job : CommitJob :=
        { q := c.q.val, htag := c.r.htag, slice := slice, part := ⟨p % 8, Nat.mod_lt _ (by decide)⟩
          image := c.r.addr.toNat, length := c.r.data.toNat, digest := 0, img := none, prev := (s.part p).state }
      let t := { s with rcp := { s.rcp with
        job := some job, phase := 2, progress := 0, regSlice := slice
        regPart := if slice then BitVec.ofNat 3 p else s.rcp.regPart } }
      let t := t.traceCommit (commitScope slice p)
      (if slice then t.modPart p (fun x => { x with state := .loading }) else t, .held)

def execCommit (c : Cmd) (s : State) : Host.Outcome State Fault Refusal :=
  .next (s.host c (fun _ r => r.op == opCommit) commitBody)

/-! ## Structure (R294 to R298) -/

/-- Section types: D for device-wide; required in a full image; required, optional or absent in a slice. -/
inductive Need where
  | required | optional | absent
  deriving DecidableEq, Repr

def sectionRule : Nat → Option (Need × Need)
  | 0x01 | 0x02 | 0x03 | 0x07 | 0x08 => some (.required, .required)
  | 0x04 | 0x0C => some (.optional, .absent)
  | 0x05 => some (.required, .absent)
  | 0x06 => some (.required, .optional)
  | 0x09 | 0x0A | 0x0B | 0x0D => some (.optional, .optional)
  | _ => none

def imageHas (i : Image) (t : Nat) : Bool := i.dir.any (fun e => e.type == t)

/-- The directory index of a section type. -/
def imageIndex (i : Image) (t : Nat) : Nat := (i.dir.findIdx? (fun e => e.type == t)).getD 0x7F

/-- R294, R295 and R297, and KIND and PART against the command (R303; a full image's PART is 0, and so must ARG0's be: R301). -/
def headerOk (i : Image) (j : CommitJob) : Bool :=
  i.magic == 0xA13C0003 && i.format == 1 && i.kind == (if j.slice then 2 else 1) &&
    i.part.toNat == j.part.val && (j.slice || j.part.val == 0) && i.rsvOk && decide (1 ≤ i.dir.length ∧ i.dir.length ≤ 64) &&
    i.dir.all (fun e => e.rsvOk && e.offset % 4096 == 0 && decide (8192 ≤ e.offset ∧ 16 ≤ e.slen ∧ e.offset + e.slen ≤ i.length)) &&
    i.dir.zipIdx.all (fun x => i.dir.zipIdx.all (fun y => x.2 == y.2 || !meets x.1.offset x.1.slen y.1.offset y.1.slen))

/-- A section's header is sound (R297, R298): its records fill a GANGS section, and are followed by 16-byte stream records in a
PARTITIONS section (entry 10). -/
def headed (e : DirEnt) : Bool :=
  e.headOk && decide (16 + e.count * e.size ≤ e.slen) &&
    (if e.type = 0x01 then e.size == 16 && e.slen == 16 + 16 * e.count
     else if e.type = 0x02 then e.size == 256 && (e.slen - 16 - 256 * e.count) % 16 == 0
     else true)

/-- The first section that is missing, repeated, out of its scope or has a malformed header. -/
def sectionErr (i : Image) (slice : Bool) : Option Reject :=
  let need := fun (t : Nat) => (sectionRule t).map (fun r => if slice then r.2 else r.1)
  firstReject
    [ (i.dir.zipIdx.find? (fun x => need x.1.type == none || need x.1.type == some .absent || !headed x.1 ||
        i.dir.countP (fun e => e.type == x.1.type) != 1)).map (fun x => { code := dSection, sec := x.2 })
    , if ((List.range 14).any (fun t => need t == some .required && !imageHas i t)) then some { code := dSection }
      else none ]

/-- The partition that each record of a partition-scoped section concerns, in the order of the records (R298). -/
def scopedParts (i : Image) : List (Nat × List (Option Part)) :=
  let holder := fun (k : Nat) => (i.parts.find? (fun r => r.racks.any (fun x => x.val == k))).map (fun r => r.part)
  let of := fun {α : Type} (l : List (Part × α)) => l.map (fun e => some e.1)
  [ (0x01, i.gangs.map (fun g => g.part)), (0x02, i.parts.map (fun r => some r.part) ++ i.streams.map (fun r => holder r.rack.val))
  , (0x03, i.windows.map (fun w => holder w.rack.val)), (0x06, i.seals.map (fun x => some x.part))
  , (0x07, of i.classes ++ i.groups.map (fun g => some g.part) ++ of i.locks)
  , (0x08, i.entries.map (fun e => holder e.rack.val) ++ i.rackBytes.map (fun b => holder ((b.addr - rackBase) / rackStride)) ++ of i.library)
  , (0x09, of i.buckets ++ of i.layers), (0x0A, of i.rsets ++ of i.owners ++ of i.uprogs ++ of i.scheds)
  , (0x0B, i.snaps.map (fun x => some x.part)), (0x0D, of i.blobs) ]

/-- A record out of its scope: of another partition than the target in a slice image, of one that a full image does not hold; and a
slice image without its target's partition record (R298). -/
def scopeErr (i : Image) (target : Option Part) : Option Reject :=
  let fits := fun (t : Nat) (p : Option Part) => match target with
    | some q => p == some q
    | none => (t == 0x01 && p.isNone) || i.parts.any (fun r => some r.part == p)
  firstReject
    [ (scopedParts i).findSome? (fun x => (x.2.findIdx? (fun p => !fits x.1 p)).map
        (fun n => { code := dSection, sec := imageIndex i x.1, record := n }))
    , if target.isSome && i.parts.isEmpty then some { code := dSection, sec := imageIndex i 0x02 } else none ]

/-! ## The slice of a partition -/

/-- The records of one partition. -/
def mineOf {α : Type} (p : Part) (l : List (Part × α)) : List α := (l.filter (fun e => e.1 == p)).map (fun e => e.2)

/-- A list of keyed records as a table. -/
def tabOf {α : Type} (l : List (Nat × α)) : Tab α := l.foldl (fun t e => tput (terase t e.1) e.1 e.2) []

/-- What an image gives one partition. -/
def imageSlice (i : Image) (r : PartRec) : Slice :=
  { part := r
    gangs := i.gangs.filter (fun g => r.racks.contains g.rack)
    streams := i.streams.filter (fun x => r.racks.contains x.rack)
    regions := i.regions.filter (fun x => x.owner == some r.part)
    windows := i.windows.filter (fun x => r.racks.contains x.rack)
    sealCfg := i.seals.find? (fun x => x.part == r.part)
    classes := tabOf (mineOf r.part i.classes)
    groups := i.groups.filter (fun g => g.part == r.part)
    policy := (mineOf r.part i.policy).flatten
    locks := mineOf r.part i.locks
    entries := i.entries.filter (fun e => r.racks.contains e.rack)
    library := tabOf (mineOf r.part i.library)
    buckets := mineOf r.part i.buckets
    layers := mineOf r.part i.layers
    rsets := mineOf r.part i.rsets
    owners := mineOf r.part i.owners
    uprogs := tabOf (mineOf r.part i.uprogs)
    scheds := mineOf r.part i.scheds
    snap := i.snaps.find? (fun x => x.part == r.part)
    blobs := (mineOf r.part i.blobs).map (fun b => (b.addr, b.bytes.length)) }

/-- A commit ends without effect: a slice's target returns to the state it had (R302). -/
def State.rejectCommit (s : State) (j : CommitJob) (e : Reject) : State :=
  let t := { s with rcp := { s.rcp with job := none, phase := 0 } }
  let t := if j.slice then t.modPart j.part.val (fun x => { x with state := j.prev }) else t
  ((t.noteReject e).endHeld j.q j.htag (rejected e.detail)).entryWaiting

/-- The command processor reads the whole image; none at a bus error (R302). -/
def State.imageRead (s : State) (j : CommitJob) (ue : Option Nat) : State × Option (List Byte) :=
  let r := (s.markUes ue).read .processor j.image j.length
  (r.1, match r.2, ue with
    | .ok b, none => some b
    | _, _ => none)

/-! ## The apply pass (R304, R305) -/

/-- The pairs that a partition names as senders: every peer with every stream of the partition, and with the device stream
(12_links_and_ordering.md R245). -/
def State.senderKeys (s : State) (p : Nat) : List Nat :=
  match s.slice p with
  | none => []
  | some c => (s.peers p).flatMap (fun r => (c.streams.map StreamRec.streamId ++ [0xFFFF]).map (seqKey (BitVec.ofNat 14 r)))

/-- Those of every partition. -/
def State.seqPairs (s : State) : List Nat := dedup ((List.range 8).flatMap s.senderKeys)

/-- Pairs that recipe validation allows. -/
def seqPairMax : Nat := 3072

/-- An entry is made for every pair that has none. -/
def State.addSeqs (s : State) (p : Nat) : State := overAll (s.senderKeys p) (fun k u => u.makeSeq k {}) s

/-- The unused ports of dimensions of size 1 (12_links_and_ordering.md R232). -/
def PortSt.sized (p : PortSt) (size : Nat) : PortSt :=
  if size ≤ 1 then { p with state := .unused } else if p.state = .unused then { p with state := .down } else p

/-- Clock limits of a full commit: as the CLOCKS section gives, else nominal with auto-apply off (R298). -/
def IslandSt.limits (n : Nat) (l : List ClockRec) (i : IslandSt) : IslandSt :=
  match l.find? (fun c => c.island.val == n) with
  | some c => { i with hi := c.hi, lo := c.lo, auto := c.auto }
  | none => { i with hi := Config.nominalCode n, lo := Config.nominalCode n, auto := false }

/-- A partition that a full image does not hold goes to Empty; its racks go off. -/
def State.dropOthers (s : State) (i : Image) : State :=
  overAll ((List.range 8).filter (fun p => !(i.parts.any (fun r => r.part.val == p)))) (fun p u =>
    if (u.part p).state = .empty then u else u.emptyPart p) s

/-- Each decoder's record stands in the HDM decoders of the expanders that it targets, locked (11_cellar.md R221). -/
def State.programHdm (s : State) (l : List DecRec) : State :=
  overAll (List.range 4) (fun n u => u.modCxlPort n (fun c => { c with
    exps := c.exps.map (fun e =>
      let mine := l.filter (fun d => s.decTargets d n (some (c.dsp e.dsp)))
      { e with hdm := mine, locked := !mine.isEmpty }) })) s

/-- A decoder target that the Cellar does not hold: a port that is not up, or an expander that does not answer or has failed. -/
def State.targetDown (s : State) (t : Nat × Nat) : Bool :=
  let c := s.cxlPort t.1
  c.state != 2 || !c.exps.any (fun e => e.dsp == c.dsp t.2 && !e.failed)

/-- Every decoder target as port and downstream port. -/
def allTargets (d : DecRec) : List (Nat × Nat) :=
  (List.range (decNports d)).flatMap (fun k =>
    (List.range (decNexp d)).map (fun j => (d.ports.getD k 0, (d.dsps.getD k []).getD j 0)))

/-- Decoders whose accesses return UE, because a target is not there (11_cellar.md R228). -/
def State.lostOf (s : State) (l : List DecRec) : List Nat := (l.filter (fun d => (allTargets d).any s.targetDown)).map (fun d => d.index)

/-- Step 1: the device-wide settings. -/
def State.applyDevice (s : State) (i : Image) : State :=
  let l := i.links
  let t : State := { s with
    rcp := { s.rcp with links := l, common := i.regions.filter (fun r => r.owner.isNone) }
    dev := { s.dev with spE := BitVec.ofNat 6 i.spE, spW := BitVec.ofNat 6 i.spW }
    cxl := { s.cxl with decoders := i.decoders, expected := i.expected
                        ide := if i.ide.isEmpty then [false, false, false, false] else i.ide, lost := s.lostOf i.decoders }
    lnk := { s.lnk with
      rank := (l.map (fun x => x.rank)).getD 0
      table := ((l.map (fun x => x.table)).getD []).foldl (fun m e => tset m rtEmpty e.1 e.2) [] } }
  let t := t.programHdm i.decoders
  let t := overAll (List.range 8) (fun n u => u.modPort n (fun q => q.sized (u.dim (n / 2)))) t
  let t := overAll (List.range 80) (fun n u => u.modIsland n (IslandSt.limits n i.clocks)) t
  t.routeRise

/-- The stream context of a loaded rack: STREAM_ID and SEED are written, and the epoch is never lowered (R304). -/
def Stream.load (t : Stream) (l : List StreamRec) (n : Nat) : Stream :=
  match l.find? (fun r => r.rack.val == n) with
  | none => { t with state := .idle, bounds := [] }
  | some r => { t with id := r.streamId, seed := r.seed, state := .idle, bounds := [] }

/-- Step 2, one rack: gang map, exclusions, slot entries, stream, AGE_LIMIT and proof slots; its store's bytes. -/
def State.applyRack (s : State) (i : Image) (r : PartRec) (n : Nat) : State :=
  let t := if s.isOn n then s else s.startIslands [n]
  let g := i.gangs.find? (fun x => x.rack.val == n)
  let t := t.modRack n (fun k =>
    { k with
      gangStart := (g.map (fun x => x.gangStart)).getD 1, exclude := (g.map (fun x => x.exclude)).getD 0
      ageLimit := r.ageLimit, proofSlots := r.proofSlots
      entries := (i.entries.filter (fun e => e.rack.val == n)).foldl (fun m e => tset m none e.slot.val (some e.addr)) []
      slots := [], halves := [], holdFor := none, fusion := [], proofs := [], sieve := [], taskFault := {}
      stream := k.stream.load i.streams n })
  overAll (i.rackBytes.filter (fun b => decide (rackBase + n * rackStride ≤ b.addr ∧ b.addr < rackBase + n * rackStride + rackSize)))
    (fun b u => u.setBytes b.addr b.bytes) t

/-- The steering group that a host command concerns (07_precision_steering.md R157). -/
def State.steerGroup (s : State) (c : HostSteer) : Nat :=
  if 4 ≤ c.op then c.target % 16 else (s.ledgerEnt c.target).group.toNat

/-- Step 3: the partition's Ledger range, groups and cleared records. The carried amax slots are empty in the first two steps after a
load (07_precision_steering.md R137). -/
def State.applyLedger (s : State) (i : Image) (r : PartRec) : State :=
  let g := s.gov
  let keep := g.ledger.filter (fun e => !inLayers r e.1)
  let mine := i.ledger.filter (fun e => inLayers r e.1)
  let ids := (i.groups.filter (fun x => x.part == r.part)).map (fun x => x.group.val)
  { s with gov := { g with
      ledger := mine.foldl (fun m e => tset m {} e.1 { e.2 with camaxO := 0, camaxE := 0 }) keep
      errs := g.errs.filter (fun k => !inLayers r k)
      uwr := g.uwr.filter (fun e => !(decide (r.lfirst ≤ e.1 / 2 ∧ e.1 / 2 ≤ r.llast)))
      cmds := g.cmds.filter (fun c => !ids.contains (s.steerGroup c))
      groups := g.groups.filter (fun e => !ids.contains e.1)
      votes := g.votes.filter (fun v => !ids.contains v.group)
      closed := g.closed.filter (fun c => c.1 != r.part.val) } }

/-- The Sieve's records, the proof rings, and the windows and votes of a partition are empty (07_precision_steering.md R159). -/
def State.clearSteering (s : State) (p : Nat) : State :=
  let ids := (((s.slice p).map (fun c => c.groups)).getD []).map (fun g => g.group.val)
  let t := overAll (s.racksOf p) (fun n u => u.modRack n (fun k => { k with sieve := [], proofs := [] })) s
  let t := { t with gov := { t.gov with
      closed := t.gov.closed.filter (fun c => c.1 != p), votes := t.gov.votes.filter (fun v => !ids.contains v.group) } }
  overAll (((t.slice p).map (fun c => c.regions)).getD []) (fun g u =>
    if g.kind = .steering ∨ g.kind = .proofRing then u.clearRange g.base g.size else u) t

/-- A partition has another ring than before, or has one anew: no slot of it is held, and its slots are those that its memory holds
(13_recovery.md R256, R273, R275). -/
def State.takeRing (s : State) (p : Nat) (old new : Option SnapRec) : State :=
  if old = new then s
  else
    let t := s.modSnap p (fun y => { y with hold := 0, slots := [], job := y.job.map (fun j => { j with slot := none }) })
    match new with
    | some r =>
      let q := t.ringTable p r
      q.1.modSnap p (fun y => { y with slots := q.2 })
    | none => t

/-- Step 4: the slice with its buckets and records, the snapshot settings and the blobs. A commit that covers a Cellar region has
checked every target, so that lost decoders are usable again (11_cellar.md R228). -/
def State.applySlice (s : State) (i : Image) (r : PartRec) : State :=
  let p := r.part.val
  let old := (s.slice p).map (fun c => c.buckets.map (fun b => b.bid))
  let gone := fun (b : BitVec 20) => ((old.getD []).contains b) || i.buckets.any (fun x => x.1 == r.part && x.2.bid == b)
  let t := { s with
    rcp := { s.rcp with slices := tput (terase s.rcp.slices p) p (imageSlice i r) }
    knd := { s.knd with bkts := s.knd.bkts.filter (fun b => !gone b.bid)
                        words := s.knd.words.filter (fun k => !gone k.bucket) }
    lnk := { s.lnk with latest := s.lnk.latest.filter (fun k => k.part.val != p) }
    cxl := { s.cxl with lost := if i.regions.any (fun g => decide (cellarBase ≤ g.base)) then [] else s.cxl.lost } }
  let t := if i.regions.any (fun g => decide (cellarBase ≤ g.base)) then t.programHdm t.cxl.decoders else t
  let t := match i.snaps.find? (fun x => x.part == r.part) with
    | some x => t.modSnap p (fun y => { y with k := x.k, full := x.full, waiting := [], ringOk := decide (0 < x.rslots) })
    | none => t.modSnap p (fun y => { y with k := 0, full := false, waiting := [], ringOk := false })
  let t := t.modPart p (fun x =>
    { x with racks := BitVec.ofNat 48 (r.racks.foldl (fun m k => m ||| 1 <<< k.val) 0), proofK := r.proofK, proofKNext := none
             proofPhase := r.phase, lastSeal := r.s0 - 1, nextOpen := r.s0, everOpen := false, stepLimit := false
             halting := false, phases := [] })
  let t := t.clearSteering p
  (overAll (i.blobs.filter (fun b => b.1 == r.part)) (fun b u => (u.write .processor b.2.addr b.2.bytes).1) t).takeRing p
    ((s.slice p).bind (fun c => c.snap)) (i.snaps.find? (fun x => x.part == r.part))

/-- Racks that the loaded partitions held and that the commit leaves in no partition are switched off (R304, R307). -/
def State.dropRacks (s : State) (i : Image) : State :=
  overAll (i.parts.flatMap (fun r => (s.racksOf r.part.val).filter (fun n => !i.parts.any (fun q => q.racks.any (fun k => k.val == n)))))
    (fun n u => u.rackOff n) s

/-- Loads one partition. -/
def State.applyPart (s : State) (i : Image) (r : PartRec) : State :=
  let t := overAll (r.racks.map (fun k => k.val)) (fun n u => u.applyRack i r n) s
  ((t.applyLedger i r).applySlice i r).addSeqs r.part.val

/-- The resynchronising FENCE of the device stream, to every device that a loaded partition names (12 R245). -/
def State.fenceDeviceStream (s : State) : State :=
  let seq := s.lnk.devSeq
  let ranks := dedup ((List.range 8).flatMap (fun p => s.peers p))
  overAll ranks (fun r u =>
    u.sendDeviceTo 0 (BitVec.ofNat 14 r) 0 (.fence 0xFFFF 0 0 true (seq - 1) seq)) s

/-- Step 5: Ready, the digests, the event and the completion. -/
def State.commitDone (s : State) (j : CommitJob) (i : Image) : State :=
  let t := overAll i.parts (fun r u =>
    let v := u.modPart r.part.val (fun x => { x with state := .ready, cause := 0, faultedMark := false })
    { v with rcp := { v.rcp with pdigest := tset v.rcp.pdigest 0 r.part.val j.digest } }) s
  let t := if j.slice then t else { t with rcp := { t.rcp with digest := j.digest, loaded := true } }
  let t := { t with rcp := { t.rcp with job := none, phase := 0, progress := BitVec.ofNat 16 (j.length / 65536) } }
  let t := t.raise 78 .recipeCommitted [if j.slice then 1 else 0, j.part.val, i.imgid.toNat]
  let t := t.fenceDeviceStream
  (t.endHeld j.q j.htag ok).entryWaiting

/-- IMAGE_CHANGED: what the commit was loading goes to Empty; after a full commit the device has no committed recipe
(R305). -/
def State.commitChanged (s : State) (j : CommitJob) : State :=
  let t := overAll (if j.slice then [j.part.val] else List.range 8) (fun p u => u.emptyPart p) s
  let t := if j.slice then t
    else { t with
      rcp := { t.rcp with links := none, common := [], loaded := false }
      dev := { t.dev with spE := 0x30, spW := 0x30 }
      cxl := { t.cxl with decoders := [], expected := [], ide := [false, false, false, false], lost := [] }
      lnk := { t.lnk with table := [], rank := 0, seqs := [] } }
  let t := if j.slice then t else overAll (List.range 80) (fun n u => u.modIsland n (IslandSt.limits n [])) t
  let t := { t with rcp := { t.rcp with job := none, phase := 0 } }
  let e : Reject := { code := dChanged }
  ((t.noteReject e).endHeld j.q j.htag (rejected e.detail)).entryWaiting

/-- The writes of the apply phase before its completion (R304). -/
def State.applied (s : State) (slice : Bool) (i : Image) : State :=
  let t := overAll (if slice then i.parts.map (fun r => r.part.val) else List.range 8) (fun p u => u.resetLedger p) s
  let t := if slice then t
    else overAll i.parts (fun r u => u.modPart r.part.val (fun x => { x with state := .loading })) ((t.dropOthers i).applyDevice i)
  overAll i.parts (fun r u => u.applyPart i r) (t.dropRacks i)

/-- APPLY_PASS: the image is read again; a bus error or another digest ends the commit. -/
def State.applyPass (s : State) (ue : Option Nat) : State :=
  match s.rcp.job with
  | none => s
  | some j =>
    match j.img with
    | none => s
    | some i =>
      if s.rcp.phase ≠ 4 then s
      else
        let r := s.imageRead j ue
        if r.2.map imageDigest = some j.digest then ((r.1.applied j.slice i).commitDone j i).settleRoutes
        else r.1.commitChanged j

def execApplyPass (ue : Option Nat) (s : State) : Host.Outcome State Fault Refusal := .next (s.applyPass ue)

/-! ## Running and halting (R308) -/

def State.setPctl (s : State) (p : Nat) (c : BitVec 4) : State := s.modPart p (fun x => { x with pctlStatus := c })

/-- The partition of a REC_PCTL_p register. -/
def pctlPart : Reg → Nat
  | .recPctl p => p
  | _ => 0

/-- Adds to a counter half under R118; a signal older than the tag is discarded and counted. -/
def State.addHalf (s : State) (n ctr : Nat) (inc : BitVec 32) (step : Step) : State :=
  let k := halfKey ctr step
  let h := tget (s.rack n).halves {} k
  if newer step h.tag then s.modRack n (fun r => { r with halves := tset r.halves {} k { count := inc, tag := step } })
  else if h.tag = step then s.modRack n (fun r => { r with halves := tset r.halves {} k { h with count := h.count + inc } })
  else s.modRack n (fun r => { r with late := r.late + 1 })

/-- The adoption counters of buckets take the tag of a step, and count those of them that are held (08_training_step.md R167, R174). -/
def State.setAdopted (s : State) (l : List BucketRec) (held : BucketRec → Bool) (step : Step) : State :=
  let t := overAll l (fun b u => u.modRack b.arack.val (fun r =>
    { r with halves := tset r.halves {} (halfKey b.actr step) { count := 0, tag := step } })) s
  overAll (l.filter held) (fun b u => u.addHalf b.arack.val b.actr 1 step) t

/-- Each adoption counter counts its bucket as adopted for a step, whatever tag it had (R167). -/
def State.presetAdoption (s : State) (p : Nat) (step : Step) (f : BucketRec → Bool) : State :=
  s.setAdopted (((s.slice p).map (fun c => c.buckets.filter f)).getD []) (fun _ => true) step

/-- A stream starts: its generators are seeded (02_number_formats.md R34); a fenced one stays fenced
(20_resets_and_retention.md R381). -/
def Stream.start (t : Stream) (s0 : Step) : Stream :=
  if t.state = .fenced then t
  else { t with state := .active, step := s0 - 1, ostep := s0, genIn := t.seed, genOut := t.seed.rotateLeft 16
                drawHalf := false, drawHalfIn := false }

/-- Ready to Run: each stream is fenced to its own epoch first (12_links_and_ordering.md R245). -/
def State.fenceRun (s : State) (p : Nat) : State :=
  overAll (s.racksOf p) (fun n u =>
    let e := (u.rack n).stream.epoch
    u.fenceStream n p (u.peers p) e e) s

/-- A DATA blob of the image lies in a paired bucket's copy of a step (R298): that step takes the bucket's parameters from the image. -/
def Slice.imageParams (c : Slice) (b : BucketRec) (step : Step) : Bool :=
  b.paired && c.blobs.any (fun x =>
    let a := if step.toNat % 2 = 1 then b.par1 else b.par0
    decide (x.1 ≤ a ∧ a < x.1 + x.2))

/-- Generators start, slots start at their entries, and steps S0 - 2 and S0 - 1 count as sealed (R308, 08_training_step.md R161); step S0,
and S0 + 1 where it takes its parameters from the image, count as adopted (R167; entry 84). -/
def State.firstSteps (s : State) (p : Nat) : State :=
  let s0 := ((s.slice p).map (fun c => c.part.s0)).getD 0
  let t := s.modPart p (fun x => { x with state := .run, lastSeal := s0 - 1, nextOpen := s0, everOpen := false
                                          halting := false, stepLimit := false })
  let t := overAll (t.racksOf p) (fun n u => u.modStream n (fun x => x.start s0)) t
  let t := overAll (t.racksOf p) (fun n u => u.resetSlots n) (t.fenceRun p)
  (t.presetAdoption p s0 (fun _ => true)).presetAdoption p (s0 + 1)
    (fun b => ((s.slice p).map (fun c => c.imageParams b (s0 + 1))).getD false)

/-- The first entry to Run: the first step's time starts (08_training_step.md R172). -/
def State.firstRun (s : State) (p : Nat) : State :=
  let s0 := ((s.slice p).map (fun c => c.part.s0)).getD 0
  let t := (s.firstSteps p).modPart p (fun x => { x with sealTime := s.hkp.count })
  (t.noteInputWait p s0).noteInputWait p (s0 + 1)

/-- Ready to Run: a partition whose streams are no longer Idle, after a partition reset or a recovery, keeps its steps
(20_resets_and_retention.md R378, R381; entry 32). -/
def State.startPart (s : State) (p : Nat) : State :=
  if (s.racksOf p).all (fun n => (s.rack n).stream.state == .idle) then s.firstRun p
  else
    (s.modPart p (fun x => { x with state := .run, halting := false })).fenceRun p

/-- RUN. -/
def runBody : RowBody := opBody (fun s _ r _ =>
  let p := pctlPart r
  match (s.part p).state with
  | .ready => (((s.setPctl p 0).startPart p).settleRoutes, ok)
  | .halted =>
    let t := (s.setPctl p 0).modPart p (fun x => { x with state := .run })
    (overAll (t.racksOf p) (fun n u => u.modSlots n Slot.thaw) t, ok)
  | _ => (s.setPctl p 1, ok))

/-- HALT: issue is held; the partition is Halted once what has been issued and started has ended. -/
def haltBody : RowBody := opBody (fun s _ r _ =>
  let p := pctlPart r
  if (s.part p).state = .run then ((s.setPctl p 0).modPart p (fun x => { x with halting := true }), ok)
  else (s.setPctl p 1, ok))

def execHalt (c : Cmd) (s : State) : Host.Outcome State Fault Refusal := .next (s.host c (isWrite .halt) haltBody)

/-- A slot has nothing issued and no fill in progress. -/
def Slot.quiet (x : Slot) : Bool :=
  x.older.isNone && (x.newer.map (fun o => o.fills.isEmpty && o.stage != .issued)).getD true

/-- HALTED. -/
def State.halted (s : State) (p : Nat) : State :=
  let x := s.part p
  let quiet := (s.racksOf p).all (fun n => (s.rack n).slots.all (fun e => e.2.quiet))
  if x.state = .run ∧ x.halting ∧ quiet then
    let t := overAll (s.racksOf p) (fun n u => u.modSlots n Slot.freeze) s
    (t.modPart p (fun y => { y with state := .halted, halting := false })).applyDue
  else s

def execHalted (p : Part) (s : State) : Host.Outcome State Fault Refusal := .next (s.halted p.val)

/-- HALT_FAULT: a partition in Run, Halted or Ready faults with cause HOST. -/
def haltFaultBody : RowBody := opBody (fun s _ r _ =>
  let p := pctlPart r
  match (s.part p).state with
  | .run | .halted | .ready => ((s.setPctl p 0).faultPart p .host 0xFF, ok)
  | _ => (s.setPctl p 1, ok))

def execHaltFault (c : Cmd) (s : State) : Host.Outcome State Fault Refusal :=
  .next (s.host c (isWrite .haltFault) haltFaultBody)

end Sys2Proof.Machine
end

