-- ==== Sys2Proof/Machine/Tasks.lean ====
section
/-! DEFINITION. The task engine up to issue (06_task_engines_and_whisk.md R113 to R123, 05_feeders.md R95 to R98, R105):
steps open, descriptors are fetched, LOOP, END and SYNC run, words are latched, fills end, and one operation is picked
in a cycle. -/

namespace Sys2Proof.Machine

/-- The partition of a rack whose stream issues: working, its stream Active (R126). -/
def State.active (s : State) (n : Nat) : Option Nat :=
  match s.working n with
  | some p => if (s.rack n).stream.state = .active then some p else none
  | none => none

/-! ## STEP_OPEN (R119, R126, 08_training_step.md R161) -/

/-- The policy tag of a group for a step (R149). -/
def State.groupTag (s : State) (g : GroupRec) (step : Step) : BitVec 32 :=
  let d := shake256 g.policyBytes 3
  let b := fun i => (d.getD i 0).toNat
  let n := (s.group g.group.val).hostCount +
    (s.gov.cmds.filter (fun c => s.steerGroup c == g.group.val && !newer c.step step)).length
  BitVec.ofNat 32 (b 0 <<< 24 ||| b 1 <<< 16 ||| b 2 <<< 8 ||| n % 256)

/-- The boundary copy of a step (R126). -/
def RackSt.boundary (r : RackSt) (step : Step) : StreamBound :=
  { step := step, issue := r.stream.issue, txseq := r.stream.txseq, genIn := r.stream.genIn, genOut := r.stream.genOut
    drawHalf := r.stream.drawHalf, drawHalfIn := r.stream.drawHalfIn, inpos := r.stream.inpos, halves := r.halves }

/-- A step opens in one rack: STEP, OSTEP, the boundary copy, and the sample counter of its parity (R142). -/
def RackSt.openStep (r : RackSt) (step oldest : Step) : RackSt :=
  let r := if step.toNat % 2 = 0 then { r with sampleE := 0 } else { r with sampleO := 0 }
  { r with stream := { r.stream with step := step, ostep := oldest, bounds := r.stream.bounds ++ [r.boundary step] } }

/-- An unfinished descriptor of a step (R119); a proof task, which the engine builds and a later window may take (07_precision_steering.md
R145), is none. -/
def RackSt.hasStep (r : RackSt) (step : Step) : Bool :=
  r.slots.any (fun e => e.2.allOps.any (fun o => o.desc.step == step && !o.desc.proof))

/-- The next step of a partition may open: SEAL(N - 2) received, its input staged, no work of step N - 2 left. After a
rewind the step after the re-opened one waits for its seal (08_training_step.md R174); after a drain migration's last step none
opens (13_recovery.md R268). -/
def State.mayOpen (s : State) (p : Nat) : Bool :=
  let x := s.part p
  x.state == .run && !x.halting && !newer x.nextOpen (x.lastSeal + (if x.rewound then 1 else 2)) &&
    !((s.recov p).migration.any (fun m => m.drain && newer x.nextOpen m.m)) && decide (x.nextOpen.toNat ≤ x.inready.toNat) &&
    (s.racksOf p).all (fun n => (s.active n).isSome && !(s.rack n).hasStep (x.nextOpen - 2))

/-- STEP_OPEN: step 0xFFFFFFFF never opens and raises STEP_LIMIT once (R160). -/
def State.stepOpen (s : State) (p : Nat) : State :=
  let x := s.part p
  if !s.mayOpen p then s
  else if x.nextOpen = 0xFFFFFFFF then
    if x.stepLimit then s
    else (s.modPart p (fun y => { y with stepLimit := true })).raise (srcPart p) .stepLimit [p]
  else
    let n := x.nextOpen
    let t := overAll (s.racksOf p) (fun k u => (u.modRack k (fun r => r.openStep n (x.lastSeal + 1))).traceRack k tStepOpen n 0) s
    let t := t.modPart p (fun y =>
      { y with openReg := n, nextOpen := n + 1, everOpen := true, proofK := y.proofKNext.getD y.proofK, proofKNext := none })
    let t := overAll ((t.slice p).map (fun c => c.groups)).toList.flatten (fun g u =>
      let tag := u.groupTag g n
      u.modGroup g.group.val (fun y => { y with tag := tag })) t
    t.modPhase p n (fun y =>
      { y with
        inputWait := y.inputWait + (y.inputSince.map (fun c => s.hkp.count - c)).getD 0, inputSince := none
        brownout := s.hkp.boActive, duty := decide (s.duty < 16)
        coast := (List.range 80).any (fun i => (s.island i).coast), observed := s.observed p })

def execStepOpen (p : Part) (s : State) : Host.Outcome State Fault Refusal := .next (s.stepOpen p.val)

/-! ## DESCRIPTOR_FETCH (R114 to R117) -/

/-- A slot may fetch: it has a task that has not ended, and its newer descriptor has issued. -/
def Slot.fetches (x : Slot) : Bool :=
  x.newer.isNone && !x.ended &&
    (match x.state with
     | .free | .faulted | .held => false
     | _ => true)

/-- A library entry that a descriptor may name: a Whisk program for TILE and VEC, a fused kernel for FUSED (R117). -/
def State.libraryOk (s : State) (p : Nat) (d : Desc) : Bool :=
  let e := (s.slice p).bind (fun c => tfind c.library d.wprog)
  if d.kind = kFused then
    match e with
    | some (.fused _) => true
    | _ => false
  else if d.kind = kTile ∨ d.kind = kVec then
    d.wprog == 0xFFFF ||
      (match e with
       | some (.whisk _) => true
       | _ => false)
  else true

/-- Why a fetched descriptor is invalid: its fault code (R117, R124). -/
def State.descErr (s : State) (n p : Nat) (d : Desc) : Option Nat :=
  let r := s.rack n
  let inPart := fun (k : Nat) => decide (k < 48) && (s.part p).racks.toNat.testBit k
  if d.kind = kLoop ∨ d.kind = kEnd then (if d.rsv then some tfDesc else none)
  else if d.kind ≤ 3 ∧ d.stream ≠ r.stream.id then some tfStream
  else if d.rsv || d.proof || (d.waitEn && !inPart d.wrack) || (d.sigEn && !inPart d.srack) then some tfDesc
  else if (d.kind = kTile ∨ d.kind = kFused) ∧ !r.gangOk d.gang then some tfGang
  else if !s.libraryOk p d then some tfKernel
  else none

/-- The boundary records of a slot after a descriptor of a step is fetched: one for that step unless a record of it or a
later one stands (R126); it also serves the earlier steps that have none. -/
def Slot.noteBound (x : Slot) (d : Desc) : Slot :=
  if d.kind = kLoop ∨ d.kind = kEnd then x
  else if x.bounds.any (fun b => !Machine.newer d.step b.step) then x
  else
    { x with bounds := x.bounds ++ [{ step := d.step, addr := d.addr, tstep := x.tstep, ctrs := x.ctrs, acts := x.acts }] }

/-- A rack's own store holds 128 bytes from an address. -/
def inStore (n a : Nat) : Bool :=
  decide (rackBase + n * rackStride ≤ a ∧ a + 128 ≤ rackBase + n * rackStride + rackSize)

/-- DESCRIPTOR_FETCH. -/
def State.fetch (s : State) (n i : Nat) (ue : Option Nat) : State :=
  match s.active n with
  | none => s
  | some p =>
    let x := s.slot n i
    if !x.fetches then s
    else
      let blank : Op := { desc := descBlank x.next x.tstep }
      if !inStore n x.next then s.taskFault n i blank false tfDesc 0
      else if ue.isSome then (s.noteUes (.rack n) ue).taskFault n i blank false tfBus eUE
      else
        let r := s.read (.rack n) x.next 128
        match r.2 with
        | .error e => r.1.taskFault n i blank false tfBus e.code
        | .ok b =>
          let d := descOf x.next x.tstep b
          let o : Op := { desc := d }
          match r.1.descErr n p d with
          | some c => r.1.taskFault n i o false c 0
          | none => r.1.setSlot n i { x.noteBound d with newer := some o, next := x.next + 128, state := .wait }

/-! ## LOOP and END (R114) -/

/-- The operation that a slot has fetched and not issued, of a kind. -/
def State.newerOf (s : State) (n i kind : Nat) : Option Op := (s.slot n i).newer.filter (fun o => o.desc.kind == kind)

/-- The counter, the active flag, and whether LOOP jumps. -/
def loopStep (count ctr : Nat) (active : Bool) : Nat × Bool × Bool :=
  if count = 0 then (ctr, active, true)
  else
    let c := if active then ctr else count - 1
    if 0 < c then (c - 1, true, true) else (c, false, false)

/-- LOOP: jumps or falls through; STEPINC adds 1 to TSTEP at a jump. -/
def State.loop (s : State) (n i : Nat) : State :=
  match s.active n, s.newerOf n i kLoop with
  | some _, some o =>
    let x := s.slot n i
    let r := loopStep o.desc.count (x.ctrs.getD o.desc.lid 0) (x.acts.getD o.desc.lid false)
    s.setSlot n i { x with
      newer := none, ctrs := x.ctrs.set o.desc.lid r.1, acts := x.acts.set o.desc.lid r.2.1
      next := if r.2.2 then o.desc.target else x.next
      tstep := if r.2.2 ∧ o.desc.stepInc then x.tstep + 1 else x.tstep }
  | _, _ => s

/-- A slot whose task has ended is Free once it holds no descriptor; its boundary records stay (R126). -/
def Slot.release (x : Slot) : Slot :=
  if x.ended && x.older.isNone && x.newer.isNone && x.state != .faulted then { ({} : Slot) with bounds := x.bounds } else x

/-- END: the slot becomes Free once its older descriptor completes. -/
def State.endTask (s : State) (n i : Nat) : State :=
  match s.active n, s.newerOf n i kEnd with
  | some _, some _ => s.modSlot n i (fun x => { x with newer := none, ended := true }.release)
  | _, _ => s

/-! ## SYNC_ISSUE (R118) -/

/-- Takes the issued operations of a rack into account: an operation outstanding in the stream's order. -/
def RackSt.outstanding (r : RackSt) (before : Nat) : Bool :=
  r.slots.any (fun e => match e.2.older with
    | some o => o.desc.kind != kSync && !o.desc.proof && decide (o.order < before)
    | none => false)

/-- SYNC_ISSUE: a SYNC whose wait is met, and whose task's older descriptor has completed, is issued; it takes no place in
the issue order. -/
def State.syncIssue (s : State) (n i : Nat) : State :=
  match s.active n, s.newerOf n i kSync with
  | some p, some o =>
    let x := s.slot n i
    if (s.part p).halting || !s.stepIsOpen p o.desc.step || !s.descWait o.desc || x.older.isSome then s
    else s.setSlot n i { x with
      newer := none, older := some { o with stage := .drained, order := (s.rack n).order }, state := .run }
  | _, _ => s

def execSyncIssue (n : Rack) (i : SlotNo) (s : State) : Host.Outcome State Fault Refusal := .next (s.syncIssue n.val i.val)

/-! ## LATCH (05_feeders.md R96, R105) -/

/-- The word that a side of a descriptor latches; an entry with an uncorrectable error gives none (R138). -/
def State.latchWord (s : State) (step : Step) (layer role : Nat) : Option (BitVec 16) :=
  let i := ledgerIx layer role
  if s.gov.errs.contains i then none else some (entryCw (s.ledgerEnt i) step)

/-- The words of the entries that a fused kernel names; none where an entry reads uncorrectable. -/
def State.latchNames (s : State) (step : Step) : List Nat → Option (List (Nat × BitVec 16))
  | [] => some []
  | i :: l =>
    match s.latchWord step (i / 8) (i % 8), s.latchNames step l with
    | some w, some r => some ((i, w) :: r)
    | _, _ => none

/-- Latches an operation's words; none where an entry reads uncorrectable. -/
def State.latchOp (s : State) (o : Op) : Option Op :=
  let d := o.desc
  let out := fun (k layer role : Nat) => if d.nout < k then some 0 else s.latchWord d.step layer role
  let side := fun (use : Bool) (layer role : Nat) => if use then s.latchWord d.step layer role else some 0
  match side (d.kind != kFused) d.aL d.aR, side (d.kind == kTile) d.bL d.bR, out 1 d.o0L d.o0R, out 2 d.o1L d.o1R with
  | some a, some b, some c, some e => some { o with cwA := a, cwB := b, cwO0 := c, cwO1 := e, stage := .latched }
  | _, _, _, _ => none

/-- A word that no operand or output write may use here: G16 and MW40 belong to exchange and masters (02 R28). -/
def wordBad (w : BitVec 16) : Bool := cwInvalid w || decide (0xD ≤ cwFmt w)

/-- A word that an entry may not name to an output write of a role: a dW write is FP32 whatever word of the format table its entry names
(R110), but a word that is none, such as that of an entry in reset, faults there too (07_precision_steering.md R136). -/
def outWordBad (role : Nat) (w : BitVec 16) : Bool := if role = roleDW then cwInvalid w else wordBad w

/-- FORMAT_INVALID of a fused kernel: a word that it latched, or a pair of an internal operation (R52, R131, 07_precision_steering.md
R136). -/
def fusedFormatErr (o : Op) : Bool :=
  match o.fused with
  | none => true
  | some f => f.words.any (fun x => outWordBad (x.1 % 8) x.2) ||
      (List.range f.stages).any (fun r => (opPair (o.atRound { f with round := r })).isNone)

/-- FORMAT_INVALID (R29, R52, and PASS). -/
def formatErr (o : Op) : Bool :=
  let d := o.desc
  let outs := (decide (1 ≤ d.nout) && outWordBad d.o0R o.cwO0) || (decide (2 ≤ d.nout) && outWordBad d.o1R o.cwO1)
  if d.kind = kTile then
    match pairInfo o.cwA o.cwB with
    | none => true
    | some q => outs || (d.pass != 0 && d.pass != q.passes)
  else if d.kind = kVec then outs || wordBad o.cwA
  else outs || fusedFormatErr o

/-- Gang size, passes and demand of a latched operation (R54, R98); a convolution's rows weigh twice. -/
def RackSt.sizeOp (r : RackSt) (o : Op) : Op :=
  if o.desc.kind = kTile then
    let g := r.gangSize o.desc.gang
    match pairInfo o.cwA o.cwB with
    | none => o
    | some q =>
      { o with g := g, passes := q.passes
               demand := demandOf (sliceBytes o.cwA q.d) (sliceBytes o.cwB q.d) g o.desc.m (o.desc.aStg != 0) }
  else if o.desc.kind = kFused then { o with g := r.gangSize o.desc.gang }
  else o

/-- Windows that an operation needs. -/
def opWindows (o : Op) : List Nat :=
  if o.desc.kind = kTile ∨ o.desc.kind = kFused then [o.desc.aWin, o.desc.bWin] else if o.desc.kind = kVec then [o.desc.aWin] else []

/-- An operand's staged bytes fit its window (R96). -/
def State.stageErr (s : State) (n : Nat) (x : Side) (bytes : Nat) : Option Nat :=
  match s.stageWin n x.win with
  | none => some tfDesc
  | some w => if w.size < bytes then some tfStage else none

/-- The stager program of a convolution is invalid (R104). -/
def stgBad (o : Op) (q : Prog) : Bool :=
  let x := opSide o .a
  q.bad (some (o.desc.m * blockPad x.word o.desc.k)) (cwScl x.word) (stagedWidth (cwFmt x.word)) (blockPad x.word o.desc.k) false none

/-- Bytes of a resident convolution box (R95, R96): what its stager program reaches from the window's first byte, the lo plane of codes 0x9
and 0xA behind the hi plane. -/
def residentBox (o : Op) (q : Prog) : Nat :=
  let w := (opSide o .a).word
  let hi := q.reach (stagedWidth (cwFmt w)) (blockOf (cwScl w)) (cwScl w == 2)
  if split16 (cwFmt w) then up64 (boxPlane o q) + hi else hi

/-- Checks that read a program: the operand's fill source, the stager's, the initial values'. The result is the state after
the reads and a fault code with its sub-code. -/
def State.progCheck (s : State) (n p : Nat) (o : Op) (a : Nat) (f : Prog → Option Nat) : State × Option (Nat × Nat) :=
  let r := s.readProg n p o.desc.step a
  match r.2 with
  | .error e => (r.1, some (tfBus, e.code))
  | .ok q => (r.1, (f q).map (fun c => (c, 0)))

/-- The checks of one operand: a resident operand occupies the same layout; a box is sized by its source program, a resident one by the
stager's. -/
def State.sideCheck (s : State) (n p : Nat) (o : Op) (k : FillKind) (resident : Bool) : State × Option (Nat × Nat) :=
  let x := opSide o k
  let box := opConv o k
  if !resident then
    s.progCheck n p o x.src (fun q => if srcBad x box (k == .b) q then some tfAddr else s.stageErr n x (stagedBytes x box q))
  else if box then s.progCheck n p o o.desc.aStg (fun q => s.stageErr n x (residentBox o q))
  else (s, (s.stageErr n x (layoutOf x.word x.lines x.depth).stop).map (fun c => (c, 0)))

/-- The checks of the output programs: what the output converter would find at the write is found before issue (R104). -/
def State.outChecks (n p : Nat) (o : Op) : List (State → State × Option (Nat × Nat)) :=
  if o.desc.isFinal then
    (opOuts o).map (fun x (t : State) => t.progCheck n p o x.prog (fun q => if outBad o.desc.m (opRow o) x q then some tfAddr else none))
  else []

/-- Runs checks in order until one fails. -/
def checkAll (l : List (State → State × Option (Nat × Nat))) (s : State) : State × Option (Nat × Nat) :=
  match l with
  | [] => (s, none)
  | f :: t =>
    let r := f s
    match r.2 with
    | some _ => r
    | none => checkAll t r.1

/-- An operation whose results a chained one may go on from: a tile operation, or the attention kernel (R121, R133). -/
def Op.chains (o : Op) : Bool := o.desc.kind == kTile || o.fused.any (fun f => f.kind == .attnBwd)

/-- The operation that a chained one follows: the one that its task has issued, or the one whose results are held. -/
def Slot.chainFrom (x : Slot) : Option Op :=
  match x.older.filter Op.chains with
  | some o => if o.desc.isFinal then none else some o
  | none => x.chain

/-- What a chained kernel must share with its predecessor: its tiles, its widths and the formats of dV and dK. -/
def chainForm (o : Op) : Option (FusedKind × Nat × Nat × Nat × Bool × Bool) :=
  o.fused.map (fun f =>
    (f.kind, f.tiles, f.width, f.par.head, f.wide (f.score roleY) (f.ent 5), f.wide (f.score roleDX) (f.ent 7)))

/-- A chained operation follows a matching one whose results are to be held (R121, R133). -/
def chainOk (x : Slot) (o : Op) : Bool :=
  match x.chainFrom with
  | none => false
  | some c => o.chains && c.desc.kind == o.desc.kind && c.desc.gang == o.desc.gang && c.desc.m == o.desc.m && chainForm c == chainForm o &&
    (o.fused.isSome || ((opPair c).map PairInfo.wide == (opPair o).map PairInfo.wide && opCols c == opCols o))

/-- An internal operation of a fused kernel finds no room in a window. -/
def State.roundErr (s : State) (n : Nat) (r : Op) : Option Nat :=
  ((opFills r).filter (fun k => k != .init)).findSome? (fun k =>
    let x := feedSide r k
    s.stageErr n x (layoutOf x.word x.lines x.depth).stop)

/-- Bytes of a partition's scratch window (R131 FUSED_SCRATCH). -/
def State.fusedRoom (s : State) (p : Nat) : Nat := ((s.slice p).map (fun c => c.part.fscratch)).getD 0

/-- Bytes that an operation's kernel holds there. -/
def Fused.scratchOf (f : Fused) (o : Op) : Nat := f.scratch o.desc.m (o.desc.acc == 2 || !o.desc.isFinal)

/-- The checks of a fused kernel: its scratch window holds what it keeps, its internal operations find their budget and their windows, and
every program that it walks is valid (R98, R104, R131). -/
def State.fusedChecks (s : State) (n p : Nat) (o : Op) (f : Fused) : List (State → State × Option (Nat × Nat)) :=
  let rounds := fusedAll o f
  let short := decide (s.fusedRoom p < f.scratchOf o) || rounds.any (fun r => decide (stagerBudget < r.demand))
  [fun (t : State) => (t, if short then some (tfStage, 0) else (rounds.findSome? (s.roundErr n)).map (fun c => (c, 0)))] ++
    (fusedProgs o f).map (fun x (t : State) => t.progCheck n p o x.1 (fun q => if x.2 q then some tfAddr else none))

/-- The checks of a TILE or VEC descriptor. -/
def State.plainChecks (n p : Nat) (o : Op) : List (State → State × Option (Nat × Nat)) :=
  let d := o.desc
  [fun (t : State) => (t, if stagerBudget < o.demand then some (tfStage, 0) else none), fun (t : State) => t.sideCheck n p o .a d.aRes] ++
    (if d.kind = kTile then [fun (t : State) => t.sideCheck n p o .b d.bRes] else []) ++
    (if d.kind = kTile ∧ d.aStg ≠ 0 then [fun (t : State) => t.progCheck n p o d.aStg (fun q => if stgBad o q then some tfAddr else none)]
     else []) ++
    (if d.kind = kTile ∧ d.acc = 1 then [fun (t : State) => t.progCheck n p o d.init (fun q => if initBad o q then some tfAddr else none)]
     else []) ++ State.outChecks n p o

/-- The Whisk program of an operation (R127); none passes each element. -/
def State.whiskProgram (s : State) (p : Nat) (o : Op) : List WhiskOp :=
  match (s.slice p).bind (fun c => tfind c.library o.desc.wprog) with
  | some (.whisk l) => l
  | _ => []

/-- The Whisk program of an operation has no function that its values lack (R128; entry 12). -/
def State.whiskBad (s : State) (p : Nat) (o : Op) : Bool :=
  o.desc.kind != kFused && !whiskRuns (opWide o) (s.whiskProgram p o)

/-- Every check at feeder entry (R96, R98, R104, R121, R128). -/
def State.feedCheck (s : State) (n p i : Nat) (o : Op) : State × Option (Nat × Nat) :=
  if (opWindows o).any (fun w => (s.stageWin n w).isNone) then (s, some (tfDesc, 0))
  else if s.whiskBad p o then (s, some (tfKernel, 0))
  else
    let r := checkAll (match o.fused with
      | some f => s.fusedChecks n p o f
      | none => State.plainChecks n p o) s
    match r.2 with
    | some e => (r.1, some e)
    | none => (r.1, if o.desc.kind ≠ kVec ∧ o.desc.acc = 2 ∧ !chainOk (s.slot n i) o then some (tfChain, 0) else none)

/-- The operation may enter its feeder: its step open, its wait met, its windows free (R121 Wait). -/
def State.mayLatch (s : State) (n p : Nat) (o : Op) : Bool :=
  o.stage == .fetched && !(s.part p).halting && s.stepIsOpen p o.desc.step && s.descWait o.desc &&
    (opWindows o).all (fun w => !(s.rack n).winHeld w)

/-- The library entry of a fused kernel. -/
def State.fusedKind (s : State) (p : Nat) (d : Desc) : Option FusedKind :=
  match (s.slice p).bind (fun c => tfind c.library d.wprog) with
  | some (.fused k) => some k
  | _ => none

/-- A fused kernel latches what its parameter block names (R131): the state after the block's read, and the kernel at its first internal
operation, or the fault. -/
def State.latchFused (s : State) (n p : Nat) (o : Op) (k : FusedKind) : State × Except (Nat × Nat) Op :=
  let r := s.taskRead n p o.desc.step o.desc.wparam fusedParBytes
  match r.2 with
  | .error e => (r.1, .error (tfBus, e.code))
  | .ok b =>
    let par := Config.fusedPar k b
    match r.1.latchNames o.desc.step (fusedNames k par) with
    | none => (r.1, .error (tfBus, eUE))
    | some w =>
      (r.1, .ok ({ o with g := (r.1.rack n).gangSize o.desc.gang }.withFused { kind := k, par := par, words := w } (r.1.fusedRoom p)))

/-- What a descriptor latches at feeder entry (R105): its own words and, for a fused kernel, its parameters. -/
def State.latchAll (s : State) (n p : Nat) (o : Op) : State × Except (Nat × Nat) Op :=
  match s.latchOp o with
  | none => (s, .error (tfBus, eUE))
  | some o =>
    match (if o.desc.kind = kFused then s.fusedKind p o.desc else none) with
    | some k => s.latchFused n p o k
    | none => (s, .ok o)

/-- An operation faults as it enters its feeder: it keeps the windows that it took there (R96). -/
def State.faultFeed (s : State) (n i : Nat) (o : Op) (code sub : Nat) : State :=
  s.taskFault n i { o with stage := .latched } false code sub

/-- LATCH. -/
def State.latch (s : State) (n i : Nat) (ue : Option Nat) : State :=
  let s := s.ledgerUe ue
  match s.active n, (s.slot n i).newer with
  | some p, some o =>
    if kSync ≤ o.desc.kind || !s.mayLatch n p o then s
    else
      let l := s.latchAll n p o
      match l.2 with
      | .error e => l.1.faultFeed n i o e.1 e.2
      | .ok o =>
        if formatErr o then l.1.faultFeed n i o tfFormat 0
        else
          let o := (s.rack n).sizeOp o
          let r := l.1.feedCheck n p i o
          match r.2 with
          | some e => r.1.faultFeed n i o e.1 e.2
          | none =>
            let t := r.1.modSlot n i (fun x =>
              { x with newer := some { o with fills := opFills o, feed := (s.rack n).feeds }, state := .feed })
            (t.modRack n (fun k => { k with feeds := k.feeds + 1 })).readyUp n
  | _, _ => s

def execLatch (n : Rack) (i : SlotNo) (ue : Option Nat) (s : State) : Host.Outcome State Fault Refusal :=
  .next (s.latch n.val i.val ue)

/-! ## FILL_DONE (R96, R100) -/

/-- Fills that a rack's fill engine runs at once (R94). -/
def fillMax : Nat := 16

/-- Fills of a rack that began before a fill: those of operations that entered their feeders earlier, and A before B. -/
def RackSt.fillsBefore (r : RackSt) (o : Op) (k : FillKind) : Nat :=
  (r.ops.flatMap (fun x => (x.2.fills.filter (fun j => j != .init && (decide (x.2.feed < o.feed) ||
    (x.2.feed == o.feed && j == .a && k == .b)))))).length

/-- The operation of a slot that a fill or load serves: an internal one of the fused kernel that the slot has issued (R131), or its newer
one. `true` stands for the issued one. -/
def Slot.filling (x : Slot) (k : FillKind) : Option (Op × Bool) :=
  let runs := fun (o : Op) => o.stage == .latched && o.fills.contains k
  ((x.older.filter runs).map (fun o => (o, true))).orElse (fun _ => (x.newer.filter runs).map (fun o => (o, false)))

/-- A fill or load ends; the last one may make the operation Ready. -/
def State.fillEnds (s : State) (n i : Nat) (o : Op) (older : Bool) (k : FillKind) : State :=
  let o := { o with fills := o.fills.erase k }
  (s.modSlot n i (fun x => if older then { x with older := some o } else { x with newer := some o })).readyUp n

/-- The bytes of a fill are counted and traced. -/
def State.noteFill (s : State) (n i : Nat) (o : Op) (bytes src : Nat) : State :=
  (s.count n cFillBytes (bytes / 64) (some o.desc)).traceTask n i tFillDone o.desc bytes src

/-- FILL_DONE: a fill of an operation in its feeder, one of the fill engine's 16 oldest; initial values, which the drain loads, wait for a
free drain half, but where a fused kernel has kept its own. -/
def State.fillDone (s : State) (n i : Nat) (k : FillKind) (ue : Option Nat) : State :=
  match s.working n, (s.slot n i).filling k with
  | some p, some (o, older) =>
    if k != .init && decide (fillMax ≤ (s.rack n).fillsBefore o k) then s
    else if ue.isSome then (s.noteUes (.rack n) ue).taskFault n i o older tfBus eUE
    else if k = .init then
      if !(o.hasHalf || (s.rack n).halfFree o) then s
      else
        let r := s.runInit n p o (opInit o).1 (opInit o).2
        match r.2 with
        | .error e => r.1.taskFault n i o older tfBus e.code
        | .ok v => r.1.fillEnds n i { o with inits := v } older k
    else
      let r := s.runFill n p o (feedSide o k) (opConv o k)
      match r.2 with
      | .error e => r.1.taskFault n i o older tfBus e.code
      | .ok b => (r.1.noteFill n i o b.1 b.2.1).fillEnds n i (if opConv o k then { o with box := b.2.2 } else o) older k
  | _, _ => s

def execFillDone (n : Rack) (i : SlotNo) (k : FillKind) (ue : Option Nat) (s : State) : Host.Outcome State Fault Refusal :=
  .next (s.fillDone n.val i.val k ue)

/-! ## PICK (R122, R123) -/

/-- Why issue is held in a rack's cycle: 1 brownout response or fence, 2 thermal duty, 3 halt; 0 where it is not
(18_power_ladder.md R351, R355; R397 HOLD). -/
def State.holdCode (s : State) (n p cycle : Nat) : Nat :=
  if s.deviceHold then 1
  else if (if n < 24 then s.hkp.dutyE else s.hkp.dutyW) ≤ cycle % 16 then 2
  else if (s.part p).halting then 3
  else 0

/-- Effective class: PRIO less one for each complete AGE_LIMIT in Ready, down to 0; a period of 0 disables it, and proof
tasks never age. -/
def RackSt.effClass (r : RackSt) (o : Op) : Nat :=
  if o.desc.proof then 3
  else if r.ageLimit = 0 then o.desc.prio
  else o.desc.prio - max o.aged ((r.cycle - o.readyAt) / r.ageLimit.toNat)

/-- Order of candidates: class, step, backward before forward, entry to Ready, slot. -/
def RackSt.before (r : RackSt) (a b : Nat × Op) : Bool :=
  let ca := r.effClass a.2
  let cb := r.effClass b.2
  if ca != cb then decide (ca < cb)
  else if a.2.desc.step != b.2.desc.step then newer b.2.desc.step a.2.desc.step
  else if a.2.desc.backward != b.2.desc.backward then a.2.desc.backward
  else if a.2.readyAt != b.2.readyAt then decide (a.2.readyAt < b.2.readyAt)
  else decide (a.1 < b.1)

/-- The first of a list in the order of candidates. -/
def RackSt.first (r : RackSt) (l : List (Nat × Op)) : Option (Nat × Op) :=
  l.foldl (fun best c => match best with
    | none => some c
    | some b => if r.before c b then some c else some b) none

/-- The operation with which a slot competes: its newer one in Ready, once its older one has completed, or the internal operation of
the fused kernel that it has issued (R122, R131). -/
def Slot.competing (x : Slot) : Option Op :=
  match x.older with
  | some o => if o.fused.isSome && o.stage == .ready then some o else none
  | none => x.newer.filter (fun o => o.stage == .ready && x.state == .ready)

/-- The competing operation takes a value; the state shown is the newer descriptor's, or that of the only one (R121). -/
def Slot.putCompeting (x : Slot) (o : Op) (st : SlotState) : Slot :=
  if x.older.isSome then { x with older := some o } else { x with newer := some o, state := st }

/-- Operations in Ready that compete. -/
def RackSt.readyOps (r : RackSt) : List (Nat × Op) := r.slots.filterMap (fun e => e.2.competing.map (fun o => (e.1, o)))

/-- A gang's trays are free (R97 condition 5). -/
def RackSt.gangFree (r : RackSt) (o : Op) : Bool := (opTrays o).all (fun t => !r.trayTaken t)

/-- Conditions 2 and 5 of R97: an operation that has a half needs no other. -/
def RackSt.gangReady (r : RackSt) (o : Op) : Bool :=
  o.desc.kind == kVec || ((o.inGang || r.gangFree o) && (o.hasHalf || r.halfFree o))

/-- Budget that is left (R98). -/
def RackSt.fits (r : RackSt) (o : Op) : Bool := decide (o.demand + r.demand ≤ stagerBudget)

/-- Cycles that the candidates of class 0 have been refused for lack of budget (R123). -/
def RackSt.countStarved (r : RackSt) (refused : List (Nat × Op)) : RackSt :=
  { r with slots := r.slots.map (fun e =>
      match e.2.competing with
      | none => e
      | some o =>
        if refused.any (fun x => x.1 == e.1) then (e.1, e.2.putCompeting { o with starved := o.starved + 1 } e.2.state)
        else if o.starved = 0 then e
        else (e.1, e.2.putCompeting { o with starved := 0 } e.2.state)) }

/-- The slot for which the budget is held: the one for which it is held already, until it fits, or the oldest class-0 candidate refused
for AGE_LIMIT cycles. -/
def RackSt.heldSlot (r : RackSt) (refused : List (Nat × Op)) : Option Nat :=
  if r.ageLimit = 0 then none
  else if r.holdFor.any (fun i => refused.any (fun c => c.1 == i)) then r.holdFor
  else
    (refused.foldl (fun (best : Option (Nat × Op)) c => match best with
      | none => some c
      | some b => if c.2.readyAt < b.2.readyAt ∨ (c.2.readyAt = b.2.readyAt ∧ c.1 < b.1) then some c else some b) none).bind
      (fun c => if r.ageLimit.toNat ≤ c.2.starved then some c.1 else none)

/-- Picks among the candidates of one cycle. -/
def State.choose (s : State) (n : Nat) : State :=
  let r := s.rack n
  let ready := r.readyOps
  let cand := ready.filter (fun c => r.gangReady c.2)
  let refused := cand.filter (fun c => r.effClass c.2 == 0 && !r.fits c.2)
  let hold := r.heldSlot refused
  let fit := cand.filter (fun c => r.fits c.2 && (hold.isNone || c.2.demand == 0))
  match r.first fit with
  | some (i, o) =>
    let t := s.modRack n (fun k => { k.countStarved refused with holdFor := hold })
    (t.modSlot n i (fun x => x.putCompeting { o with stage := .primed, starved := 0 } .primed)).traceTask n i tPick o.desc o.demand
      o.desc.addr
  | none =>
    let t := s.modRack n (fun k => { k.countStarved refused with holdFor := hold })
    let t := if cand.isEmpty then t else t.count n cNoBudget 1 none
    if ready.any (fun c => c.2.desc.kind != kVec) && ready.all (fun c => c.2.desc.kind != kVec && !r.gangFree c.2) then
      t.count n cNoGang 1 none
    else t

/-- One rack-island cycle in which issue is held. -/
def State.heldCycle (s : State) (n p code : Nat) : State :=
  let t := s.count n cHeld 1 none
  let t := if (s.rack n).heldNow = code then t else t.traceRack n tHold (s.part p).openReg code
  t.modRack n (fun k => { k with heldNow := code })

/-- PICK: one rack-island cycle. A rack whose copies are taken in this cycle, or whose trace queue is full, picks nothing
(22_observation.md R398, R400). -/
def State.pick (s : State) (n : Nat) : State :=
  match s.active n with
  | none => s
  | some p =>
    let t := (s.modRack n (fun k => { k with cycle := k.cycle + 1 })).count n cCycles 1 none
    let r := t.rack n
    let code := t.holdCode n p r.cycle
    if code ≠ 0 then t.heldCycle n p code
    else
      let t := t.modRack n (fun k => { k with heldNow := 0 })
      if (r.obs.enable && r.cycle % 64 == 63) || decide (8 ≤ r.obs.queue.length) then t else t.choose n

def execPick (n : Rack) (s : State) : Host.Outcome State Fault Refusal := .next (s.pick n.val)

/-- CLASS_AGEING: one more complete AGE_LIMIT in Ready. -/
def State.classAgeing (s : State) (n i : Nat) : State :=
  let r := s.rack n
  match s.active n, (s.slot n i).competing with
  | some _, some o =>
    if o.desc.proof = false ∧ r.ageLimit ≠ 0 ∧ (o.aged + 1) * r.ageLimit.toNat ≤ r.cycle - o.readyAt then
      s.modSlot n i (fun x => x.putCompeting { o with aged := o.aged + 1 } x.state)
    else s
  | _, _ => s

def execClassAgeing (n : Rack) (i : SlotNo) (s : State) : Host.Outcome State Fault Refusal :=
  .next (s.classAgeing n.val i.val)

/-! ## ISSUE (R97, R70, R120) -/

/-- The word of the wide product: code 0xA, unscaled (R144, 03_grains_and_fusion.md R66). -/
def proofWord : BitVec 16 := 0xA000

/-- The passes of a proof task's second product, its wide values as code 0xA by the probe as code 0xA (07_precision_steering.md R144). -/
def proofPair : Option PairInfo := pairInfo proofWord proofWord

/-- Broadcast cycles of an operation (R54). -/
def opBroadcast (o : Op) : Nat :=
  let cycles := fun (q : Option PairInfo) => match q with
    | some q => broadcastCycles (opShape o).2.1 (opShape o).1 q.d q.passes
    | none => 0
  cycles (opPair o) + (if o.probe.isSome then cycles proofPair else 0)

/-- Some tray of the gang last ran another fusion, or none since its rack was loaded or reset (03_grains_and_fusion.md
R53). -/
def RackSt.fusionChanges (r : RackSt) (o : Op) : Bool :=
  match opPair o with
  | some q => (opTrays o).any (fun t => tget r.fusion 0 t != q.fusion)
  | none => false

/-- The gang's trays run an operation's fusion, a proof task's that of its second product. -/
def RackSt.setFusion (r : RackSt) (o : Op) : RackSt :=
  match (if o.probe.isSome then proofPair else opPair o) with
  | some q => { r with fusion := (opTrays o).foldl (fun m t => tset m 0 t q.fusion) r.fusion }
  | none => r

/-- The operation of a slot that is primed: the newer one, or an internal one of the fused kernel that the slot has issued. -/
def Slot.primedOp (x : Slot) : Option Op :=
  match x.older with
  | some o => if o.fused.isSome && o.stage == .primed then some o else none
  | none => x.newer.filter (fun o => o.stage == .primed)

/-- An operation that takes no place in the stream's order when it is issued: a later internal one of a fused kernel, which has its place
(R131), and a proof task, which writes nothing (R113; entry 65). -/
def Op.unordered (o : Op) : Bool := o.inGang || o.desc.proof

/-- What a chained operation starts from: a tile operation loads its predecessor's results, a kernel its predecessor's dV and dK (R121,
R133). -/
def Op.resume (o c : Op) : Op :=
  match o.fused, c.fused with
  | some f, some g => { o with fused := some (f.resume g) }
  | _, _ => { o with inits := c.results }

/-- ISSUE: a primed operation is issued unless issue is held; it takes its place in the stream's order. A VEC operation's work is the
Whisk's. -/
def State.issue (s : State) (n i : Nat) : State :=
  match s.active n, (s.slot n i).primedOp with
  | some p, some o =>
    if s.holdCode n p (s.rack n).cycle ≠ 0 then s
    else
      let r := s.rack n
      let chained := o.desc.kind != kVec && o.desc.acc == 2 && !o.inGang
      let o := match (if chained then (s.slot n i).chain else none) with
        | some c => o.resume c
        | none => o
      let o := { o with
        stage := if o.desc.kind = kVec then .result else .issued
        fusionChange := r.fusionChanges o
        order := if o.inGang then o.order else r.order
        issueTime := if o.inGang then o.issueTime else r.cycle }
      let t := s.modRack n (fun k => k.setFusion o)
      let t := if o.unordered then t else
        t.modRack n (fun k => { k with order := k.order + 1, stream := { k.stream with issue := k.stream.issue + 1 } })
      let t := t.modSlot n i (fun x =>
        { x with newer := if o.inGang then x.newer else none, older := some o, state := if o.inGang then x.state else .run
                 chain := if chained then none else x.chain })
      let t := if o.unordered then t else t.modPhase p o.desc.step (fun x => x.issue o.desc.backward s.hkp.count)
      t.traceTask n i tIssue o.desc (opBroadcast o) o.desc.addr
  | _, _ => s

def execIssue (n : Rack) (i : SlotNo) (s : State) : Host.Outcome State Fault Refusal := .next (s.issue n.val i.val)

end Sys2Proof.Machine
end

