-- ==== Sys2Proof/Machine/Proof.lean ====
section
/-! DEFINITION. Proof samples (07_precision_steering.md R142 to R144, 05_feeders.md R108): what a slot of a rack's proof ring holds, the
proof tasks that the engine builds, and the two products that a proof task forms. The places of the ring and of what a slot holds are
not the manual's (entry 25). -/

namespace Sys2Proof.Machine

/-- The Ledger index of an output write. -/
def OutSide.index (x : OutSide) : Nat := ledgerIx x.layer x.role

/-! ## The proof ring (R143) -/

/-- A rack's proof ring: its region, its offset there, and the bytes and the number of its slots. -/
structure ProofRing where
  region : RegionRec
  offset : Nat
  bytes : Nat
  slots : Nat
  deriving DecidableEq, Repr

/-- The proof ring of a rack of a partition, as the recipe places it; none where the partition has no region for it. -/
def State.proofRing (s : State) (n p : Nat) : Option ProofRing :=
  let l := ((s.slice p).map (fun c => c.regions.filter (fun r => r.kind == .proofRing))).getD []
  let q := Config.proofRing (tget s.rcp.pdigest 0 p) n
  l[q.1 % l.length]?.map (fun r => { region := r, offset := q.2.1 % r.size, bytes := q.2.2.1, slots := 1 + q.2.2.2 % 64 })

/-- A slot's address; none where it does not lie in the region. -/
def ProofRing.place (x : ProofRing) (k : Nat) : Option Nat :=
  let a := x.region.base + x.offset + k * x.bytes
  if a + x.bytes ≤ x.region.base + x.region.size then some a else none

/-- Free slots of a rack's proof ring with their places, lowest first: number, address and bytes. -/
def State.freeProofSlots (s : State) (n p : Nat) : List (Nat × Nat × Nat) :=
  (s.proofRing n p).toList.flatMap (fun x =>
    ((List.range x.slots).filter (fun k => !(s.rack n).proofs.any (fun y => y.slot == k))).filterMap
      (fun k => (x.place k).map (fun a => (k, a, x.bytes))))

/-- Bytes of a slot's header (R143). -/
def proofHeaderBytes : Nat := 64

/-- The narrow copies of the eligible writes of a tile of rows and columns, laid behind each other from an address: each copy's elements,
block scales and tile scales. -/
def proofCopies (rows cols : Nat) : Nat → List (OutSide × ConvOut) → List ProofCopy × List Byte
  | _, [] => ([], [])
  | a, (x, c) :: t =>
    let w := outWord x
    let el := packBits (fmtOf (cwFmt w)).width c.codes
    let sc := c.scales.map (BitVec.ofNat 8)
    let tl := c.tiles.flatMap (leBytes 4)
    let s := outShape rows cols x
    let r := proofCopies rows cols (a + (el.length + sc.length + tl.length)) t
    ({ index := x.index, tokens := alongTokens x.role, word := w, lines := s.1, len := s.2, elems := a, scales := a + el.length
       tiles := a + el.length + sc.length } :: r.1, el ++ sc ++ tl ++ r.2)

/-- A slot's bytes for a tile: the header, the narrow copies, and the FP32 values once, in the order of the first eligible write (R108,
R143). -/
def proofContent (a : Nat) (step seed : BitVec 32) (rows cols : Nat) (l : List (OutSide × ConvOut)) (v : List Num) :
    List ProofCopy × List Byte :=
  let c := proofCopies rows cols (a + proofHeaderBytes) l
  let tokens := (l.head?.map (fun x => alongTokens x.1.role)).getD false
  (c.1, (List.range proofHeaderBytes).map (Config.proofHeader step rows cols (l.map (fun x => (x.1.index, alongTokens x.1.role))) seed) ++
    c.2 ++ (resultLines tokens cols v).flatMap (fun r => r.flatMap (fun x => leBytes 4 (fp32.rne true x))))

/-! ## Proof tasks (R113, R144) -/

/-- The rack's smallest gang that is not excluded, the lowest first tray among those of that size. -/
def RackSt.proofGang (r : RackSt) : Option Nat :=
  ((List.range 32).filter r.gangOk).foldl (fun (b : Option Nat) t => match b with
    | some x => if r.gangSize t < r.gangSize x then some t else b
    | none => some t) none

/-- Elements of a proof's reduction. -/
def proofDepth : Nat := 1024

/-- A slot works on the proof of a ring slot's entry. -/
def Slot.proves (x : Slot) (q : Nat × Nat) : Bool := x.allOps.any (fun o => o.probe == some q)

/-- Proofs that no proof slot works on yet, in the order of the proof queue. -/
def RackSt.waitingProofs (r : RackSt) : List (ProofSlot × ProofCopy) :=
  r.proofs.flatMap (fun x => (x.copies.filter (fun c => x.todo.contains c.index && !r.slots.any (fun e => e.2.proves (x.slot, c.index)))).map
    (fun c => (x, c)))

/-- Free proof slots: the highest-numbered of the rack (R113). -/
def State.freeProofTasks (s : State) (n : Nat) : List Nat :=
  let k := (s.rack n).proofSlots
  ((List.range k).map (fun j => 128 - k + j)).filter (fun i => s.slot n i == {})

/-- The proof task of a copy, on a gang: a tile operation of the copy's rows over at most 1,024 elements, in class 3 and Ready. -/
def State.proofOp (s : State) (n gang : Nat) (x : ProofSlot) (c : ProofCopy) : Op :=
  let r := s.rack n
  let depth := min c.len proofDepth
  let rows := c.lines * ((c.len + proofDepth - 1) / proofDepth)
  let demand := fun (w : BitVec 16) => match pairInfo w w with
    | some q => demandOf (sliceBytes w q.d) (sliceBytes w q.d) (r.gangSize gang) rows false
    | none => 0
  { desc := { descBlank 0 x.step with
      kind := kTile, proof := true, prio := 3, backward := x.backward, layer := c.index / 8, stream := r.stream.id, step := x.step
      m := rows, k := depth, gang := gang, isFinal := true }
    stage := .ready, cwA := c.word, cwB := c.word, g := r.gangSize gang, readyAt := r.cycle
    demand := max (demand c.word) (demand proofWord), probe := some (x.slot, c.index) }

/-- The engine fills its free proof slots from the proof queue. -/
def State.placeProofs (s : State) (n : Nat) : State :=
  match (s.rack n).proofGang with
  | none => s
  | some g =>
    overAll (List.zip (s.freeProofTasks n) (s.rack n).waitingProofs) (fun x u =>
      let o := s.proofOp n g x.2.1 x.2.2
      (u.setSlot n x.1 { state := .ready, newer := some o }).traceTask n x.1 tReady o.desc 0 0) s

/-! ## Sampling (R142, R143) -/

/-- A write is eligible: format 0x0 to 0x8, and its entry is not Fixed. -/
def State.eligible (s : State) (x : OutSide) : Bool :=
  x.role != roleDW && decide (cwFmt x.word ≤ 8) && (s.ledgerEnt x.index).state != .fixed

/-- A skipped sample counts for every eligible write's entry. -/
def State.skipSample (s : State) (n : Nat) (step : Step) (l : List OutSide) : State :=
  let t := overAll l (fun x u => u.addLine n x.index { step := step, hasData := true, pskip := 1 }) s
  (t.modRack n (fun r => { r with skipped := r.skipped + 1 })).count n cProofSkipped 1 none

/-- A sampled tile takes the first free slot and its content is written there; a tile that does not fit, finds no free slot, or whose ring
does not take it is skipped. -/
def State.takeSample (s : State) (n p : Nat) (o : Op) (rows cols : Nat) (l : List (OutSide × ConvOut)) (v : List Num) : State :=
  let step := o.desc.step
  let skip := s.skipSample n step (l.map (fun x => x.1))
  match s.freeProofSlots n p with
  | [] => skip
  | (k, a, bytes) :: _ =>
    let c := proofContent a step (((s.slice p).map (fun x => x.part.proofSeed)).getD 0) rows cols l v
    if bytes < c.2.length then skip
    else
      let w := s.write (.rack n) a c.2
      match w.2 with
      | some _ => w.1.skipSample n step (l.map (fun x => x.1))
      | none =>
        let t := w.1.modRack n (fun r => { r with
          taken := r.taken + 1
          proofs := r.proofs ++ [{ slot := k, step := step, backward := o.desc.backward, m := rows, n := cols, copies := c.1
                                   values := a + c.2.length - 4 * v.length, todo := l.map (fun x => x.1.index) }] })
        (t.count n cProofTaken 1 none).placeProofs n

/-- The sample counter of a step's parity rises for an output tile with an eligible write, and a tile is sampled by it. -/
def State.sampleTile (s : State) (n p : Nat) (o : Op) (rows cols : Nat) (outs : List (OutSide × ConvOut)) (v : List Num) : State :=
  let l := outs.filter (fun x => s.eligible x.1)
  let r := s.rack n
  let k := (s.part p).proofK.toNat
  if l.isEmpty ∨ r.proofSlots = 0 ∨ k = 0 then s
  else
    let even := o.desc.step.toNat % 2 == 0
    let c := (if even then r.sampleE else r.sampleO) + 1
    let t := s.modRack n (fun y => if even then { y with sampleE := c } else { y with sampleO := c })
    if (c + (s.part p).proofPhase.toNat) % 2 ^ k ≠ 0 then t else t.takeSample n p o rows cols l v

/-! ## The products of a proof task (R144) -/

/-- Bit 31 of successive outputs of the generator of R34. -/
def probeBits : Nat → BitVec 32 → List Bool
  | 0, _ => []
  | n + 1, x =>
    let y := xorshift x
    y.toNat.testBit 31 :: probeBits n y

/-- The probe's generator starts from PROOF_SEED xor (index << 8) xor step, or from PROOF_SEED where that is zero. -/
def probeSeed (seed : BitVec 32) (index : Nat) (step : Step) : BitVec 32 :=
  let v := seed ^^^ BitVec.ofNat 32 (index <<< 8) ^^^ step
  if v = 0 then seed else v

/-- The probe by column: `cols` columns of `depth` signs; true is -1 (entry 25). -/
def probeCols (seed : BitVec 32) (index : Nat) (step : Step) (depth cols : Nat) : List (List Bool) :=
  let b := probeBits (depth * cols) (probeSeed seed index step)
  (List.range cols).map (fun j => (b.drop (depth * j)).take depth)

/-- One probe entry as a code of a format. -/
def probeCode (f : Fmt) (neg : Bool) : Nat := (f.conv true none (1, 0) (.fin neg 1 0)).1

/-- The code of a unit block scale. -/
def unitScale (scl : Nat) : Nat := if scl = 1 then 127 else e5m3.roundUp 1 1 0

/-- A column of the probe under a word, at unit scales. -/
def probeChunks (w : BitVec 16) (d : Nat) (l : List Bool) : List Chunk :=
  let blk := blockOf (cwScl w)
  let c := padTo (blockPad w l.length) (l.map (probeCode (fmtOf (cwFmt w))))
  lineChunks w d c [] (List.replicate (if blk = 0 then 0 else c.length / blk) (unitScale (cwScl w))) []

/-- A column of the probe as code 0xA: its lo parts are 0. -/
def probeWide (d : Nat) (l : List Bool) : List Chunk :=
  lineChunks proofWord d (l.map (probeCode bf16)) (l.map (fun _ => 0)) [] []

/-- The rows of a narrow copy, each of at most 1,024 elements, from its codes, block scales and tile scales. -/
def copyRows (c : ProofCopy) (d : Nat) (codes scales tiles : List Nat) : List (List Chunk) :=
  let blk := blockOf (cwScl c.word)
  let line := blockPad c.word c.len
  let nb := if blk = 0 then 0 else line / blk
  let tc := (line + 127) / 128
  (List.range c.lines).flatMap (fun i => (List.range ((c.len + proofDepth - 1) / proofDepth)).map (fun j =>
    lineChunks c.word d ((((codes.drop (i * line)).take line).drop (proofDepth * j)).take proofDepth) []
      (if blk = 0 then [] else (((scales.drop (i * nb)).take nb).drop (proofDepth / blk * j)).take (proofDepth / blk))
      ((((tiles.drop (i / 128 * tc)).take tc).drop (proofDepth / 128 * j)).take (proofDepth / 128))))

/-- The rows of the wide values, as code 0xA. -/
def wideRows (d : Nat) (lines : List (List Nat)) : List (List Chunk) :=
  lines.flatMap (fun l => (chunks proofDepth l.length l).map (fun r =>
    let s := r.map (fun x => splitHiLo (fp32.decode x))
    lineChunks proofWord d (s.map (fun x => x.1)) (s.map (fun x => x.2)) [] []))

/-- Sums of squared differences and of squared references, in FP64. -/
def proofSums (yn yw : List (BitVec 64)) : BitVec 64 × BitVec 64 :=
  (List.zip yn yw).foldl (fun (a : BitVec 64 × BitVec 64) x =>
    let n := fp32.decode x.1.toNat
    let w := fp32.decode x.2.toNat
    let d := fp64.decode (fp64.rne true (n.add w.negate))
    (fp64Add a.1 (BitVec.ofNat 64 (fp64.rne true (d.mul d))), fp64Add a.2 (BitVec.ofNat 64 (fp64.rne true (w.mul w))))) (0, 0)

/-- The sums that a proof task forms from a copy's stored form and from the wide values, given by lines along its blocking direction. -/
def proofOf (c : ProofCopy) (seed : BitVec 32) (step : Step) (cols : Nat) (codes scales tiles : List Nat) (wide : List (List Nat)) :
    BitVec 64 × BitVec 64 :=
  let b := probeCols seed c.index step (min c.len proofDepth) cols
  match pairInfo c.word c.word, proofPair with
  | some q, some u =>
    proofSums (tileResults q.kind (cwIeee c.word) [] cols (copyRows c q.d codes scales tiles) (b.map (probeChunks c.word q.d)))
      (tileResults u.kind (cwIeee proofWord) [] cols (wideRows u.d wide) (b.map (probeWide u.d)))
  | _, _ => (0, 0)

/-- The lines of values stored in one direction, in another. -/
def turned (same : Bool) (n : Nat) (l : List (List Nat)) : List (List Nat) :=
  if same then l else (List.range n).map (fun j => l.map (fun r => r.getD j 0))

/-- Reads a copy and the wide values from the ring, and forms the sums; the error where the ring cannot be read. -/
def State.prove (s : State) (n p : Nat) (x : ProofSlot) (c : ProofCopy) (g : Nat) : State × Except BusErr (BitVec 64 × BitVec 64) :=
  let wd := (fmtOf (cwFmt c.word)).width
  let line := blockPad c.word c.len
  let blk := blockOf (cwScl c.word)
  let nb := if blk = 0 then 0 else c.lines * (line / blk)
  let nt := if cwScl c.word = 2 then (c.lines + 127) / 128 * ((line + 127) / 128) else 0
  let r := s.taskReads n p x.step ((c.elems, (c.lines * line * wd + 7) / 8) :: ((if nb = 0 then [] else [(c.scales, nb)]) ++
    (if nt = 0 then [] else [(c.tiles, 4 * nt)]) ++ [(x.values, 4 * (x.m * x.n))]))
  (r.1, match r.2 with
    | .error e => .error e
    | .ok b =>
      let first := (x.copies.head?.map (fun y => y.tokens)).getD false
      let len := if first then x.m else x.n
      let vals := unpackBits 32 (x.m * x.n) (b.getLast?.getD [])
      let wide := turned (first == c.tokens) len (chunks len vals.length vals)
      let tiles := if nt = 0 then [] else unpackBits 32 nt (b.getD (if nb = 0 then 1 else 2) [])
      .ok (proofOf c (((s.slice p).map (fun y => y.part.proofSeed)).getD 0) x.step (32 * g) (unpackBits wd (c.lines * line) (b.headD []))
        (if nb = 0 then [] else (b.getD 1 []).map (fun y => y.toNat)) tiles wide))

end Sys2Proof.Machine
end

