-- ==== Sys2Proof/Machine/Results.lean ====
section
/-! DEFINITION. The task engine from issue to completion (06_task_engines_and_whisk.md R118 to R131): results, the Whisk and
the output converter, proof samples (07_precision_steering.md R142, R143), completion, retries and the partition
faults that the task chapter names (04_trays_racks_partitions.md R88). -/

namespace Sys2Proof.Machine

/-! ## DEMAND_RELEASE and RESULT_READY (R98, R100, 03_grains_and_fusion.md R70) -/

/-- DEMAND_RELEASE: the last broadcast cycle passes; the gang is free and the demand is released. -/
def State.demandRelease (s : State) (n i : Nat) : State :=
  match s.working n, (s.slot n i).older with
  | some _, some o =>
    if o.stage ≠ .issued then s
    else
      (s.modSlot n i (fun x => { x with older := some { o with stage := .released } })).count n cTrayBusy (opBroadcast o * o.g)
        (some o.desc)
  | _, _ => s

def execDemandRelease (n : Rack) (i : SlotNo) (s : State) : Host.Outcome State Fault Refusal :=
  .next (s.demandRelease n.val i.val)

/-- Operand lines of a tile operation: strided windows, the box that a stager program walks, or, of an internal operation, what stands in
the scratch window (R131). -/
def State.operand (s : State) (n p : Nat) (o : Op) (k : FillKind) : State × Except BusErr (List (List Chunk)) :=
  match o.fused with
  | some f => s.fusedOperand n o f (if k == .b then (fusedOp o.desc f).b else (fusedOp o.desc f).a) k
  | none =>
    if opConv o k then
      let r := s.readProg n p o.desc.step o.desc.aStg
      match r.2 with
      | .error e => (r.1, .error e)
      | .ok g => r.1.readBox n p o g
    else s.stagedLines n (opSide o k)

/-- What the accumulators start from: loaded or chained results, those of a kernel in its scratch window (R115, R121, R133). -/
def Op.starts (o : Op) : List (BitVec 64) :=
  match o.fused.bind (fun f => (fusedOp o.desc f).chain.map f.get) with
  | some v => (v.flatMap id).map (BitVec.ofNat 64)
  | none => o.inits

/-- The accumulator results of a tile operation, or the error of a stager read. -/
def State.tileValues (s : State) (n p : Nat) (o : Op) : State × Except BusErr (List (BitVec 64)) :=
  match opPair o with
  | none => (s, .ok [])
  | some q =>
    let a := s.operand n p o .a
    let b := a.1.operand n p o .b
    (b.1, match a.2, b.2 with
      | .ok x, .ok y => .ok (tileResults q.kind (cwIeee o.cwA || cwIeee o.cwB) o.starts (opShape o).2.2 x y)
      | .error e, _ => .error e
      | _, .error e => .error e)

/-- A slot whose newer descriptor is not held reports the state of the older one (R121). -/
def Slot.showOlder (x : Slot) (st : SlotState) : Slot := if x.newer.isNone then { x with state := st } else x

/-- The MACs of an operation, excluding padding (22_observation.md R393). -/
def State.countMacs (s : State) (n : Nat) (o : Op) (q : Option PairInfo) : State :=
  match q with
  | some q => s.count n q.mac ((opShape o).1 * (opShape o).2.2 * (opShape o).2.1) (some o.desc)
  | none => s

/-- Goes on with a value, or keeps the fault. -/
def thenDo {α β : Type} (r : State × Except (Nat × Nat) α) (f : State → α → State × Except (Nat × Nat) β) :
    State × Except (Nat × Nat) β :=
  match r.2 with
  | .error e => (r.1, .error e)
  | .ok v => f r.1 v

/-- The products of an operation stand, or an error on a stager read, `code`, has poisoned them: it writes nothing, and faults where it would
complete (R100). -/
def Op.withResults (o : Op) (code : Nat) (v : List (BitVec 64)) : Op :=
  { o with results := if code = 0 then v else [], poisoned := code != 0, writeErr := code
           stage := if o.desc.isFinal || o.fused.isSome then .result else .drained }

/-- RESULT_READY: the last result stands; without FINAL the results stay in the drain half, but an internal operation's go on to its pass.
The products of a proof task are formed when it completes. -/
def State.resultReady (s : State) (n i : Nat) (ue : Option Nat) : State :=
  match s.working n, (s.slot n i).older with
  | some p, some o =>
    if o.stage ≠ .released then s
    else if o.desc.proof then
      if ue.isSome then (s.noteUes (.rack n) ue).faultOlder n i tfBus eUE
      else s.modSlot n i (fun x => { x with older := some { o with stage := .result } }.showOlder .drain)
    else
      let r := s.tileValues n p o
      let code := if ue.isSome then eUE else match r.2 with
        | .error e => e.code
        | .ok _ => 0
      let v := match r.2 with
        | .error _ => []
        | .ok v => v
      let t := (r.1.noteUes (.rack n) ue).modSlot n i (fun x =>
        let y := { x with older := some (o.withResults code v) }
        if o.fused.isSome then y else y.showOlder .drain)
      if o.fused.isSome && code == 0 then t.countMacs n o (opPair o) else t
  | _, _ => s

def execResultReady (n : Rack) (i : SlotNo) (ue : Option Nat) (s : State) : Host.Outcome State Fault Refusal :=
  .next (s.resultReady n.val i.val ue)

/-! ## Buckets, by id and step (08_training_step.md R162) -/

/-- A bucket's record. -/
def State.bkt (s : State) (bid : BitVec 20) (step : Step) : Bkt :=
  (s.knd.bkts.find? (fun b => b.bid == bid && b.step == step)).getD { bid := bid, step := step }

/-- Writes a bucket's record in its place, or as the newest. -/
def State.setBkt (s : State) (v : Bkt) : State :=
  let same := fun (b : Bkt) => b.bid == v.bid && b.step == v.step
  { s with knd := { s.knd with
      bkts := if s.knd.bkts.any same then s.knd.bkts.map (fun b => if same b then v else b) else s.knd.bkts ++ [v] } }

def State.modBkt (s : State) (bid : BitVec 20) (step : Step) (f : Bkt → Bkt) : State := s.setBkt (f (s.bkt bid step))

/-! ## WHISK_PASS (R127 to R133, 05_feeders.md R110) -/

/-- No operation issued before still waits for the Whisk (R120, R130). -/
def RackSt.whiskTurn (r : RackSt) (o : Op) : Bool :=
  r.slots.all (fun e => match e.2.older with
    | some x => x.desc.kind == kSync || x.desc.proof || decide (o.order ≤ x.order) || x.stage == .drained
    | none => true)

/-- Values that enter the Whisk: a tile's results, or the window that VEC reads. -/
def State.whiskInput (s : State) (n : Nat) (o : Op) : State × Except BusErr (List (BitVec 64)) :=
  if o.desc.kind = kVec then
    let r := s.stagedLines n (opSide o .a)
    (r.1, match r.2 with
      | .error e => .error e
      | .ok l => .ok (l.flatMap (fun x => (laneValues (cwFmt o.cwA == 0xC) x).take o.desc.k)))
  else (s, .ok o.results)

/-- Runs the program: the parameter block is read as vectors (entry 12). -/
def State.runWhisk (s : State) (n p : Nat) (o : Op) : State × Except BusErr (List (BitVec 64)) :=
  let ops := s.whiskProgram p o
  let wide := opWide o
  let eb := if wide then 8 else 4
  let r := s.taskReads n p o.desc.step
    ((List.range (whiskParams ops)).map (fun k => (o.desc.wparam + groupLanes * eb * k, groupLanes * eb)))
  match r.2 with
  | .error e => (r.1, .error e)
  | .ok b =>
    let v := r.1.whiskInput n o
    match v.2 with
    | .error e => (v.1, .error e)
    | .ok l =>
      (v.1.count n cWhiskOps ((ops.filter whiskComputes).length * l.length) (some o.desc),
        .ok (whiskRun wide ops (b.map (unpackBits (8 * eb) groupLanes)) (opRow o) l))

/-- Reads and checks every output program of a tile of rows and columns; the result is the programs, or the fault. -/
def State.outProgs (s : State) (n p : Nat) (o : Op) (rows cols : Nat) : List OutSide → State × Except (Nat × Nat) (List (OutSide × Prog))
  | [] => (s, .ok [])
  | x :: l =>
    let r := s.readProg n p o.desc.step x.prog
    match r.2 with
    | .error e => (r.1, .error (tfBus, e.code))
    | .ok q =>
      if outBad rows cols x q then (r.1, .error (tfAddr, 0))
      else
        let t := r.1.outProgs n p o rows cols l
        (t.1, match t.2 with
          | .error e => .error e
          | .ok m => .ok ((x, q) :: m))

/-- A write's runs meet a window that another operation holds (R96, R112). -/
def State.outHeld (s : State) (n i p : Nat) (o : Op) (x : OutSide × Prog) : Bool :=
  let w := outWord x.1
  let wd := (fmtOf (cwFmt w)).width
  let blk := blockOf (cwScl w)
  let hit := fun a len => s.writeHeld n i (s.taskAddr p o.desc.step a) len
  (x.2.walk wd).any (fun r => match r.elem with
    | none => false
    | some a => hit a ((x.2.run * wd + 7) / 8) || (blk != 0 && hit r.scale (x.2.run / blk)) || (cwScl w == 2 && hit r.tile 4))

/-- Converts a tensor in the output converter: under its entry's word and carried scale, with the generator's draws; the conversion is
measured but for a dW write (R106, R107, R110). -/
def State.convertOut (s : State) (n : Nat) (d : Desc) (x : OutSide) (lines : List (List Num)) : State × ConvOut :=
  let st := (s.rack n).stream
  let c := convertLines (outWord x) x.role (entryCamax (s.ledgerEnt x.index) d.step) lines (st.genOut, st.drawHalf)
  let t := s.modStream n (fun y => { y with genOut := c.gen.1, drawHalf := c.gen.2 })
  (if x.role = roleDW then t else (t.measure n x.index d.step c.meter).countConv n d c.meter, c)

/-- The bucket's running finite amax takes a final dW output (R162). -/
def State.noteAmax (s : State) (o : Op) (x : OutSide) (c : ConvOut) : State :=
  if x.role = roleDW ∧ o.desc.brel then
    let a := BitVec.ofNat 32 (fp32.rne false (finiteMax (c.codes.map fp32.decode)))
    s.modBkt o.desc.bucket o.desc.step (fun b => { b with amax := maxBits b.amax a })
  else s

/-- What came of writes: the first error, the numbers of the Cellar requests, and the converted forms. -/
structure Wrote where
  err : Option BusErr := none
  reqs : List Nat := []
  forms : List (OutSide × ConvOut) := []
  deriving DecidableEq, Repr

/-- One output write of a tile: converted, then written; the writes accepted before an error stay. -/
def State.writeOut (s : State) (n p i : Nat) (o : Op) (rows cols : Nat) (v : List Num) (x : OutSide) (q : Prog) : State × Wrote :=
  let c := s.convertOut n o.desc x (resultLines (alongTokens x.role) cols v)
  let l := outPieces q (outWord x) (blockPad (outWord x) (outShape rows cols x).2) c.2
  let t := (c.1.noteAmax o x c.2).taskWrites n p i o.desc.step l
  (t.1.count n cOutBytes (l.foldl (fun b y => b + y.2.length) 0 / 64) (some o.desc), { err := t.2.1, reqs := t.2.2, forms := [(x, c.2)] })

/-- Every output write of a tile, in the order in which the descriptor names them. -/
def State.writeOuts (s : State) (n p i : Nat) (o : Op) (rows cols : Nat) (v : List Num) : List (OutSide × Prog) → State × Wrote
  | [] => (s, {})
  | (x, q) :: l =>
    let r := s.writeOut n p i o rows cols v x q
    match r.2.err with
    | some _ => r
    | none =>
      let t := r.1.writeOuts n p i o rows cols v l
      (t.1, { err := t.2.err, reqs := r.2.reqs ++ t.2.reqs, forms := r.2.forms ++ t.2.forms })

/-- Writes a tile and samples it; the numbers of its Cellar requests, or the fault. -/
def State.writeSampled (s : State) (n p i : Nat) (o : Op) (rows cols : Nat) (v : List Num) (outs : List (OutSide × Prog)) :
    State × Except (Nat × Nat) (List Nat) :=
  let t := s.writeOuts n p i o rows cols v outs
  match t.2.err with
  | some e => (t.1, .error (tfBus, e.code))
  | none => (t.1.sampleTile n p o rows cols t.2.forms v, .ok t.2.reqs)

/-! ### The passes of a fused kernel (R131 to R133) -/

/-- FP32 values by row. -/
def numsOf (m : List (List Nat)) : List Num := m.flatMap (fun r => r.map fp32.decode)

/-- A pass of a normalisation's internal operation (R132), and the values of the tiles that it writes: the first pass of its tile; behind the
block's last tile dx of every tile; and behind the last block dgamma and dbeta. -/
def Fused.normPass (f : Fused) (m : Nat) (dy : List (List Nat)) (read : List (List (List Nat))) : Fused × List (List Num) :=
  let g := f.normTile (dy.map (fun r => r.take f.cols)) (read.getD 0 []) ((read.getD 1 []).headD [])
  if f.at.2.1 + 1 < f.tiles then (g, [])
  else
    let r := g.normEnd
    let sums := if f.at.1 + 1 < f.blocks m then [] else (r.1.get kDgamma ++ r.1.get kDbeta).map (fun l => l.map fp32.decode)
    (r.1.put kSums [], r.2.map numsOf ++ sums)

/-- A tensor that the output converter packs into the scratch window (R133 stage 5). -/
def State.packKept (s : State) (n : Nat) (o : Op) (f : Fused) (ix key : Nat) (tokens : Bool) (m : List (List Nat)) : State × Fused :=
  let c := s.convertOut n o.desc (f.out ix 0) (resultLines tokens f.width (numsOf m))
  (c.1, f.put key [c.2.codes, c.2.scales, c.2.tiles])

/-- A pass behind an internal operation of attention (R133), and the values of the tile that it writes; `v` are its raw results by row. The
dV and dK of a kernel without FINAL stay as they are for the one that goes on with them. -/
def State.attnPass (s : State) (n : Nat) (o : Op) (f : Fused) (v : List (List Nat)) (read : List (List (List Nat))) :
    State × Fused × List (List Num) :=
  let j := f.at.2.1
  let real := v.map (fun r => r.map (fun x => if opWide o then fp32.rne true (fp64.decode x) else x))
  let out := fun (key : Nat) => if o.desc.isFinal then (s, f, [numsOf real]) else (s, f.put key v, [])
  match f.at.2.2 with
  | 0 =>
    let f := if j = 0 then (f.put kD [rowDots (read.getD 0 []) (read.getD 1 [])]).put kL [(read.getD 2 []).headD []] else f
    let q := f.softP real ((f.get kL).getD 0 [])
    let r := s.packKept n o (f.put kP q) (f.score roleY) kPform true q
    (r.1, r.2, [])
  | 1 =>
    let ds := scoreGrad (f.get kP) real ((f.get kD).getD 0 [])
    let a := s.packKept n o f (f.score roleDX) kDsFeat false ds
    let b := a.1.packKept n o a.2 (f.score roleDX) kDsTok true ds
    (b.1, b.2, [])
  | 2 => out (kDv j)
  | 3 => if j + 1 < f.tiles then (s, f.put kDq v, []) else (s, f.put kDq [], [numsOf real])
  | _ => out (kDk j)

/-- Whisk operations of a kernel's pass (22_observation.md R392). -/
def Fused.whiskOps (f : Fused) (m : Nat) : Nat :=
  match f.kind with
  | .attnBwd =>
    (match f.at.2.2 with
     | 0 => 3 * m * f.width + (if f.at.2.1 = 0 then 2 * m * f.par.head else 0)
     | 1 => 2 * m * f.width
     | _ => 0)
  | _ =>
    let rows := f.rows m
    7 * rows * f.cols + (if f.at.2.1 + 1 < f.tiles then 0 else 8 * rows * f.par.feats + 11 * rows)

/-- The arithmetic of the pass behind the internal operation at hand. -/
def State.passValues (s : State) (n : Nat) (o : Op) (f : Fused) (read : List (List (List Nat))) : State × Fused × List (List Num) :=
  let v := chunks (fusedOp o.desc f).cols o.results.length (o.results.map (fun x => x.toNat))
  let t := s.count n cWhiskOps (f.whiskOps o.desc.m) (some o.desc)
  match f.kind with
  | .attnBwd => t.attnPass n o f v read
  | _ => (t, f.normPass o.desc.m (v.map (fun r => r.map (fun x => if opWide o then fp32.rne true (fp64.decode x) else x))) read)

/-- Reads and checks the programs of every tile of a pass. -/
def State.passProgs (s : State) (n p : Nat) (o : Op) : List PassShape → State × Except (Nat × Nat) (List (PassShape × List (OutSide × Prog)))
  | [] => (s, .ok [])
  | x :: l =>
    thenDo (s.outProgs n p o x.rows x.cols x.outs) (fun t q =>
      thenDo (t.passProgs n p o l) (fun t r => (t, .ok ((x, q) :: r))))

/-- Writes every tile of a pass, each with its values. -/
def State.passWrites (s : State) (n p i : Nat) (o : Op) :
    List ((PassShape × List (OutSide × Prog)) × List Num) → State × Except (Nat × Nat) (List Nat)
  | [] => (s, .ok [])
  | (x, v) :: l =>
    thenDo (s.writeSampled n p i o x.1.rows x.1.cols v x.2) (fun t a =>
      thenDo (t.passWrites n p i o l) (fun t b => (t, .ok (a ++ b))))

/-- The kernel goes on to its next internal operation, which enters a feeder of its own, or has made its last (R131). -/
def Op.nextRound (o : Op) (f : Fused) (feed : Nat) (reqs : List Nat) : Op :=
  let o := { o with results := [], reqs := o.reqs ++ reqs }
  if f.more o.desc.m then
    let x := { o with stage := .latched, inits := [], feed := feed }.atRound { f with round := f.round + 1 }
    { x with fills := opFills x }
  else { o with stage := .drained, fused := some f }

/-- A Whisk pass of a fused kernel; a pass one of whose writes waits for a held window changes nothing (R96). -/
def State.fusedPass (s : State) (n p i : Nat) (o : Op) (f : Fused) : State :=
  let q := s.passProgs n p o (f.shapes o)
  match q.2 with
  | .error e => q.1.faultOlder n i e.1 e.2
  | .ok l =>
    if l.any (fun x => x.2.any (s.outHeld n i p o)) then s
    else
      let r := q.1.fusedReads n p o f (f.reads o.desc.m)
      match r.2 with
      | .error e => r.1.faultOlder n i e.1 e.2
      | .ok read =>
        let v := r.1.passValues n o f read
        let w := v.1.passWrites n p i o (List.zip l v.2.2)
        match w.2 with
        | .error e => w.1.faultOlder n i e.1 e.2
        | .ok reqs =>
          let t := w.1.modSlot n i (fun x => { x with older := some (o.nextRound v.2.1 (s.rack n).feeds reqs) })
          (t.modRack n (fun k => { k with feeds := k.feeds + 1 })).readyUp n

/-! ### WHISK_PASS -/

/-- The pass of a TILE or VEC operation. -/
def State.plainPass (s : State) (n p i : Nat) (o : Op) : State :=
  let g := s.outProgs n p o o.desc.m (opRow o) (opOuts o)
  match g.2 with
  | .error e => g.1.faultOlder n i e.1 e.2
  | .ok outs =>
    if outs.any (s.outHeld n i p o) then s
    else
      let w := g.1.runWhisk n p o
      match w.2 with
      | .error e => w.1.faultOlder n i tfBus e.code
      | .ok v =>
        let t := w.1.writeSampled n p i o o.desc.m (opRow o) (v.map (fun x => (if opWide o then fp64 else fp32).decode x.toNat)) outs
        match t.2 with
        | .error e => t.1.faultOlder n i e.1 e.2
        | .ok reqs =>
          t.1.modSlot n i (fun x => { x with older := some { o with stage := .drained, results := [], reqs := reqs } }.showOlder .drain)

/-- WHISK_PASS: the rack's Whisk and output converter take the next operation in issue order. A poisoned operation writes
nothing. -/
def State.whiskPass (s : State) (n i : Nat) : State :=
  match s.working n, (s.slot n i).older with
  | some p, some o =>
    if o.stage ≠ .result ∨ o.desc.proof ∨ !(s.rack n).whiskTurn o then s
    else if o.poisoned then s.modSlot n i (fun x => { x with older := some { o with stage := .drained } }.showOlder .drain)
    else
      match o.fused with
      | some f => s.fusedPass n p i o f
      | none => s.plainPass n p i o
  | _, _ => s

def execWhiskPass (n : Rack) (i : SlotNo) (s : State) : Host.Outcome State Fault Refusal := .next (s.whiskPass n.val i.val)

/-! ## OPERATION_COMPLETE (R118) -/

/-- What a completed descriptor counts (22_observation.md R392, R393). -/
def State.countDone (s : State) (n : Nat) (o : Op) : State :=
  let d := some o.desc
  if o.desc.kind = kTile then
    (s.count n cDoneTile 1 d).countMacs n o (opPair o)
  else if o.desc.kind = kVec then s.count n cDoneVec 1 d
  else if o.desc.kind = kFused then s.count n cDoneFused 1 d
  else s

/-- A BREL completion counts for its bucket; RELCNT of them complete it (08_training_step.md R162). -/
def State.releaseCount (s : State) (n i : Nat) (o : Op) : State :=
  if o.desc.kind = kSync ∨ o.desc.brel = false then s
  else
    let relcnt := ((s.bucketOf o.desc.bucket).map (fun x => x.2.relcnt)).getD 0
    (s.modBkt o.desc.bucket o.desc.step (fun b =>
      { b with count := b.count + 1, complete := b.complete || b.count + 1 == relcnt })).traceTask n i tBrel o.desc
      o.desc.bucket.toNat 0

/-- The slot after its older descriptor completed. -/
def Slot.completed (x : Slot) (o : Op) : Slot :=
  let x := { x with older := none
                    chain := if o.chains then (if o.desc.isFinal then none else some o) else x.chain }
  ((if x.state = .faulted then x else x.showOlder .wait)).release

/-- The signal of a completed descriptor leaves. -/
def State.signalOf (s : State) (d : Desc) : State := if d.sigEn then s.sendSignal d.srack d.sctr (BitVec.ofNat 16 d.sinc) d.step else s

/-- OPERATION_COMPLETE: every write is accepted and every operation issued before has completed. -/
def State.complete1 (s : State) (n i : Nat) : State :=
  match s.working n, (s.slot n i).older with
  | some _, some o =>
    if o.stage ≠ .drained ∨ !o.reqs.isEmpty ∨ (s.rack n).outstanding o.order then s
    else if o.writeErr ≠ 0 then s.faultOlder n i tfBus o.writeErr
    else if o.poisoned then s.faultOlder n i tfBus eUE
    else
      let t := s.countDone n o
      let t := t.traceTask n i tComplete o.desc ((s.rack n).cycle - o.issueTime) o.desc.addr
      let t := if o.desc.kind = kSync then t else t.phaseFinish n o
      let t := (t.releaseCount n i o).modSlot n i (fun x => x.completed o)
      (t.readyUp n).signalOf o.desc
  | _, _ => s

/-! ## RETRY (R125) -/

def dNotRetryable : BitVec 32 := 0x0021

/-- The rack of a TSK_CMD_n register. -/
def cmdRack : Reg → Nat
  | .tskCmd n => n
  | _ => 0

/-- The faulted descriptor runs again from feeder entry, or is fetched again where its fetch failed, which is the one BUS_ERROR before the
latch; a proof task is Ready again. -/
def Slot.retry (x : Slot) : Slot :=
  match x.faultOp with
  | none => x
  | some o =>
    if o.desc.proof then { x with state := .ready, faultCode := 0, faultOp := none, newer := some { o with stage := .ready } }
    else { x with state := .wait, faultCode := 0, faultOp := none, dropped := none
                  newer := if o.stage = .fetched then none else some { desc := o.desc } }

/-- RETRY: only of a slot in Faulted with BUS_ERROR. -/
def retryBody : RowBody := opBody (fun s _ r v =>
  let n := cmdRack r
  let i := fieldOf v 6 0
  let x := s.slot n i
  if x.state = .faulted ∧ x.faultCode = tfBus then (s.setSlot n i x.retry, ok) else (s, rejected dNotRetryable))

def execRetry (c : Cmd) (s : State) : Host.Outcome State Fault Refusal := .next (s.host c (isWrite .retry) retryBody)

/-! ## WATCHDOG and PARTITION_FAULT (04_trays_racks_partitions.md R88, R89) -/

/-- WATCHDOG: a partition in Run whose recipe gives a period. -/
def State.watchdog (s : State) (p : Nat) : State :=
  if (s.part p).state = .run ∧ ((s.slice p).map (fun c => c.part.watchdog)).getD 0 ≠ 0 then s.faultPart p .watchdog 0xFF else s

def execWatchdog (p : Part) (s : State) : Host.Outcome State Fault Refusal := .next (s.watchdog p.val)

/-- A rack of a partition has a tray that failed self-test and that the recipe keeps in service (R77). -/
def State.trayFails (s : State) (p : Nat) : Bool :=
  (s.racksOf p).any (fun n => (s.rack n).failed &&& ~~~(s.rack n).exclude != 0)

/-- PARTITION_FAULT: a cause is detected under its condition (R88); a monitor, a task engine and a rack store's words belong to a rack of
the partition, a shared resource that fails takes every partition that depends on it (R91), and HOST is the row HALT_FAULT's. -/
def State.detectFault (s : State) (p : Nat) (cause : FaultCause) (n : Nat) : State :=
  let mine := decide (n < 48) && (s.part p).racks.toNat.testBit n
  match cause with
  | .island | .engine | .stateUe => if mine then s.faultPart p cause n else s
  | .tray => if s.trayFails p then s.faultPart p .tray 0xFF else s
  | .shared => if 48 ≤ n ∧ (s.dependents n).contains p then s.faultShared n else s
  | .watchdog => s.watchdog p
  | .host => s

def execPartitionFault (p : Part) (cause : FaultCause) (n : Island) (s : State) : Host.Outcome State Fault Refusal :=
  .next (s.detectFault p.val cause n.val)

end Sys2Proof.Machine
end

