-- ==== Sys2Proof/Machine/Steering.lean ====
section
/-! DEFINITION. Precision steering (07_precision_steering.md R135 to R159): statistics and proof samples, the window of a step
with its votes, the steering buckets, the decisions at a seal, and host steering commands. -/

namespace Sys2Proof.Machine

/-! ## STATS_MERGE (R141) -/

/-- STATS_MERGE: a line of a rack's cache is merged into its record. -/
def State.statsMerge (s : State) (n key : Nat) : State := if s.isOn n then s.evict n key else s

def execStatsMerge (n : Rack) (index : Nat) (odd : Bool) (s : State) : Host.Outcome State Fault Refusal :=
  .next (s.statsMerge n.val (2 * index + (if odd then 1 else 0)))

/-! ## PROOF_TASK_COMPLETE (R144, R145) -/

/-- Steps of a partition whose windows are open, oldest first (R145, R150). -/
def State.openWindows (s : State) (p : Nat) : List Step :=
  (s.part p).openSteps.filter (fun n => !s.gov.closed.contains (p, n))

/-- The window into which a proof of a step completes: its own, or else the oldest open one, marked late. -/
def State.proofWindow (s : State) (p : Nat) (step : Step) : Option (Step × Bool) :=
  let l := s.openWindows p
  if l.contains step then some (step, false) else l.head?.map (fun n => (n, true))

/-- A slot's proof task of an entry is done; the slot is freed with its last. -/
def proofDone (slot index : Nat) (l : List ProofSlot) : List ProofSlot :=
  (l.map (fun x => if x.slot = slot then { x with todo := x.todo.erase index } else x)).filter (fun x => !x.todo.isEmpty)

/-- The sums of a proof join a window's record; with no window open they are dropped (entry 25). -/
def State.proofLine (s : State) (n p index : Nat) (step : Step) (v : BitVec 64 × BitVec 64) : State :=
  match s.proofWindow p step with
  | some (w, late) => s.addLine n index { step := w, hasData := true, late := late, pdiff := v.1, pref := v.2, pcount := 1 }
  | none => s

/-- PROOF_TASK_COMPLETE: the proof task of a slot has its products; the Whisk forms the sums, its proof slot is free, and its ring slot with
the last of its proofs. A ring that cannot be read faults the task (06_task_engines_and_whisk.md R124). -/
def State.proofComplete (s : State) (n i : Nat) : State :=
  match s.working n, (s.slot n i).older with
  | some p, some o =>
    match (if o.stage = .result then o.probe else none) with
    | none => s
    | some (slot, index) =>
      match ((s.rack n).proofs.find? (fun x => x.slot == slot)).bind (fun x =>
          (x.copies.find? (fun c => c.index == index)).map (fun c => (x, c))) with
      | none => s.setSlot n i {}
      | some (x, c) =>
        let r := s.prove n p x c o.g
        match r.2 with
        | .error e => r.1.faultOlder n i tfBus e.code
        | .ok v =>
          let t := ((r.1.countDone n o).countMacs n o proofPair).traceTask n i tComplete o.desc ((s.rack n).cycle - o.issueTime) 0
          let t := (t.proofLine n p index x.step v).setSlot n i {}
          ((t.modRack n (fun k => { k with proofs := proofDone slot index k.proofs })).readyUp n).placeProofs n
  | _, _ => s

def execProofTaskComplete (n : Rack) (i : SlotNo) (s : State) : Host.Outcome State Fault Refusal := .next (s.proofComplete n.val i.val)

/-! ## Votes (R146, R150) -/

/-- A fraction or a value exceeds an FP32 threshold: `a > t × b` for b above zero, compared exactly. -/
def exceeds (a b : Num) (t : BitVec 32) : Bool := ((fp32.decode t.toNat).mul b).lt a

/-- A square root exceeds a threshold: √(a / b) > t, compared by squares. -/
def rootExceeds (a b : Num) (t : BitVec 32) : Bool :=
  match fp32.decode t.toNat with
  | .fin true m _ => if m = 0 then Num.lt .zero a else !(a.isNaN || b.isNaN)
  | .inf true => !(a.isNaN || b.isNaN)
  | x => ((x.mul x).mul b).lt a

def numOf (n : Nat) : Num := .fin false n 0

/-- A count's share of the elements exceeds a threshold; a record without elements has shares of 0. -/
def shareExceeds (n elems : Nat) (t : BitVec 32) : Bool :=
  if elems = 0 then exceeds (numOf 0) (numOf 1) t else exceeds (numOf n) (numOf elems) t

/-- The exponent m of an entry's current format (R146). -/
def fmtDigits (f : Nat) : Nat :=
  match f with
  | 0x0 => 1 | 0x1 | 0x2 | 0x5 => 2 | 0x3 | 0x4 => 3 | 0x6 => 6 | 0x7 => 7 | 0x8 => 10 | 0xC => 52 | _ => 23

/-- The two sums of the update whose parameters a step consumed; none where UWR is not known (R146). -/
def State.updateSums (s : State) (layer : Nat) (step : Step) : Option (Num × Num) :=
  match tfind s.gov.uwr (2 * layer + (step - 1).toNat % 2) with
  | none => none
  | some (n, d, w) =>
    let x := fp64.decode d.toNat
    let y := fp64.decode w.toNat
    let top : Num → Bool := fun z => match z with
      | .inf _ => true
      | _ => false
    if n ≠ step - 1 ∨ x.isNaN ∨ y.isNaN ∨ (x.isZero ∧ y.isZero) ∨ (top x ∧ top y) then none else some (x, y)

/-- UWQ = ε / UWR exceeds a threshold: √(ε² × Σw² / Σ(Δw)²). -/
def uwqExceeds (f : Nat) (u : Num × Num) (t : BitVec 32) : Bool :=
  let e : Num := .fin false 1 (-2 * (fmtDigits f + 1 : Int))
  if u.1.isZero then (match fp32.decode t.toNat with
    | .inf false => false
    | .nan => false
    | _ => true)
  else rootExceeds (e.mul u.2) u.1 t

/-- The vote of one steered entry, U in bit 0, K in bit 1, W in bit 2 (R150, R151). -/
def voteOf (c : ClassRec) (r : StatRec) (role fmt : Nat) (u : Option (Num × Num)) : Nat :=
  let pd := fp64.decode r.pdiff.toNat
  let pr := fp64.decode r.pref.toNat
  let conclusive := decide (c.pmin ≤ r.pcount) && Num.zero.lt pr
  let fb := if role ≤ 1 && !conclusive then u else none
  let overAll := fun (sat flush : BitVec 32) => shareExceeds r.sat r.elems sat || shareExceeds r.flush r.elems flush
  let w := (decide (0 < r.elems) && overAll c.satWiden c.flushWiden) || (conclusive && rootExceeds pd pr c.peWiden) ||
    (fb.map (fun x => uwqExceeds fmt x c.uwqWiden)).getD false
  let narrow := overAll c.satNarrow c.flushNarrow
  if w then 7
  else if conclusive then (if rootExceeds pd pr c.peNarrow || narrow then 3 else 1)
  else
    match fb with
    | some x => if uwqExceeds fmt x c.uwqNarrow || narrow then 3 else 1
    | none => if 0 < r.elems ∧ narrow then 3 else 0

/-- The vote of an entry of a partition at a step: a Pinned, Fixed or Ceiling entry, or one with a Ledger error, votes 0. -/
def State.entryVote (s : State) (p : Nat) (c : Slice) (step : Step) (x : Nat × LedgerEntry) : Nat :=
  if s.gov.errs.contains x.1 || x.2.pin || x.2.state == .fixed || x.2.state == .ceiling then 0
  else
    match tfind c.classes x.2.cls.toNat with
    | none => 0
    | some k =>
      let r : StatRec := match s.statRec p x.1 (step.toNat % 2) with
        | some y => if y.hasData ∧ y.step = step then y else {}
        | none => {}
      voteOf k r (x.1 % 8) (cwFmt (entryCw x.2 step)) (s.updateSums (x.1 / 8) step)

/-- The steered entries of a group. -/
def State.groupEntries (s : State) (c : Slice) (g : GroupRec) : List (Nat × LedgerEntry) :=
  s.gov.ledger.filter (fun e => inLayers c.part e.1 && e.2.group.toNat == g.group.val && e.2.state != .fixed &&
    decide (g.lo ≤ e.1 ∧ e.1 ≤ g.hi))

/-- Votes packed 16 to a word in ascending index over the group's range (R151). -/
def State.voteWords (s : State) (p : Nat) (c : Slice) (g : GroupRec) (step : Step) : List (BitVec 64) :=
  let v := (s.groupEntries c g).map (fun e => (e.1 - g.lo, s.entryVote p c step e))
  (List.range ((g.hi - g.lo) / 16 + 1)).map (fun j =>
    BitVec.ofNat 64 ((v.filter (fun x => x.1 / 16 == j)).foldl (fun a x => a ||| x.2 <<< (4 * (x.1 % 16))) 0))

/-! ## Steering buckets (R151, R152) -/

/-- Parent and children of this device for a group's steering bucket: those of route 0 of a route set that joins the group's
members at its owner; without one, every member is a child of the owner (entry 29). -/
def State.steerRoute (s : State) (c : Slice) (g : GroupRec) : Option Nat × List Nat :=
  let own := s.lnk.rank.toNat
  match (c.rsets.find? (fun r => r.owner == g.owner && g.members.all (fun m => m == r.owner || r.members.contains m))).bind
      (fun r => r.routes.head?) with
  | some r => (r.parent.map (fun _ => r.parentRank), r.children.map (fun x => x.2))
  | none => if own = g.owner then (none, g.members.filter (fun m => m != own)) else (some g.owner, [])

/-- Devices of a group. -/
def groupSize (g : GroupRec) : Nat := (dedup (g.owner :: g.members)).length

/-- The partition and the record of a steering bucket. -/
def State.steerBucket (s : State) (bid : BitVec 20) : Option (Nat × Slice × GroupRec) :=
  s.rcp.slices.findSome? (fun e => (e.2.groups.find? (fun g => g.bucket == bid)).map (fun g => (e.1, e.2, g)))

/-- The votes of a group at a step. -/
def State.vote (s : State) (g : Nat) (step : Step) : VoteSt :=
  (s.gov.votes.find? (fun v => v.group == g && v.step == step)).getD { group := g, step := step }

def State.setVote (s : State) (v : VoteSt) : State :=
  let same := fun (x : VoteSt) => x.group == v.group && x.step == v.step
  { s with gov := { s.gov with
      votes := if s.gov.votes.any same then s.gov.votes.map (fun x => if same x then v else x) else s.gov.votes ++ [v] } }

/-- A control word of a steering bucket, on the seal stream of its partition. -/
def State.sendSteer (s : State) (p : Nat) (g : GroupRec) (dst : Nat) (step : Step) (b : Body) : State :=
  s.sendOn (s.sealRack p) p (BitVec.ofNat 14 dst) step g.bucket b

/-- ADOPTED counts go up once this device and every child have adopted; at the owner a complete count commits. -/
def State.advanceAdopted (s : State) (p : Nat) (c : Slice) (g : GroupRec) (step : Step) : State :=
  let v := s.vote g.group.val step
  let r := s.steerRoute c g
  let need := s.lnk.rank.toNat :: r.2
  if v.acked || !need.all (fun m => v.adoptedBy.any (fun a => a.1 == m)) then s
  else
    let n := v.adoptedBy.foldl (fun k a => k + a.2) 0
    match r.1 with
    | some up => (s.setVote { v with acked := true }).sendSteer p g up step (.adopted n)
    | none =>
      if n = groupSize g then
        overAll r.2 (fun m u => u.sendSteer p g m step .commit) (s.setVote { v with acked := true, committed := true })
      else s

/-- A rank's ADOPTED of a steering bucket. -/
def State.noteAdopted (s : State) (p : Nat) (c : Slice) (g : GroupRec) (step : Step) (rank n : Nat) : State :=
  let v := s.vote g.group.val step
  (s.setVote { v with adoptedBy := v.adoptedBy.filter (fun a => a.1 != rank) ++ [(rank, n)] }).advanceAdopted p c g step

/-- The combined record reaches this device: it adopts the bucket, copies the record to its children and returns ADOPTED. -/
def State.takeRecord (s : State) (p : Nat) (c : Slice) (g : GroupRec) (step : Step) (w : List (BitVec 64)) (m : Bool) : State :=
  let v := s.vote g.group.val step
  if v.result.isSome then s
  else
    let t := s.setVote { v with result := some (w, m) }
    let t := overAll (s.steerRoute c g).2 (fun k u => u.sendSteer p g k step (.combined w m)) t
    t.noteAdopted p c g step s.lnk.rank.toNat 1

/-- Words combined by bitwise OR. -/
def orWords (a b : List (BitVec 64)) : List (BitVec 64) :=
  (List.range (max a.length b.length)).map (fun i => a.getD i 0 ||| b.getD i 0)

/-- Contributions go up once this device and every child have given theirs; the owner returns the combined record. -/
def State.advanceVotes (s : State) (p : Nat) (c : Slice) (g : GroupRec) (step : Step) : State :=
  let v := s.vote g.group.val step
  let r := s.steerRoute c g
  let need := s.lnk.rank.toNat :: r.2
  if v.forwarded || !need.all (fun m => v.words.any (fun a => a.1 == m)) then s
  else
    let w := v.words.foldl (fun l a => orWords l a.2.2.1) []
    let tag := (v.words.head?.map (fun a => a.2.1)).getD 0
    let m := v.words.any (fun a => a.2.1 != tag || a.2.2.2)
    let t := s.setVote { v with forwarded := true }
    match r.1 with
    | some up => t.sendSteer p g up step (.votes tag w m)
    | none => t.takeRecord p c g step w m

/-- A contribution of a rank. -/
def State.noteVotes (s : State) (p : Nat) (c : Slice) (g : GroupRec) (step : Step) (rank : Nat) (tag : BitVec 32)
    (w : List (BitVec 64)) (m : Bool) : State :=
  let v := s.vote g.group.val step
  if v.forwarded then s
  else
    (s.setVote { v with words := v.words.filter (fun a => a.1 != rank) ++ [(rank, tag, w, m)] }).advanceVotes p c g step

/-- VOTE_RECORD: a child's contribution, of a step not yet sealed. -/
def State.voteRecord (t : State) (k : Packet) : State :=
  match k.body, t.steerBucket k.bucket with
  | .votes tag w m, some (p, c, g) =>
    if newer k.step (t.part p).lastSeal then t.noteVotes p c g k.step k.src.toNat tag w m else t
  | _, _ => t

/-- STEERING_RECORD. -/
def State.steeringRecord (t : State) (k : Packet) : State :=
  match k.body, t.steerBucket k.bucket with
  | .combined w m, some (p, c, g) =>
    if newer k.step (t.part p).lastSeal then t.takeRecord p c g k.step w m else t
  | _, _ => t

/-! ## WINDOW_CLOSE (R150) -/

/-- A slot has no descriptor of a step or an earlier one left: its task has ended, or what it holds is of a later step
(R119, R150; entry 30). -/
def Slot.past (x : Slot) (step : Step) : Bool :=
  let later := fun (o : Op) => o.desc.proof || Machine.newer o.desc.step step
  x.allOps.any (fun o => o.desc.proof) || x.older.all later && x.faultOp.all later &&
    (x.state == .free || x.ended && x.newer.isNone || Machine.newer x.tstep step ||
      (x.newer.map (fun o => decide (o.desc.kind ≤ kSync) && later o)).getD false) && x.newer.all (fun o => kSync < o.desc.kind || later o)

/-- Every descriptor of a step in a partition has completed. -/
def State.stepDone (s : State) (p : Nat) (step : Step) : Bool :=
  s.stepIsOpen p step && (s.racksOf p).all (fun n => (s.rack n).slots.all (fun e => e.2.past step))

/-- A bucket of a partition that this device owns. -/
def State.ownsBucket (s : State) (p : Nat) (bid : BitVec 20) : Bool :=
  ((s.slice p).map (fun c => c.owners.any (fun o => o.bid == bid))).getD false

/-- The update engines have made every conversion whose parameters a step consumes: those of the step before, sealed or
sent. -/
def State.conversionsDone (s : State) (p : Nat) (step : Step) : Bool :=
  !newer (step - 1) (s.part p).lastSeal ||
    ((s.slice p).map (fun c => c.owners.all (fun o => (s.bkt o.bid (step - 1)).paramsSent))).getD true

/-- Every line of a step's parity leaves the caches of a partition's racks. -/
def State.mergeLines (s : State) (p : Nat) (par : Nat) : State :=
  overAll (s.racksOf p) (fun n u => overAll (((u.rack n).sieve.map (fun e => e.1)).filter (fun k => k % 2 == par)) (fun k v => v.evict n k) u) s

/-- The device's votes for a step are released to each group's steering bucket, in ascending group number. -/
def State.releaseVotes (s : State) (p : Nat) (step : Step) : State :=
  match s.slice p with
  | none => s
  | some c =>
    overAll (List.range 16) (fun j u =>
      match c.groups.find? (fun g => g.group.val == j) with
      | none => u
      | some g =>
        let u := u.checkStats p (step.toNat % 2) ((u.groupEntries c g).map (fun e => e.1))
        u.noteVotes p c g step u.lnk.rank.toNat (u.groupTag g step) (u.voteWords p c g step) false) s

/-- WINDOW_CLOSE: the window of a partition's oldest step whose window is open. -/
def State.windowClose (s : State) (p : Nat) : State :=
  match s.openWindows p with
  | [] => s
  | n :: _ =>
    if s.isOn 78 && s.stepDone p n && s.conversionsDone p n then
      let t := s.mergeLines p (n.toNat % 2)
      State.releaseVotes { t with gov := { t.gov with closed := t.gov.closed ++ [(p, n)] } } p n
    else s

/-! ## Decisions at a seal (R153 to R155) -/

/-- The decision of a vote on an entry; the flag says that it goes to Ceiling. -/
def decideEntry (c : ClassRec) (v : Nat) (e : LedgerEntry) : LedgerEntry × Bool :=
  match e.state with
  | .settling => ({ e with state := .steady }, false)
  | .steady =>
    if e.pin then (e, false)
    else if v.testBit 2 then
      let w := e.wcnt.toNat + 1
      if c.wpersist ≤ w then
        if e.rung.toNat < c.ceil then ({ e with ncnt := 0, wcnt := 0, rung := e.rung + 1, state := .settling }, false)
        else ({ e with ncnt := 0, wcnt := 0, state := .ceiling }, true)
      else ({ e with ncnt := 0, wcnt := e.wcnt + 1 }, false)
    else if v.testBit 0 && !v.testBit 1 then
      let n := satAdd e.ncnt 1
      if c.hyst ≤ n.toNat ∧ c.floor < e.rung.toNat then
        ({ e with wcnt := 0, ncnt := 0, rung := e.rung - 1, state := .settling }, false)
      else ({ e with wcnt := 0, ncnt := n }, false)
    else if v.testBit 0 then ({ e with wcnt := 0, ncnt := 0 }, false)
    else ({ e with wcnt := 0 }, false)
  | _ => (e, false)

/-- A host command on an entry (R157): 1 PIN, 2 UNPIN, 3 CLEAR_CEIL. -/
def hostEntry (c : HostSteer) (e : LedgerEntry) : LedgerEntry :=
  if c.op = 1 then { e with rung := BitVec.ofNat 3 c.rung, pin := true }
  else if c.op = 2 then { e with pin := false, state := .steady, wcnt := 0, ncnt := 0 }
  else if c.op = 3 ∧ e.state = .ceiling then { e with state := .steady, wcnt := 0, ncnt := 0 }
  else e

/-- The fields that the members of a lock set share. -/
def shareEntry (m e : LedgerEntry) : LedgerEntry :=
  { e with pin := m.pin, state := m.state, ncnt := m.ncnt, wcnt := m.wcnt, rung := m.rung }

/-- A vote nibble of the combined words. -/
def nibble (w : List (BitVec 64)) (o : Nat) : Nat := (w.getD (o / 16) 0).toNat >>> (4 * (o % 16)) % 16

/-- The lock set of an entry, or the entry alone (R148). -/
def lockOf (c : Slice) (i : Nat) : List Nat := (c.locks.find? (fun l => l.contains i)).getD [i]

/-- One entry or lock set at a seal: host commands that fall due first; without a change by them, the vote decides. Members
with a Ledger error are skipped (R138, R159), and so are Fixed ones, which get the slot write alone (R153). -/
def State.sealUnit (s : State) (c : Slice) (g : GroupRec) (step : Step) (due : List HostSteer) (vote : Option (List (BitVec 64)))
    (unit : List Nat) : State :=
  match unit.filter (fun i => !s.gov.errs.contains i && (s.ledgerEnt i).state != .fixed) with
  | [] => s
  | i :: rest =>
    let e := s.ledgerEnt i
    let h := (due.filter (fun x => x.op ≤ 3 && unit.contains x.target)).foldl (fun a x => hostEntry x a) e
    let d : LedgerEntry × Bool :=
      if h ≠ e then (h, false)
      else
        match vote, tfind c.classes e.cls.toNat with
        | some w, some k => decideEntry k ((unit.map (fun j => nibble w (j - g.lo))).foldl (· ||| ·) 0) e
        | _, _ => (e, false)
    overAll (i :: rest) (fun j u =>
      let t := u.setLedger j (shareEntry d.1 (u.ledgerEnt j))
      if d.2 then t.raise 78 .ceiling [j, d.1.rung.toNat, step.toNat] else t) s

/-- The units of a group: lock sets taken once, single entries alone. -/
def State.groupUnits (s : State) (c : Slice) (g : GroupRec) : List (List Nat) :=
  ((s.groupEntries c g).map (fun e => lockOf c e.1)).foldl (fun a u => if a.contains u then a else a ++ [u]) []

/-- A host command that falls due at a seal: its effective step is two later. -/
def State.dueAt (s : State) (g : GroupRec) (step : Step) : List HostSteer :=
  s.gov.cmds.filter (fun c => c.step == step + 2 && s.steerGroup c == g.group.val)

/-- FREEZE and THAW in the order of their commands. -/
def freezeBy (l : List HostSteer) (f : Bool) : Bool := l.foldl (fun a c => if c.op = 4 then true else if c.op = 5 then false else a) f

/-- One group at a seal (R152, R153). -/
def State.sealGroup (s : State) (c : Slice) (g : GroupRec) (step : Step) : State :=
  let due := s.dueAt g step
  let v := s.vote g.group.val step
  let t := s.modGroup g.group.val (fun x => { x with frozen := freezeBy due x.frozen })
  let mism := (v.result.map (fun r => r.2)).getD false
  let t := if mism then
      (t.modGroup g.group.val (fun x => { x with mismatch := satAdd x.mismatch 1 })).raise 78 .steerMismatch [g.group.val, step.toNat]
    else t
  let applies := v.result.isSome && !mism && !(t.group g.group.val).frozen
  let t := overAll (t.groupUnits c g) (fun u x => x.sealUnit c g step due (if applies then v.result.map (fun r => r.1) else none) u) t
  if applies then t.modGroup g.group.val (fun x => { x with sealedRec := step }) else t

/-- The slots of a step's parity: the word of the rung, and the step's finite amax (R137). -/
def slotWrite (c : Slice) (step : Step) (amax : BitVec 32) (e : LedgerEntry) : LedgerEntry :=
  let w := if e.state = .fixed then entryCw e step
    else ((tfind c.classes e.cls.toNat).map (fun k => k.rungs.getD e.rung.toNat 0)).getD (entryCw e step)
  if step.toNat % 2 = 0 then { e with cwE := w, camaxE := amax } else { e with cwO := w, camaxO := amax }

/-- The slot write of every entry that has a statistics record. -/
def State.writeSlots (s : State) (p : Nat) (c : Slice) (step : Step) : State :=
  let l := (s.gov.ledger.filter (fun e => inLayers c.part e.1 && !s.gov.errs.contains e.1)).map (fun e => e.1)
  let s := s.checkStats p (step.toNat % 2) l
  -- the records are those that stand before any slot changes
  let vals := l.filterMap (fun i => (s.statRec p i (step.toNat % 2)).map (fun r =>
    (i, if r.hasData ∧ r.step = step then r.amax else 0)))
  overAll vals (fun x u => u.setLedger x.1 (slotWrite c step x.2 (u.ledgerEnt x.1))) s

/-- The Governor at the seal of a step: its groups in ascending number, then the slots. Host commands whose effective step is
sealed pass into the counts of their groups' tags. -/
def State.governSeal (s : State) (p : Nat) (step : Step) : State :=
  match s.slice p with
  | none => s
  | some c =>
    let mine := fun (x : HostSteer) => c.groups.any (fun g => g.group.val == s.steerGroup x)
    let t := overAll (List.range 16) (fun j u =>
      match c.groups.find? (fun g => g.group.val == j) with
      | none => u
      | some g => u.sealGroup c g step) s
    let t := t.writeSlots p c step
    let past := fun (x : HostSteer) => mine x && !newer x.step step
    let t := overAll (t.gov.cmds.filter past) (fun x u =>
      u.modGroup (u.steerGroup x) (fun y => { y with hostCount := (y.hostCount + 1) % 256 })) t
    { t with gov := { t.gov with
        cmds := t.gov.cmds.filter (fun x => !past x)
        votes := t.gov.votes.filter (fun v => !(c.groups.any (fun g => g.group.val == v.group) && !newer v.step step))
        closed := t.gov.closed.filter (fun x => !(x.1 == p && !newer x.2 step)) } }

/-- The windows and proof slots of rewound steps are discarded (R145, R159, 08_training_step.md R174). -/
def State.discardWindows (s : State) (p : Nat) (step : Step) : State :=
  let gone := fun (x : Step) => !newer step x
  let t := overAll (s.racksOf p) (fun n u => u.modRack n (fun r =>
    { r with sieve := r.sieve.filter (fun e => !gone e.2.step), proofs := r.proofs.filter (fun x => !gone x.step) })) s
  let t := match t.statRange p, t.steerRegion p with
    | some (lo, hi), some r =>
      overAll ((List.range (2 * (hi + 1 - lo)))) (fun j u =>
        let a := r.base + 128 * j
        if (u.accessErr (mergeUnit p) false a 128).isSome || gone (statOf (u.readBytes a 128)).step then u.clearRange a 128 else u) t
    | _, _ => t
  let ids := ((t.slice p).map (fun c => c.groups.map (fun g => g.group.val))).getD []
  { t with gov := { t.gov with
      votes := t.gov.votes.filter (fun v => !(ids.contains v.group && gone v.step))
      closed := t.gov.closed.filter (fun x => !(x.1 == p && gone x.2)) } }

/-! ## Host control (R157, R158) -/

def gAccepted : BitVec 4 := 0
def gPassed : BitVec 4 := 1
def gRung : BitVec 4 := 2
def gFixed : BitVec 4 := 3
def gReserved : BitVec 4 := 4

/-- The partition, slice and group of a GOV_CMD, or why it has none: a reserved group number, an unused group, an entry that is
Fixed or outside every group, a rung outside FLOOR to CEIL. -/
def State.steerTarget (s : State) (c : HostSteer) : Except (BitVec 4) Nat :=
  let owner := fun (g : Nat) => s.rcp.slices.find? (fun e => e.2.groups.any (fun x => x.group.val == g))
  if 4 ≤ c.op then
    if 16 ≤ c.target then .error gReserved
    else
      match owner c.target with
      | some e => .ok e.1
      | none => .error gFixed
  else
    let e := s.ledgerEnt c.target
    match owner e.group.toNat with
    | none => .error gFixed
    | some (p, d) =>
      if e.state = .fixed ∨ !inLayers d.part c.target ∨
          !(d.groups.any (fun g => g.group.val == e.group.toNat && decide (g.lo ≤ c.target ∧ c.target ≤ g.hi))) then .error gFixed
      else if c.op = 1 ∧ !((tfind d.classes e.cls.toNat).map (fun k => decide (k.floor ≤ c.rung ∧ c.rung ≤ k.ceil))).getD false then
        .error gRung
      else .ok p

/-- The GOV_CMDST of a command: accepted unless its seal of S - 2 has passed. -/
def State.steerStatus (s : State) (c : HostSteer) : BitVec 4 :=
  match s.steerTarget c with
  | .error e => e
  | .ok p => if newer (c.step - 2) (s.part p).lastSeal then gAccepted else gPassed

/-- What a GOV_CMD write orders. -/
def steerOf (op v : Nat) : HostSteer :=
  { op := op, target := fieldOf v 16 0, rung := fieldOf v 26 24, step := BitVec.ofNat 32 (fieldOf v 63 32) }

/-- A host steering command: an accepted one waits for its seal. -/
def steerBody (op : Nat) : RowBody := opBody (fun s _ _ v =>
  let c := steerOf op v
  let st := s.steerStatus c
  ({ s with gov := { s.gov with cmdst := st, cmds := if st = gAccepted then s.gov.cmds ++ [c] else s.gov.cmds } }, ok))

def execPin (c : Cmd) (s : State) : Host.Outcome State Fault Refusal := .next (s.host c (isWrite .pin) (steerBody 1))
def execUnpin (c : Cmd) (s : State) : Host.Outcome State Fault Refusal := .next (s.host c (isWrite .unpin) (steerBody 2))
def execClearCeil (c : Cmd) (s : State) : Host.Outcome State Fault Refusal :=
  .next (s.host c (isWrite .clearCeil) (steerBody 3))
def execFreeze (c : Cmd) (s : State) : Host.Outcome State Fault Refusal := .next (s.host c (isWrite .freeze) (steerBody 4))
def execThaw (c : Cmd) (s : State) : Host.Outcome State Fault Refusal := .next (s.host c (isWrite .thaw) (steerBody 5))

end Sys2Proof.Machine
end

