-- ==== Sys2Proof/Machine/Tap.lean ====
section
/-! DEFINITION. The Snapshot Engine (13_recovery.md R250 to R258): which steps are snapshot steps, the bytes of shards and
manifests, the ring slot of a snapshot, the tap of an update's write-back, and the capture at a seal. -/

namespace Sys2Proof.Machine

/-! ## Snapshot steps (R250, R275) -/

/-- K and FULL as they govern a step. -/
def SnapSt.inForce (x : SnapSt) (step : Step) : BitVec 16 × Bool :=
  ((x.waiting.filter (fun w => !newer w.1 step)).getLast?.map (fun w => w.2)).getD (x.k, x.full)

/-- A change of K and FULL from a step on takes the place of those that would start there or later. -/
def SnapSt.change (x : SnapSt) (step : Step) (k : BitVec 16) (full : Bool) : SnapSt :=
  { x with waiting := x.waiting.filter (fun w => newer step w.1) ++ [(step, k, full)] }

/-- What governs a step becomes the settled K and FULL: changes from before it are no longer told apart. -/
def SnapSt.settle (x : SnapSt) (step : Step) : SnapSt :=
  { x with k := (x.inForce step).1, full := (x.inForce step).2, waiting := x.waiting.filter (fun w => newer w.1 step) }

/-- First step of a partition (08_training_step.md R160). -/
def State.firstStep (s : State) (p : Nat) : Step := ((s.slice p).map (fun c => c.part.s0)).getD 0

def State.snapStep (s : State) (p : Nat) (step : Step) : Bool :=
  let k := ((s.snap p).inForce step).1.toNat
  k != 0 && (step - s.firstStep p).toNat % k == 0

/-! ## Shards (R251, R252) -/

def kBucketShard : Nat := 1
def kSchedShard : Nat := 2

/-- The digest of a shard: a 32-byte prefix, then its stream. -/
def shardDigest (step : Step) (rank kind bid : Nat) (b : List Byte) : BitVec 256 :=
  digest256 (leBytes 4 step.toNat ++ leBytes 2 rank ++ [BitVec.ofNat 8 kind, 0] ++ leBytes 4 bid ++ leBytes 4 0 ++
    leBytes 8 b.length ++ leBytes 8 0 ++ b)

/-- Elements of one group of the shard stream. -/
def shardGroup : Nat := 256

/-- The shard stream of a bucket: groups of 256 elements, each the master's bytes and then every state word. -/
def shardStream (mw : Bool) (master : List Nat) (state : List (List Nat)) : List Byte :=
  (List.range ((master.length + shardGroup - 1) / shardGroup)).flatMap (fun i =>
    let cut := fun (l : List Nat) => (l.drop (shardGroup * i)).take shardGroup
    (if mw then (cut master).flatMap (fun c => leBytes 4 (c / 256)) ++ (cut master).map (BitVec.ofNat 8)
      else (cut master).flatMap (leBytes 4)) ++ state.flatMap (fun l => (cut l).flatMap (leBytes 4)))

/-- Master codes and state words that a shard stream of n elements holds. -/
def shardParts (mw : Bool) (nstate n : Nat) (b : List Byte) : List Nat × List (List Nat) :=
  let m := if mw then 5 else 4
  let gs := (List.range ((n + shardGroup - 1) / shardGroup)).map (fun i =>
    let k := min shardGroup (n - shardGroup * i)
    let g := (b.drop (shardGroup * i * (m + 4 * nstate))).take (k * (m + 4 * nstate))
    let w := fun off => unpackBits 32 k (g.drop off)
    (if mw then List.zipWith (fun h (l : Byte) => h * 256 + l.toNat) (w 0) ((g.drop (4 * k)).take k) else w 0,
      (List.range nstate).map (fun j => w (m * k + 4 * k * j))))
  (gs.flatMap (fun x => x.1), (List.range nstate).map (fun j => gs.flatMap (fun x => x.2.getD j [])))

/-! ## The schedule shard (R254; entry 23) -/

/-- The Ledger entry that 128 bits spell (07_precision_steering.md R136). -/
def ledgerOfBits (v : Nat) : LedgerEntry :=
  { camaxO := BitVec.ofNat 32 (v >>> 96), camaxE := BitVec.ofNat 32 (v >>> 64), pin := v.testBit 60
    state := match fieldOf v 59 58 with
      | 0 => .fixed | 1 => .steady | 2 => .settling | _ => .ceiling
    group := BitVec.ofNat 4 (v >>> 54), cls := BitVec.ofNat 5 (v >>> 49), ncnt := BitVec.ofNat 8 (v >>> 41)
    wcnt := BitVec.ofNat 5 (v >>> 36), rung := BitVec.ofNat 3 (v >>> 32), cwO := BitVec.ofNat 16 (v >>> 16)
    cwE := BitVec.ofNat 16 v }

def flagBits (l : List Bool) : Nat := l.zipIdx.foldl (fun a x => if x.1 then a ||| 1 <<< x.2 else a) 0

/-- Words of a shard, in the model's own layout. -/
def shardWords (x : SchedShard) : List Nat :=
  [x.step.toNat, x.streams.length] ++ x.streams.flatMap (fun e =>
      [e.1, e.2.step.toNat, e.2.issue.toNat, e.2.txseq.toNat, e.2.genIn.toNat, e.2.genOut.toNat,
        flagBits [e.2.drawHalf, e.2.drawHalfIn], e.2.inpos.toNat, e.2.halves.length] ++
        e.2.halves.flatMap (fun h => [h.1, h.2.count.toNat, h.2.tag.toNat])) ++
    [x.slots.length] ++ x.slots.flatMap (fun e =>
      [e.1, e.2.1, e.2.2.step.toNat, e.2.2.addr, e.2.2.tstep.toNat] ++ (List.range 4).map (fun i => e.2.2.ctrs.getD i 0) ++
        [flagBits e.2.2.acts]) ++
    [x.ledger.length] ++ x.ledger.flatMap (fun e => [e.1, ledgerBits e.2 % 2 ^ 64, ledgerBits e.2 / 2 ^ 64]) ++
    [x.groups.length] ++ x.groups.flatMap (fun e => [e.1, e.2.1, if e.2.2 then 1 else 0])

/-- Reads items of a list of words, each by a reader that answers the item and the rest. -/
def readMany {α : Type} (f : List Nat → α × List Nat) : Nat → List Nat → List α × List Nat
  | 0, l => ([], l)
  | n + 1, l =>
    let a := f l
    let b := readMany f n a.2
    (a.1 :: b.1, b.2)

/-- A count, then so many items; no more than there are words. -/
def readList {α : Type} (f : List Nat → α × List Nat) (l : List Nat) : List α × List Nat :=
  readMany f (min (l.headD 0) l.length) l.tail

def bitFlags (v : Nat) (n : Nat) : List Bool := (List.range n).map (fun i => v.testBit i)

def readStream (l : List Nat) : (Nat × StreamBound) × List Nat :=
  let w := fun i => l.getD i 0
  let h := readList (fun m => ((m.getD 0 0, ({ count := BitVec.ofNat 32 (m.getD 1 0), tag := BitVec.ofNat 32 (m.getD 2 0) } : Half)),
    m.drop 3)) (l.drop 8)
  ((w 0, { step := BitVec.ofNat 32 (w 1), issue := BitVec.ofNat 32 (w 2), txseq := BitVec.ofNat 32 (w 3), genIn := BitVec.ofNat 32 (w 4)
           genOut := BitVec.ofNat 32 (w 5), drawHalf := (w 6).testBit 0, drawHalfIn := (w 6).testBit 1
           inpos := BitVec.ofNat 64 (w 7), halves := h.1 }), h.2)

def readSlot (l : List Nat) : (Nat × Nat × SlotBound) × List Nat :=
  let w := fun i => l.getD i 0
  ((w 0, w 1, { step := BitVec.ofNat 32 (w 2), addr := w 3, tstep := BitVec.ofNat 32 (w 4), ctrs := [w 5, w 6, w 7, w 8]
                acts := bitFlags (w 9) 4 }), l.drop 10)

/-- The shard that words spell. -/
def shardOfWords (l : List Nat) : SchedShard :=
  let a := readList readStream l.tail
  let b := readList readSlot a.2
  let c := readList (fun m => ((m.getD 0 0, ledgerOfBits (m.getD 1 0 + 2 ^ 64 * m.getD 2 0)), m.drop 3)) b.2
  let d := readList (fun m => ((m.getD 0 0, m.getD 1 0, m.getD 2 0 == 1), m.drop 3)) c.2
  { step := BitVec.ofNat 32 (l.headD 0), streams := a.1, slots := b.1, ledger := c.1, groups := d.1 }

/-- Combines bytes with the pad. -/
def padShard (b : List Byte) : List Byte := b.zipIdx.map (fun x => x.1 ^^^ Config.shardPad x.2)

def schedBytes (x : SchedShard) : List Byte := padShard ((shardWords x).flatMap (leBytes 8))

def schedOfBytes (b : List Byte) : SchedShard :=
  let c := padShard b
  shardOfWords ((chunks 8 c.length c).map leNat)

/-- The boundary of a step in one rack: its copy, or the present one where the step has not opened (R254, R268). -/
def RackSt.boundAt (r : RackSt) (step : Step) : StreamBound :=
  (r.stream.bounds.find? (fun b => b.step == step)).getD (r.boundary step)

/-- A slot's boundary record of a step: its first one of that step or a later one (06_task_engines_and_whisk.md R126). -/
def Slot.boundAt (x : Slot) (step : Step) : Option SlotBound :=
  match x.bounds.find? (fun b => !Machine.newer step b.step) with
  | some b => some b
  | none =>
    if x.state = .free then none
    else some { step := step, addr := x.next, tstep := x.tstep, ctrs := x.ctrs, acts := x.acts }

/-- The schedule shard of a partition whose boundary is that of a step. -/
def State.captureSched (s : State) (p : Nat) (bound : Step) : SchedShard :=
  { step := bound - 1
    streams := (s.racksOf p).map (fun n => (n, (s.rack n).boundAt bound))
    slots := (s.racksOf p).flatMap (fun n => (s.rack n).slots.filterMap (fun e =>
      (e.2.boundAt bound).map (fun b => (n, e.1, b))))
    ledger := ((s.slice p).map (fun c => s.gov.ledger.filter (fun e => inLayers c.part e.1))).getD []
    groups := ((s.slice p).map (fun c => c.groups.map (fun g =>
      (g.group.val, (s.group g.group.val).hostCount, (s.group g.group.val).frozen)))).getD [] }

/-! ## Ring slots (R256) -/

/-- The ring of a partition. -/
def State.ringRec (s : State) (p : Nat) : Option SnapRec :=
  ((s.slice p).bind (fun c => c.snap)).filter (fun r => decide (0 < r.rslots) && (s.snap p).ringOk)

/-- A slot that a new snapshot may take: it holds neither the newest secured snapshot nor one that host software holds. -/
def SnapSt.mayTake (x : SnapSt) (i : Nat) : Bool :=
  !x.hold.toNat.testBit i && !((x.ring i).used && (x.ring i).manifest.isSome && x.secured != 0xFFFFFFFF && (x.ring i).step == x.secured)

/-- The oldest slot that may be taken: an empty one first, then the one of the oldest step. -/
def SnapSt.oldest (x : SnapSt) (n : Nat) : Option Nat :=
  let l := (List.range n).filter x.mayTake
  match l.find? (fun i => !(x.ring i).used) with
  | some i => some i
  | none => l.foldl (fun b i =>
      match b with
      | none => some i
      | some j => if newer (x.ring j).step (x.ring i).step then some i else some j) none

/-! ## The job of a snapshot -/

/-- A twin partner is named and its port is up (R257, R275 TWINOK). -/
def State.twinUp (s : State) : Bool := s.twinRank.isSome && s.portUp portT

/-- A snapshot ends without being secured: its slot is freed (R258). -/
def State.dropSnap (s : State) (p : Nat) (i : Option Nat) : State :=
  match i with
  | none => s
  | some i => s.modSnap p (fun x => x.setRing i {})

/-- Whether the engine takes snapshots: not fenced, and island 78 runs (R260, R261). -/
def State.snapRuns (s : State) : Bool := !s.dev.fenced && !s.dev.hub78 && s.isOn 78

/-- The engine starts the snapshot of a step at its first write-back (R256). -/
def State.startSnap (s : State) (p : Nat) (step : Step) : State :=
  match s.ringRec p with
  | none => s.modSnap p (fun x => { x with state := 1, job := some { step := step, slot := none, toTwin := s.twinUp, nextOff := shardsAt } })
  | some r =>
    match (s.snap p).oldest r.rslots with
    | some i => s.modSnap p (fun x =>
        { x.setRing i { step := step, used := true } with
            state := 1, job := some { step := step, slot := some i, toTwin := s.twinUp, nextOff := shardsAt } })
    | none =>
      (s.modSnap p (fun x => { x with
        state := 1, job := some { step := step, slot := none, toTwin := s.twinUp, nextOff := shardsAt } })).raise 78
          .snapRingskip [p, step.toNat]

/-- The job of a step, started if it is not. -/
def State.snapFor (s : State) (p : Nat) (step : Step) : State :=
  match (s.snap p).job with
  | some j => if j.step = step then s else s.startSnap p step
  | none => s.startSnap p step

/-- The snapshot of a step is abandoned (R253, R254, R274). -/
def State.abandonSnap (s : State) (p : Nat) (step : Step) : State :=
  match (s.snap p).job with
  | some j =>
    if j.step ≠ step ∨ j.abandoned then s
    else
      ((s.dropSnap p j.slot).modSnap p (fun x => { x with state := 0, job := some { j with abandoned := true, slot := none } })).raise 78
        .snapAbandoned [p, step.toNat]
  | none => s

/-- Pieces of 4 KiB with their offsets in 4 KiB units. -/
def pieces4k (b : List Byte) : List (Nat × List Byte) :=
  (chunks shardAlign b.length b).zipIdx.map (fun x => (x.2, x.1))

/-- SNAP packets of one shard or of the manifest to the twin. -/
def State.sendSnap (s : State) (p midx : Nat) (step : Step) (b : List Byte) : State :=
  match s.twinRank with
  | none => s
  | some r => overAll (pieces4k b) (fun x u => u.sendSeal p (BitVec.ofNat 14 r) step (.snap midx x.1 x.2)) s

/-- The ring copy ends on a write error: its slot is freed, and the twin copy goes on (R274). -/
def State.ringWrite (s : State) (p : Nat) (j : SnapJob) (off : Nat) (b : List Byte) : State × SnapJob :=
  match s.ringRec p, j.slot with
  | some r, some i =>
    let w := s.write .snapshot (ringAddr r i off) b
    match w.2 with
    | none => (w.1, j)
    | some _ => (w.1.dropSnap p (some i), { j with slot := none })
  | _, some i => (s.dropSnap p (some i), { j with slot := none })
  | _, none => (s, j)

/-- Bytes of the tap's buffer (R253). -/
def tapBuffer : Nat := 64 * 2 ^ 20

/-- The buffer is full: what waits there for port T fills it (entry 161). -/
def State.tapFull (s : State) : Bool :=
  decide (tapBuffer ≤ (s.port portT).pay.foldl (fun n k => match k.body with
    | .snap _ _ d => n + d.length
    | _ => n) 0)

/-- The write-back of an update waits for the buffer: its snapshot goes to the twin, and FULL says WAIT (R253). -/
def State.tapWaits (s : State) (p : Nat) (step : Step) : Bool :=
  s.snapStep p step && s.snapRuns && s.tapFull && !((s.snap p).inForce step).2 &&
    (match (s.snap p).job with
     | some j => if j.step = step then j.toTwin && !j.abandoned else s.twinUp
     | none => s.twinUp)

/-- One shard of a snapshot passes the tap: it goes to the ring slot and to the twin, and joins the manifest. -/
def State.tapShard (s : State) (p : Nat) (step : Step) (kind : Nat) (bid : BitVec 20) (b : List Byte) : State :=
  let t := s.snapFor p step
  match (t.snap p).job with
  | none => t
  | some j =>
    if j.abandoned then t
    else if j.toTwin && t.tapFull && ((t.snap p).inForce step).2 then t.abandonSnap p step
    else
      let e : ShardEnt := { kind := kind, bid := bid, len := b.length, soff := j.nextOff
                            digest := shardDigest step t.lnk.rank.toNat kind bid.toNat b }
      let w := t.ringWrite p j j.nextOff b
      let j := { w.2 with shards := j.shards ++ [e], nextOff := ceilTo (j.nextOff + b.length) shardAlign }
      let u := w.1.modSnap p (fun x => { x with job := some j })
      if j.toTwin then u.sendSnap p (j.shards.length - 1) step b else u

/-- The manifest of a finished snapshot (R255). -/
def State.manifestFor (s : State) (p : Nat) (j : SnapJob) : Manifest :=
  { step := j.step, rank := s.lnk.rank, coord := s.ownCoord, part := p, k := ((s.snap p).inForce j.step).1.toNat
    time := s.hkp.count, rdigest := tget s.rcp.pdigest 0 p, shards := j.shards }

/-- The manifest is written last (R256). -/
def State.closeSnap (s : State) (p : Nat) (step : Step) : State :=
  match (s.snap p).job with
  | none => s
  | some j =>
    if j.step ≠ step ∨ j.abandoned then s
    else
      let m := s.manifestFor p j
      let b := manifestBytes m
      let w := s.ringWrite p j 0 b
      let t := w.1.modSnap p (fun x =>
        { (match w.2.slot with
            | some i => x.setRing i { step := step, used := true, manifest := some m }
            | none => x) with state := 2, taken := step, job := some w.2 })
      if j.toTwin then t.sendSnap p midxManifest step b else t

/-! ## A drain migration's copy (R268) -/

/-- A piece of a PEER fill goes out to a coordinate. -/
def State.sendFill (s : State) (p : Nat) (dst dcoord : BitVec 14) (step : Step) (repoch : BitVec 16) (midx : Nat) (b : List Byte) :
    State :=
  let n := s.sealRack p
  let t := overAll (pieces4k b) (fun x u => u.sendTo n p dst dcoord step (.fill repoch midx x.1 x.2)) s
  if midx = midxManifest then t else t.sendTo n p dst dcoord step (.fillEnd repoch midx b.length false)

/-- The migration whose last step this is. -/
def State.drainOf (s : State) (p : Nat) (step : Step) : Option Migration :=
  (s.recov p).migration.filter (fun m => m.drain && m.m == step && !m.handedOver)

/-- Elements of a bucket (08_training_step.md R164). -/
def bktElems (b : BucketRec) : Nat := 2048 * b.nseg

/-- An update's write-back passes the tap: of a snapshot step, and of a drain migration's last step (R251, R268). -/
def State.tapUpdate (s : State) (p : Nat) (step : Step) (bid : BitVec 20) (mw : Bool) (master : List Nat) (state : List (List Nat)) :
    State :=
  let b := shardStream mw master state
  let t := if s.snapStep p step && s.snapRuns then s.tapShard p step kBucketShard bid b else s
  match t.drainOf p step with
  | none => t
  | some m =>
    let q := (t.recov p)
    let e : ShardEnt := { kind := kBucketShard, bid := bid, len := b.length, soff := 0
                          digest := shardDigest step t.lnk.rank.toNat kBucketShard bid.toNat b }
    (t.setRecov p { q with sent := q.sent ++ [e] }).sendFill p t.lnk.rank m.spare step q.repoch q.sent.length b

/-! ## At a seal (R254) -/

/-- A Ledger entry of the partition's layers reads uncorrectable (07_precision_steering.md R138). -/
def State.captureErr (s : State) (p : Nat) : Bool :=
  ((s.slice p).map (fun c => s.gov.errs.any (fun i => inLayers c.part i))).getD false

/-- The schedule shard of a snapshot step is captured, and the manifest closes it; a read error abandons the snapshot. -/
def State.snapSeal (s : State) (p : Nat) (step : Step) : State :=
  if s.snapStep p step && s.snapRuns then
    let x := s.captureSched p (step + 1)
    if s.captureErr p then (s.snapFor p step).abandonSnap p step
    else (s.tapShard p step kSchedShard 0 (schedBytes x)).closeSnap p step
  else s

/-- The stream entries of a HANDOVER: stream, last epoch and LIMIT (R262). -/
def State.handoverOf (s : State) (p : Nat) : List (BitVec 16 × BitVec 16 × BitVec 32) :=
  (s.racksOf p).map (fun n => ((s.rack n).stream.id, (s.rack n).stream.epoch, (s.rack n).stream.txseq - 1))

/-- At SEAL(M) of a drain migration: the schedule shard, the manifest, then HANDOVER (R268). -/
def State.drainSeal (s : State) (p : Nat) (step : Step) : State :=
  match s.drainOf p step with
  | none => s
  | some m =>
    let q := s.recov p
    let b := schedBytes (s.captureSched p (step + 1))
    let e : ShardEnt := { kind := kSchedShard, bid := 0, len := b.length, soff := 0
                          digest := shardDigest step s.lnk.rank.toNat kSchedShard 0 b }
    let man : Manifest := { s.manifestFor p { step := step, slot := none, toTwin := false, nextOff := 0, shards := q.sent ++ [e] } with step := step }
    let t := s.sendFill p s.lnk.rank m.spare step q.repoch q.sent.length b
    let t := t.sendFill p t.lnk.rank m.spare step q.repoch midxManifest (manifestBytes man)
    let n := t.sealRack p
    let t := t.sendTo n p t.lnk.rank m.spare step (.handover
      ((t.handoverOf p).map (fun h => if h.1 = (t.rack n).stream.id then (h.1, h.2.1, h.2.2 + 1) else h)))
    t.modRecov p (fun y => { y with sent := [], migration := some { m with handedOver := true } })

end Sys2Proof.Machine
end

