-- ==== Sys2Proof/Machine/Kneader.lean ====
section
/-! DEFINITION. The Kneader (09_kneader.md R177 to R201): admission, scale agreement, release, the port adders and their
checksums, replays, the update engines, and parameters out and in with their adoption (08_training_step.md R163 to R167). -/

namespace Sys2Proof.Machine

/-! ## Where a bucket's traffic goes (R177 to R181) -/

/-- Route number j of a route set, taken modulo its routes (R178). -/
def routeOf (r : RouteSet) (j : Nat) : Route :=
  r.routes.getD (j % max 1 r.routes.length) { parent := none, parentRank := 0, children := [] }

/-- Child ports with their ranks, in ascending port number (R179). -/
def childPorts (r : Route) : List (Nat × Nat) := (List.range 8).flatMap (fun n => r.children.filter (fun c => c.1 == n))

/-- A bucket with its partition, its record and its route set. -/
structure KndCtx where
  p : Nat
  b : BucketRec
  r : RouteSet
  deriving DecidableEq, Repr

def State.kndCtx (s : State) (bid : BitVec 20) : Option KndCtx :=
  match s.bucketOf bid with
  | none => none
  | some (p, b) => (s.routeSet p b.rset).map (fun r => { p := p, b := b, r := r })

/-- The bucket of a word, of a step that is not sealed (R186, R201). -/
def State.openCtx (s : State) (bid : BitVec 20) (step : Step) : Option KndCtx :=
  (s.kndCtx bid).filter (fun c => newer step (s.part c.p).lastSeal)

def State.isOwner (s : State) (c : KndCtx) : Bool := s.lnk.rank.toNat == c.b.owner

/-- The Kneader works for a partition: it runs, or is halted and ends what it started (15_recipes.md R308); a fenced device
does nothing (13_recovery.md R260). -/
def State.kneads (s : State) (c : KndCtx) : Bool :=
  ((s.part c.p).state == .run || (s.part c.p).state == .halted) && !s.dev.fenced

/-- Sends a word of a bucket to every child of a route. -/
def State.sendDown (s : State) (c : KndCtx) (j : Nat) (step : Step) (body : Body) : State :=
  overAll (childPorts (routeOf c.r j)) (fun x u => u.sendBkt c.p c.b x.2 step body) s

/-- Sends a word of a bucket to the parent of a route. -/
def State.sendUp (s : State) (c : KndCtx) (j : Nat) (step : Step) (body : Body) : State :=
  s.sendBkt c.p c.b (routeOf c.r j).parentRank step body

/-- The latest word of a kind from a rank (12_links_and_ordering.md R242). -/
def State.childWord (s : State) (kind : Nat) (bid : BitVec 20) (step : Step) (rank : Nat) : Option Body :=
  (s.knd.words.find? (fun k => wordKind k.body == kind && k.bucket == bid && k.step == step && k.src.toNat == rank)).map
    (fun k => k.body)

/-- Keeps a child's word in place of an earlier one. -/
def State.keepChild (s : State) (k : Packet) : State :=
  let same := fun (x : Packet) => sameWord x k && x.src == k.src
  { s with knd := { s.knd with words := s.knd.words.filter (fun x => !same x) ++ [k] } }

/-- The words of a kind from every child of route 0; none while one is missing (R181). -/
def State.childWords (s : State) (c : KndCtx) (kind : Nat) (step : Step) : Option (List Body) :=
  (childPorts (routeOf c.r 0)).mapM (fun x => s.childWord kind c.b.bid step x.2)

/-! ## Phase accounts (08_training_step.md R172) -/

/-- An engine starts an update of a step. -/
def PhaseAcc.updStart (x : PhaseAcc) (now : Nat) : PhaseAcc :=
  { x with updN := x.updN + 1, updSince := if x.updN = 0 then now else x.updSince }

/-- An engine's update of a step ends; the part after the last backward operation is not exposed exchange. -/
def PhaseAcc.updEnd (x : PhaseAcc) (now : Nat) : PhaseAcc :=
  if x.updN = 1 then
    { x with updN := 0, upd := x.upd + (now - x.updSince)
             updExposed := x.updExposed + (now - max x.updSince x.lastBwd) }
  else { x with updN := x.updN - 1 }

/-! ## Scale agreement (R182, R183) -/

/-- Admission slots of a device, and bytes of an engine's segment buffer (R182, R192). -/
def admitMax : Nat := 16
def engineBuffer : Nat := 128 * 2 ^ 20

/-- Buckets that hold an admission slot. -/
def State.admitted (s : State) : Nat := (s.knd.bkts.filter (fun b => b.admitted && !b.committed)).length

/-- A bucket's sums wait in its engine's buffer. -/
def Bkt.buffers (b : Bkt) : Bool :=
  match b.own with
  | .agreeing | .summing | .replaying | .updating | .failed => true
  | _ => false

/-- The owner record of a bucket in a partition. -/
def State.ownerRec (s : State) (p : Nat) (bid : BitVec 20) : Option OwnerRec :=
  (s.slice p).bind (fun c => c.owners.find? (fun o => o.bid == bid))

/-- Bytes in use in an engine's segment buffer. -/
def State.bufferUsed (s : State) (eng : Nat) : Nat :=
  (s.knd.bkts.filter Bkt.buffers).foldl (fun n b =>
    match s.bucketOf b.bid with
    | some (p, r) => if (s.ownerRec p b.bid).any (fun o => o.eng == eng) then n + 4096 * r.nseg else n
    | none => n) 0

/-- The owner has room for a bucket; a device that does not own it needs none. -/
def State.bufferRoom (s : State) (c : KndCtx) : Bool :=
  match s.ownerRec c.p c.b.bid with
  | some o => !s.isOwner c || decide (s.bufferUsed o.eng + 4096 * c.b.nseg ≤ engineBuffer)
  | none => true

/-- Clamps a scale exponent (R183). -/
def clampScale (e : Int) : Int := if e < -170 then -170 else if 127 < e then 127 else e

/-- s of tight mode from the combined maximum. -/
def scaleTight (a : BitVec 32) (g : Nat) : Int :=
  let m := (fp32.decode a.toNat).mag
  if m.1 = 0 then -170 else clampScale (floorLog2 m.1 1 m.2 - 14 + g)

/-- s of bound mode from the combined sum and count. -/
def scaleBound (sum : BitVec 64) (n : Nat) : Int :=
  let m := (fp64.decode sum.toNat).mag
  if m.1 = 0 then -170 else clampScale (ceilLog2 m.1 (32767 - n) m.2)

/-- FP64 sum of magnitudes rounded toward +infinity (R181). -/
def addUp (a b : BitVec 64) : BitVec 64 :=
  let m := ((fp64.decode a.toNat).add (fp64.decode b.toNat)).mag
  BitVec.ofNat 64 (fp64.roundUp m.1 1 m.2)

/-- An FP32 magnitude as FP64. -/
def widen64 (a : BitVec 32) : BitVec 64 := BitVec.ofNat 64 (fp64.rne false (fp32.decode a.toNat))

/-- AMAX words combined: max, sum and count. -/
def joinAmax (a : BitVec 32 × BitVec 64 × Nat) : Body → BitVec 32 × BitVec 64 × Nat
  | .amax m t n => (maxBits a.1 m, addUp a.2.1 t, a.2.2 + n)
  | _ => a

/-! ## Release (R190, 08_training_step.md R163, 02_number_formats.md R44) -/

/-- Elements of a segment (R180). -/
def segElems : Nat := 2048

/-- Codes of a segment read from 4,096 bytes. -/
def segCodes (b : List Byte) : List (BitVec 16) := (unpackBits 16 segElems b).map (BitVec.ofNat 16)

/-- C of R187 over G16 codes. -/
def checksum (l : List (BitVec 16)) : BitVec 32 :=
  l.zipIdx.foldl (fun c x => c + BitVec.ofNat 32 (2 * x.2 + 1) * x.1.signExtend 32) 0

/-- The Sieve's counts of a release's elements: no blocks, saturated and flushed codes, and a histogram against the
largest code. -/
def g16Meter (sc : Int) (l : List (Num × Nat × Bool)) : Meter :=
  let v := l.map (fun x => x.1)
  { amax := finiteMax v, elems := l.length, flush := (l.filter (fun x => x.1.live && x.2.1 == 0)).length
    sat := (l.filter (fun x => x.2.2)).length, hist := histOf (fmtOf 0xD) (1, sc) v }

/-- What the conversion of one layer's elements adds and raises (R37, R107). -/
def State.releaseLayer (s : State) (c : KndCtx) (step : Step) (sc : Int) (l : List (Num × Nat × Bool)) (m : LayerMap) : State :=
  let x := (l.drop m.moff).take (m.o * m.i)
  let t := s.measure c.b.rrack.val (ledgerIx m.layer 7) step (g16Meter sc x)
  if x.any (fun y => match y.1 with
      | .fin .. => false
      | _ => true) then t.raise c.b.rrack.val .nonfiniteGrad [m.layer, c.b.bid.toNat, step.toNat]
  else t

/-- The output converter of the release rack converts the accumulation region and writes the retained region; none where an
access is refused, and the bucket then stalls. -/
def State.convertG16 (s : State) (c : KndCtx) (step : Step) (sc : Int) : State × Option (List (BitVec 16)) :=
  let n := c.b.rrack.val
  let r := s.read (.rack n) c.b.acc (4 * bktElems c.b)
  match r.2 with
  | .error _ => (r.1, none)
  | .ok b =>
    let st := (r.1.rack n).stream
    let d := takeDraws ((unpackBits 32 (bktElems c.b) b).map fp32.decode) (st.genOut, st.drawHalf)
    let l := d.1.map (fun x => (x.1, g16Conv sc (x.2.getD 0) x.1))
    let t := r.1.modStream n (fun y => { y with genOut := d.2.1, drawHalf := d.2.2 })
    let t := overAll (t.layersOf c.p c.b.bid) (fun m u => u.releaseLayer c step sc l m) t
    let w := t.write (.rack n) c.b.gret (packBits 16 (l.map (fun x => x.2.1)))
    (w.1, if w.2.isSome then none else some (l.map (fun x => BitVec.ofNat 16 x.2.1)))

/-! ## The port adders (R179, R185 to R188) -/

/-- One element's sum: clamped to ±32,767, and whether it saturated. -/
def g16Add (a b : BitVec 16) : BitVec 16 × Bool :=
  let z := a.toInt + b.toInt
  if z < -32767 then (BitVec.ofInt 16 (-32767), true) else if 32767 < z then (32767, true) else (BitVec.ofInt 16 z, false)

/-- A segment's sum, and whether any element saturated. -/
def segAdd (a b : List (BitVec 16)) : List (BitVec 16) × Bool :=
  let l := List.zipWith g16Add a b
  (l.map (fun x => x.1), l.any (fun x => x.2))

/-- A slot's key is its step, bucket, segment and attempt (R186). -/
def AddSlot.same (a : AddSlot) (bid : BitVec 20) (step : Step) (seg attempt : Nat) : Bool :=
  a.bid == bid && a.step == step && a.seg == seg && a.attempt == attempt

/-- A segment's adder slot. -/
def State.addSlot (s : State) (bid : BitVec 20) (step : Step) (seg attempt : Nat) : AddSlot :=
  (s.knd.adders.find? (fun a => a.same bid step seg attempt)).getD { bid := bid, step := step, seg := seg, attempt := attempt }

def State.setAdd (s : State) (v : AddSlot) : State :=
  { s with knd := { s.knd with adders := s.knd.adders.filter (fun a => !a.same v.bid v.step v.seg v.attempt) ++ [v] } }

def State.freeAdd (s : State) (bid : BitVec 20) (step : Step) (seg attempt : Nat) : State :=
  { s with knd := { s.knd with adders := s.knd.adders.filter (fun a => !a.same bid step seg attempt) } }

/-- Slots of a bucket that one port's adder gives it (R185). -/
def portSlots : Nat := 4

/-- Slots that a bucket at a step holds at a port: segments that have come there and have not left. -/
def State.slotsUsed (s : State) (bid : BitVec 20) (step : Step) (port : Nat) : Nat :=
  (s.knd.adders.filter (fun a => a.bid == bid && a.step == step && a.done.isNone && (tfind a.arrived port).isSome)).length

/-- Frees every slot of a bucket at a step. -/
def State.freeAdds (s : State) (bid : BitVec 20) (step : Step) : State :=
  { s with knd := { s.knd with adders := s.knd.adders.filter (fun a => !(a.bid == bid && a.step == step)) } }

/-- Frees the slots of lower attempts (R186, R190). -/
def State.freeLower (s : State) (bid : BitVec 20) (step : Step) (attempt : Nat) : State :=
  { s with knd := { s.knd with adders := s.knd.adders.filter (fun a => !(a.bid == bid && a.step == step && decide (a.attempt < attempt))) } }

/-- The current attempt rises: slots, sums and checks of the lower attempts are gone (R186, R189). -/
def State.raiseAttempt (s : State) (c : KndCtx) (step : Step) (a : Nat) : State :=
  (s.freeLower c.b.bid step a).modBkt c.b.bid step (fun k => { k with attempt := a, verified := [], sums := [], voids := 0 })

/-- The sum of a segment through the child ports in ascending number: the running sum, whether it saturated, and the port
counts (R179, R202). -/
def State.sumPorts (s : State) (a : AddSlot) : List (Nat × Nat) → List (BitVec 16) × Bool → State × List (BitVec 16) × Bool
  | [], x => (s, x)
  | (port, _) :: rest, x =>
    let y := segAdd x.1 (tget a.arrived [] port)
    let t := s.modKndPort port (fun q => { q with segs := q.segs + 1, sats := if y.2 then satAdd q.sats 1 else q.sats })
    t.sumPorts a rest (y.1, x.2 || y.2)

/-- The causes of a replay (R189). -/
inductive ReplayCause where
  | void | checksum | route
  deriving DecidableEq, Repr

def ReplayCause.code : ReplayCause → Nat
  | .void => 0 | .checksum => 1 | .route => 2

/-- Island of an update engine (R192). -/
def engIsland (eng : Nat) : Nat := 76 + eng % 2

/-- A bucket fails: no parameters are sent for it (R191). -/
def State.failBucket (s : State) (c : KndCtx) (step : Step) (code : BitVec 3) : State :=
  let e := ((s.ownerRec c.p c.b.bid).map (fun o => o.eng)).getD 0
  (((s.modBkt c.b.bid step (fun k => { k with own := .failed })).kndError code step c.b.bid).raise (engIsland e) .bucketFail
    [step.toNat, c.b.bid.toNat])

/-- The scale of a replay (R189). -/
def replayScale (k : Bkt) (cause : ReplayCause) : Int × Bool :=
  if cause = .void then
    if k.bound = false ∧ k.attempt < 3 then (clampScale (k.s + 2), false)
    else ((k.amax0.map (fun a => scaleBound a.2.1 a.2.2)).getD k.s, true)
  else (k.s, k.bound)

/-- The next attempt of a bucket at its owner, or its failure. -/
def State.startReplay (s : State) (c : KndCtx) (step : Step) (cause : ReplayCause) : State × Bool :=
  let k := s.bkt c.b.bid step
  if cause = .checksum ∧ 2 ≤ k.csReplays then (s.failBucket c step 2, false)
  else if 7 ≤ k.attempt then (s.failBucket c step 1, false)
  else
    let x := replayScale k cause
    let e := ((s.ownerRec c.p c.b.bid).map (fun o => o.eng)).getD 0
    let t := s.raiseAttempt c step (k.attempt + 1)
    let t := t.modBkt c.b.bid step (fun y =>
      { y with s := x.1, bound := x.2, own := .replaying, csReplays := if cause = .checksum then y.csReplays + 1 else y.csReplays })
    let t := t.modPhase c.p step (fun y => { y with replays := y.replays + 1, replayed := true })
    let t := t.raise (engIsland e) .kndReplay [step.toNat, c.b.bid.toNat, k.attempt + 1, cause.code]
    (t.sendDown c 0 step (.replay (k.attempt + 1) x.1 x.2), true)

/-- The accesses of an update engine for a partition. -/
def engWho (p : Nat) (o : OwnerRec) : Who := .agent .updateEngine o.eng p

/-- Address of the schedule entry of a step (R194). -/
def State.schedAddr (s : State) (p : Nat) (o : OwnerRec) (step : Step) : Option Nat :=
  ((s.slice p).bind (fun c => c.scheds.find? (fun x => x.sched == o.sched))).map (fun x =>
    x.base + 64 * ((step - s.firstStep p).toNat % max 1 x.len))

/-- The update ends. -/
def State.endUpdate (s : State) (c : KndCtx) (step : Step) : State := s.modPhase c.p step (fun x => x.updEnd s.hkp.count)

/-- A read of generation A, of its state or of the schedule was uncorrectable or refused (R201). -/
def State.failRead (s : State) (c : KndCtx) (step : Step) : State := (s.endUpdate c step).failBucket c step 3

/-- The engine reads the schedule entry of the step (R194) and the sixteen constants (R195), once, as the update starts. -/
def State.readSched (s : State) (c : KndCtx) (step : Step) : State :=
  match (s.ownerRec c.p c.b.bid).bind (fun o => (s.schedAddr c.p o step).map (fun a => (o, a))) with
  | none => s
  | some (o, a) =>
    let r := s.read (engWho c.p o) a 64
    match r.2 with
    | .error _ => r.1.failRead c step
    | .ok b =>
      let q := r.1.read (engWho c.p o) o.const 64
      match q.2 with
      | .error _ => q.1.failRead c step
      | .ok v => q.1.modBkt c.b.bid step (fun k => { k with sched := unpackBits 32 16 b, consts := unpackBits 32 16 v })

/-- Every segment of the current attempt has verified: the update starts (R193, 08_training_step.md R165). -/
def State.updateStart (s : State) (c : KndCtx) (step : Step) : State :=
  let k := s.bkt c.b.bid step
  if (k.own != .summing && k.own != .replaying) || k.verified.length < c.b.nseg then s
  else ((s.modBkt c.b.bid step (fun k => { k with own := .updating })).modPhase c.p step (fun x => x.updStart s.hkp.count)).readSched c step

/-- What a segment's checks give. -/
inductive SegOutcome where
  | none
  | verified
  | replay (cause : ReplayCause)
  deriving DecidableEq, Repr

/-- A CSUM word of a segment is whole here: it is forwarded, or it verifies the sum at the owner (R187, R188). -/
def State.advanceCsum (s : State) (c : KndCtx) (step : Step) (seg : Nat) : State × SegOutcome :=
  let k := s.bkt c.b.bid step
  let a := s.addSlot c.b.bid step seg k.attempt
  let ports := childPorts (routeOf c.r seg)
  match a.done with
  | none => (s, .none)
  | some sat =>
    if !ports.all (fun x => (tfind a.csums x.1).isSome) then (s, .none)
    else
      let sum := ports.foldl (fun z x => z + (tget a.csums (0, false) x.1).1) (k.checks.getD seg 0)
      let void := ports.foldl (fun z x => z || (tget a.csums (0, false) x.1).2) sat
      let t := s.freeAdd c.b.bid step seg k.attempt
      if !s.isOwner c then
        ((t.modBkt c.b.bid step (fun y => { y with verified := y.verified ++ [seg] })).sendUp c seg step
          (.csum seg k.attempt sum void), .none)
      else if void then (t.modBkt c.b.bid step (fun y => { y with voids := satAdd y.voids 1 }), .replay .void)
      else if checksum (tget k.sums [] seg) != sum then (t, .replay .checksum)
      else (t.modBkt c.b.bid step (fun y => { y with verified := y.verified ++ [seg] }), .verified)

/-- The local contribution, read from the retained region by the port. A refused read gives a bucket replay (R211): the segment goes
on as zeros beside a check word that they do not meet, so that the owner finds it wrong (R188; entry 160). -/
def State.localSeg (s : State) (c : KndCtx) (step : Step) (seg : Nat) : State × List (BitVec 16) :=
  let port := ((routeOf c.r seg).parent).getD 0
  let r := s.read (.agent .receiveGen port c.p) (c.b.gret + 4096 * seg) 4096
  match r.2 with
  | .ok b => (r.1, segCodes b)
  | .error _ =>
    (r.1.modBkt c.b.bid step (fun k => { k with checks := k.checks.set seg 1 }), List.replicate segElems 0)

/-- A segment whose local contribution and children are all here is summed and leaves (R179). -/
def State.advanceSeg (s : State) (c : KndCtx) (step : Step) (seg : Nat) : State × SegOutcome :=
  let k := s.bkt c.b.bid step
  let a := s.addSlot c.b.bid step seg k.attempt
  let ports := childPorts (routeOf c.r seg)
  if !k.released || k.relAttempt != k.attempt || k.verified.contains seg || c.b.nseg ≤ seg then (s, .none)
  else if a.done.isSome then s.advanceCsum c step seg
  else if !ports.all (fun x => (tfind a.arrived x.1).isSome) then (s, .none)
  else
    let l := s.localSeg c step seg
    let z := l.1.sumPorts a ports (l.2, false)
    let t := z.1.setAdd { a with arrived := [], done := some z.2.2 }
    let t := if s.isOwner c then t.modBkt c.b.bid step (fun y => { y with sums := tput (terase y.sums seg) seg z.2.1 })
      else t.sendUp c seg step (.gseg seg k.attempt (seg % max 1 c.r.routes.length) z.2.1)
    t.advanceCsum c step seg

/-- Advances segments until one fails its checks. -/
def State.advanceSegs (s : State) (c : KndCtx) (step : Step) : List Nat → State × SegOutcome
  | [] => (s, .none)
  | j :: rest =>
    let r := s.advanceSeg c step j
    match r.2 with
    | .replay x => (r.1, .replay x)
    | _ => r.1.advanceSegs c step rest

/-- A device releases a bucket under a scale: its slots of lower attempts are free, the region is converted, and every
segment is sent in ascending order (R184, R190). -/
def State.releaseOnce (s : State) (c : KndCtx) (step : Step) : State × SegOutcome :=
  let k := s.bkt c.b.bid step
  let r := s.convertG16 c step k.s
  match r.2 with
  | none => (r.1.modBkt c.b.bid step (fun y => { y with released := false }), .none)
  | some codes =>
    let segs := chunks segElems c.b.nseg codes
    let t := r.1.modBkt c.b.bid step (fun y =>
      { y with released := true, relAttempt := k.attempt, scaled := true, checks := segs.map checksum })
    t.advanceSegs c step (List.range c.b.nseg)

/-- Attempts of a bucket (R189). -/
def attempts : Nat := 8

/-- A failed segment at the owner leads to a replay, whose own release may fail again; otherwise the update starts once all
have verified. -/
def State.settle (s : State) (c : KndCtx) (step : Step) : Nat → SegOutcome → State
  | 0, _ => s
  | n + 1, .replay cause =>
    let r := s.startReplay c step cause
    if r.2 then
      let t := r.1.releaseOnce c step
      t.1.settle c step n t.2
    else r.1
  | _ + 1, _ => if s.isOwner c then s.updateStart c step else s

/-- Releases and settles what follows. -/
def State.release (s : State) (c : KndCtx) (step : Step) : State :=
  let t := s.releaseOnce c step
  t.1.settle c step attempts t.2

/-! ## ADMISSION (R182) and AMAX (R183) -/

/-- AMAX words go up once this device and every child have given theirs; the owner agrees the scale and sends SCALE with
attempt 0. -/
def State.advanceAmax (s : State) (c : KndCtx) (step : Step) : State :=
  let k := s.bkt c.b.bid step
  match s.childWords c 1 step with
  | none => s
  | some l =>
    if !k.admitted || k.amaxSent then s
    else
      let a := l.foldl joinAmax (k.amax, widen64 k.amax, 1)
      let t := s.modBkt c.b.bid step (fun y => { y with amaxSent := true })
      if !s.isOwner c then t.sendUp c 0 step (.amax a.1 a.2.1 a.2.2)
      else
        match s.ownerRec c.p c.b.bid with
        | none => t
        | some o =>
          let sc := if o.bound then scaleBound a.2.1 a.2.2 else scaleTight a.1 o.guardBits
          let t := t.modBkt c.b.bid step (fun y => { y with own := .summing, s := sc, bound := o.bound, amax0 := some a })
          (t.sendDown c 0 step (.scale 0 sc o.bound)).release c step

/-- A bucket may be admitted: complete, releasable, a slot free, and room in the owner's engine. -/
def State.mayAdmit (s : State) (c : KndCtx) (step : Step) : Bool :=
  let k := s.bkt c.b.bid step
  (s.part c.p).state == .run && !(s.part c.p).halting && s.kneads c && k.complete && !k.admitted && !k.committed &&
    !newer (step - 1) (s.part c.p).lastSeal && decide (s.admitted < admitMax) && s.bufferRoom c

/-- ADMISSION: the bucket takes a slot and its AMAX word is formed. -/
def State.admission (s : State) (bid : BitVec 20) (step : Step) : State :=
  match s.openCtx bid step with
  | none => s
  | some c =>
    if !s.mayAdmit c step then s
    else
      let t := s.modBkt bid step (fun k => { k with admitted := true, own := if s.isOwner c then .agreeing else k.own })
      t.advanceAmax c step

def execAdmission (bid : BitVec 20) (step : Step) (s : State) : Host.Outcome State Fault Refusal :=
  .next (s.admission bid step)

/-- A word of a bucket whose step is open: its row works on the context. -/
def State.onBucket (t : State) (k : Packet) (f : State → KndCtx → State) : State :=
  match t.openCtx k.bucket k.step with
  | some c => if t.kneads c then f t c else t
  | none => t

/-- AMAX: a child's word joins. -/
def State.amaxWord (s : State) (k : Packet) : State :=
  match k.body with
  | .amax .. => s.onBucket k (fun t c => (t.keepChild k).advanceAmax c k.step)
  | _ => s

def execAmax (k : Packet) (s : State) : Host.Outcome State Fault Refusal := .next (s.word k (· matches .amax ..) (fun t => t.amaxWord k))

/-! ## SCALE and REPLAY (R184, R190) -/

/-- A scale reaches a device: it is copied to every child, and the bucket is released under it. One of a lower attempt than the current
is copied alone (R181); one of an attempt already released has been. -/
def State.takeScale (s : State) (c : KndCtx) (step : Step) (attempt : Nat) (sc : Int) (bound : Bool) (copy : Body) : State :=
  let k := s.bkt c.b.bid step
  if s.isOwner c || !k.admitted || k.committed || (k.released && k.relAttempt == attempt) then s
  else if attempt < k.attempt then s.sendDown c 0 step copy
  else
    let t := s.sendDown c 0 step copy
    let t := if k.attempt < attempt then t.raiseAttempt c step attempt else t
    (t.modBkt c.b.bid step (fun y => { y with s := sc, bound := bound })).release c step

/-- SCALE: the bucket is released under the agreed s. -/
def State.scaleWord (s : State) (k : Packet) : State :=
  match k.body with
  | .scale a sc b => s.onBucket k (fun t c => t.takeScale c k.step a sc b k.body)
  | _ => s

def execScale (k : Packet) (s : State) : Host.Outcome State Fault Refusal := .next (s.word k (· matches .scale ..) (fun t => t.scaleWord k))

/-- REPLAY: the bucket is released again under the new s. -/
def State.replayWord (s : State) (k : Packet) : State :=
  match k.body with
  | .replay a sc b => s.onBucket k (fun t c => t.takeScale c k.step a sc b k.body)
  | _ => s

def execReplay (k : Packet) (s : State) : Host.Outcome State Fault Refusal := .next (s.word k (· matches .replay ..) (fun t => t.replayWord k))

/-! ## GSEG (R185, R186) and CSUM (R188) -/

/-- The child port of a segment's route that a rank sends on (12_links_and_ordering.md R240). -/
def childPort (c : KndCtx) (seg : Nat) (src : BitVec 14) : Option Nat :=
  ((childPorts (routeOf c.r seg)).find? (fun x => x.2 == src.toNat)).map (fun x => x.1)

/-- A discarded segment or CSUM word counts at its port. -/
def State.discard (s : State) (port : Nat) : State := s.modKndPort port (fun q => { q with disc := satAdd q.disc 1 })

/-- The device has sealed a step or rolled it back (R186): it stands behind the last seal, or ahead of the newest open step. -/
def State.stepGone (s : State) (p : Nat) (step : Step) : Bool :=
  !newer step (s.part p).lastSeal || !(s.part p).everOpen || newer step (s.part p).openReg

/-- A segment or CSUM word: one of a sealed or rolled-back step or of a lower attempt is discarded (R186). -/
def State.segWord (t : State) (k : Packet) (route attempt : Nat) (f : State → KndCtx → Nat → State) : State :=
  match t.kndCtx k.bucket with
  | none => t
  | some c =>
    match childPort c route k.src with
    | none => t
    | some port =>
      if t.stepGone c.p k.step || decide (attempt < (t.bkt k.bucket k.step).attempt) then t.discard port
      else if !t.kneads c then t
      else f t c port

/-- What a segment's slot has now leads to. -/
def State.advanceSlot (t : State) (c : KndCtx) (step : Step) (seg : Nat) : State :=
  let r := t.advanceSeg c step seg
  r.1.settle c step attempts r.2

/-- GSEG: a segment of a higher attempt raises the current one; it waits in its adder slot until the sum can leave. -/
def State.gsegWord (s : State) (k : Packet) : State :=
  match k.body with
  | .gseg seg a route codes => s.segWord k route a (fun t c port =>
      let t := if (t.bkt k.bucket k.step).attempt < a then t.raiseAttempt c k.step a else t
      let x := t.addSlot k.bucket k.step seg a
      if (t.bkt k.bucket k.step).verified.contains seg || x.done.isSome then t
      else (t.setAdd { x with arrived := tset x.arrived [] port codes }).advanceSlot c k.step seg)
  | _ => s

/-- A segment has a slot at its port, or needs none: the sender holds its credit (R185). -/
def State.segRoom (s : State) (k : Packet) : Bool :=
  match k.body, s.kndCtx k.bucket with
  | .gseg seg a route _, some c =>
    (match childPort c route k.src with
     | none => true
     | some port => s.stepGone c.p k.step || a != (s.bkt k.bucket k.step).attempt || (s.bkt k.bucket k.step).verified.contains seg ||
         decide (s.slotsUsed k.bucket k.step port < portSlots))
  | _, _ => true

/-- GSEG: without a free slot of its bucket at its port a segment waits (entry 48). -/
def execGseg (k : Packet) (s : State) : Host.Outcome State Fault Refusal :=
  .next (if s.segRoom k then s.word k (· matches .gseg ..) (fun t => t.gsegWord k) else s)

/-- CSUM: a checksum word waits for its segment's sum; one of a higher attempt waits for that attempt. -/
def State.csumWord (s : State) (k : Packet) : State :=
  match k.body with
  | .csum seg a sum v => s.segWord k seg a (fun t c port =>
      let x := t.addSlot k.bucket k.step seg a
      if a = (t.bkt k.bucket k.step).attempt ∧ (t.bkt k.bucket k.step).verified.contains seg then t
      else (t.setAdd { x with csums := tput (terase x.csums port) port (sum, v) }).advanceSlot c k.step seg)
  | _ => s

def execCsum (k : Packet) (s : State) : Host.Outcome State Fault Refusal :=
  .next (s.word k (· matches .csum ..) (fun t => t.csumWord k))

/-- ROUTE_CHANGED: the owner replays a bucket in exchange with its present scale (R189, R199). -/
def State.routeChanged (s : State) (k : Packet) : State :=
  match k.body with
  | .routeChanged => s.onBucket k (fun t c =>
      let own := (t.bkt k.bucket k.step).own
      if t.isOwner c && (own == .summing || own == .replaying) then t.settle c k.step attempts (.replay .route) else t)
  | _ => s

def execRouteChanged (k : Packet) (s : State) : Host.Outcome State Fault Refusal :=
  .next (s.word k (· matches .routeChanged) (fun t => t.routeChanged k))

end Sys2Proof.Machine
end

