-- ==== Sys2Proof/Machine/Update.lean ====
section
/-! DEFINITION. The update engines and the parameters (09_kneader.md R192 to R200): the update program, generations, tiles out
and in, adoption and commit (08_training_step.md R165 to R169), clearance, and the signals that meet it. -/

namespace Sys2Proof.Machine

/-! ## Update programs (R193, R196) -/

/-- The registers of an element, its state words so far, and what WUPD adds. -/
structure UpdSt where
  regs : List Nat
  states : Tab Nat := []
  add : Nat := 0
  deriving DecidableEq, Repr

/-- The value of an operand code, as an FP32 code. -/
def updOperand (const sched : List Nat) (regs : List Nat) (k : Nat) : Nat :=
  if k < 16 then regs.getD k 0 else if k < 32 then const.getD (k - 16) 0 else if k < 48 then sched.getD (k - 32) 0
  else if k = 49 then fp32.one else 0

/-- One instruction. -/
def updInstr (const sched : List Nat) (u : UpdSt) (w : BitVec 32) : UpdSt :=
  let v := fun hi lo => updOperand const sched u.regs (fieldOf w.toNat hi lo)
  let a := v 21 16
  let b := v 15 10
  let c := v 9 4
  let put := fun x => { u with regs := u.regs.set (fieldOf w.toNat 25 22) x }
  let num := fp32.decode
  match fieldOf w.toNat 31 26 with
  | 0x01 => put (fp32.bin Num.add a b)
  | 0x02 => put (fp32.bin (fun x y => x.add y.negate) a b)
  | 0x03 => put (fp32.bin Num.mul a b)
  | 0x04 => put (fp32.rne true (((num a).mul (num b)).add (num c)))
  | 0x05 => put (fp32.quot a b)
  | 0x06 => put (fp32.root a)
  | 0x07 => put (fp32.rsqrtBy (Config.updateUlp (BitVec.ofNat 32 a)) a)
  | 0x08 => put (fp32.least a b)
  | 0x09 => put (fp32.most a b)
  | 0x0A => put (fp32.rne true (num a).magnitude)
  | 0x0B => put (fp32.rne true (num a).negate)
  | 0x0C => put (if (num a).isNaN then fp32.rne true .nan else if (num a).isZero then 0
      else if (num a).lt .zero then fp32.signed true fp32.one else fp32.one)
  | 0x0D => put (fp32.canon (if !(num c).isNaN && Num.zero.lt (num c) then a else b))
  | 0x0E => put (fp32.most b (fp32.least a c))
  | 0x3E => { u with states := tput (terase u.states (fieldOf w.toNat 15 10)) (fieldOf w.toNat 15 10) (fp32.canon a) }
  | 0x3F => { u with add := a }
  | _ => u

/-- The update of one element: its master and state of generation A give those of generation B. -/
def updElem (mf : Fmt) (prog : List (BitVec 32)) (const sched : List Nat) (sc : Int) (k : BitVec 16) (w : Nat) (st : List Nat) :
    Nat × List Nat :=
  let g := fp32.rne true (.fin (k.toInt < 0) k.toInt.natAbs sc)
  let r : UpdSt := { regs := [g, fp32.rne true (mf.decode w)] ++ padTo 4 st ++ List.replicate 10 0 }
  let u := prog.foldl (updInstr const sched) r
  (mf.rne true ((mf.decode w).add (fp32.decode u.add)), (List.range st.length).map (fun j => tget u.states 0 j))

/-! ## Generations (R25, R195) -/

/-- The master format of an owner record. -/
def mastFmt (o : OwnerRec) : Fmt := if o.mw40 then mw40 else fp32

/-- Offset of the low plane of n MW40 elements (02_number_formats.md R25). -/
def lowPlane (n : Nat) : Nat := ceilTo (4 * n) 256

/-- Regions of the generation in a slot. -/
def mastAt (o : OwnerRec) (slot : Nat) : Nat := if slot % 2 = 0 then o.mg0 else o.mg1
def stateAt (o : OwnerRec) (slot j : Nat) : Nat := (if slot % 2 = 0 then o.sg0 else o.sg1) + j * o.spitch

/-- Reads one array after another; none where a read is refused. -/
def State.readAll (s : State) (who : Who) : List (Nat × Nat) → State × Option (List (List Byte))
  | [] => (s, some [])
  | (a, n) :: t =>
    let r := s.read who a n
    match r.2 with
    | .error _ => (r.1, none)
    | .ok b =>
      let q := r.1.readAll who t
      (q.1, q.2.map (fun l => b :: l))

/-- Writes one array after another; false where one is refused. -/
def State.writeAll (s : State) (who : Who) : List (Nat × List Byte) → State × Bool
  | [] => (s, true)
  | (a, b) :: t =>
    let r := s.write who a b
    if r.2.isSome then (r.1, false) else r.1.writeAll who t

/-- Master codes of a slot. -/
def State.readMaster (s : State) (p : Nat) (o : OwnerRec) (slot n : Nat) : State × Option (List Nat) :=
  let a := mastAt o slot
  let r := s.readAll (engWho p o) ((a, 4 * n) :: (if o.mw40 then [(a + lowPlane n, n)] else []))
  (r.1, r.2.map (fun l =>
    let hi := unpackBits 32 n (l.headD [])
    if o.mw40 then List.zipWith (fun h (b : Byte) => h * 256 + b.toNat) hi (l.getD 1 []) else hi))

/-- The arrays of a generation in a slot. -/
def genArrays (o : OwnerRec) (slot n : Nat) (master : List Nat) (st : List (List Nat)) : List (Nat × List Byte) :=
  let a := mastAt o slot
  (if o.mw40 then [(a, packBits 32 (master.map (· / 256))), (a + lowPlane n, master.map (BitVec.ofNat 8))]
    else [(a, packBits 32 master)]) ++ st.zipIdx.map (fun x => (stateAt o slot x.2, packBits 32 x.1))

/-- FP64 sums of (Δw)² and w² over elements, in ascending order (R146, R193). -/
def updateSum (mf : Fmt) (l : List (Nat × Nat)) : BitVec 64 × BitVec 64 :=
  l.foldl (fun a x =>
    let w := mf.decode x.1
    let d := (mf.decode x.2).add w.negate
    let sq := fun (y : Num) => BitVec.ofNat 64 (fp64.rne true (y.mul y))
    (fp64Add a.1 (sq d), fp64Add a.2 (sq w))) (0, 0)

/-- The Governor takes the sums of each layer, tagged with the update's step; those of the layer's other buckets of the step add to
them (07_precision_steering.md R146). -/
def State.giveUwr (s : State) (c : KndCtx) (step : Step) (mf : Fmt) (old new : List Nat) : State :=
  overAll (s.layersOf c.p c.b.bid) (fun m u =>
    let x := updateSum mf (((List.zip old new).drop m.moff).take (m.o * m.i))
    let k := 2 * m.layer + step.toNat % 2
    let y := match tfind u.gov.uwr k with
      | some z => if z.1 = step then (fp64Add z.2.1 x.1, fp64Add z.2.2 x.2) else x
      | none => x
    { u with gov := { u.gov with uwr := tput (terase u.gov.uwr k) k (step, y.1, y.2) } }) s

/-! ## Tiles (R197) -/

/-- Side of a parameter tile. -/
def ptileSide : Nat := 128

/-- Tiles of a layer, and the corner of its t-th tile in row-major order. -/
def tilesAcross (i : Nat) : Nat := (i + ptileSide - 1) / ptileSide
def layerTiles (m : LayerMap) : Nat := tilesAcross m.o * tilesAcross m.i
def tileCorner (m : LayerMap) (t : Nat) : Nat × Nat := (t / tilesAcross m.i * ptileSide, t % tilesAcross m.i * ptileSide)

/-- Rows and columns of the tile at a corner. -/
def tileSize (m : LayerMap) (x : Nat × Nat) : Nat × Nat := (min ptileSide (m.o - x.1), min ptileSide (m.i - x.2))

/-- Every tile of a bucket with its layer and its number within the layer. -/
def bucketTiles (l : List LayerMap) : List (LayerMap × Nat) := l.flatMap (fun m => (List.range (layerTiles m)).map (fun t => (m, t)))

/-- Conversion words of a layer's W (role 0) or WT (role 1) entry for a step. -/
def State.paramWord (s : State) (layer form : Nat) (step : Step) : BitVec 16 := entryCw (s.ledgerEnt (ledgerIx layer form)) step

/-- One form serves both: the words are equal and unscaled. -/
def State.oneForm (s : State) (layer : Nat) (step : Step) : Bool :=
  s.paramWord layer 0 step == s.paramWord layer 1 step && cwScl (s.paramWord layer 0 step) == 0

/-- A word that a parameter may take; an entry with a Ledger error gives none (R138). -/
def State.paramWordOk (s : State) (layer form : Nat) (step : Step) : Bool :=
  !s.gov.errs.contains (ledgerIx layer form) && !wordBad (s.paramWord layer form step)

/-- What a tile's form is sent as, in order: elements row-major, each block scale after the last element of its block, and an FB
tile scale at the end. -/
inductive TileItem where
  | elem (o i : Nat)
  | scale (line block : Nat)
  | tile
  deriving DecidableEq, Repr

def tileItems (form blk ho wi : Nat) (fb : Bool) : List TileItem :=
  (List.range ho).flatMap (fun o => (List.range wi).flatMap (fun i =>
    let pos := if form = 0 then i else o
    let stop := if form = 0 then wi else ho
    .elem o i :: (if blk ≠ 0 ∧ ((pos + 1) % blk = 0 ∨ pos + 1 = stop) then [.scale (if form = 0 then o else i) (pos / blk)] else []))) ++
    (if fb then [.tile] else [])

/-- Width in bits of an item. -/
def itemWidth (width : Nat) : TileItem → Nat
  | .elem _ _ => width
  | .scale _ _ => 8
  | .tile => 32

/-- Values of given widths packed from bit 0 upward. -/
def packItems (l : List (Nat × Nat)) : List Byte :=
  let v := l.foldl (fun (a : Nat × Nat) x => (a.1 ||| (x.2 % 2 ^ x.1) <<< a.2, a.2 + x.1)) (0, 0)
  leBytes ((v.2 + 7) / 8) v.1

/-- The values of items of given widths. -/
def unpackItems (l : List Nat) (b : List Byte) : List Nat :=
  let v := leNat b
  (l.foldl (fun (a : List Nat × Nat) w => (a.1 ++ [v >>> a.2 % 2 ^ w], a.2 + w)) ([], 0)).1

/-- A converted form's values, item by item. -/
def formValues (form blk ho wi : Nat) (fb : Bool) (c : ConvOut) : List Nat :=
  let line := if form = 0 then wi else ho
  let pad := if blk = 0 then line else ceilTo line blk
  (tileItems form blk ho wi fb).map (fun x => match x with
    | .elem o i => if form = 0 then c.codes.getD (o * pad + i) 0 else c.codes.getD (i * pad + o) 0
    | .scale l b => c.scales.getD (l * (pad / blk) + b) 0
    | .tile => c.tiles.headD 0)

def formBytes (w : BitVec 16) (form ho wi : Nat) (c : ConvOut) : List Byte :=
  let blk := blockOf (cwScl w)
  let fb := cwScl w == 2
  packItems (List.zip ((tileItems form blk ho wi fb).map (itemWidth (fmtOf (cwFmt w)).width)) (formValues form blk ho wi fb c))

/-- The generator of an update engine; the manual gives it no seed (entry 31). -/
def State.engGenOf (s : State) (e : Nat) : Gen × State :=
  match tget s.knd.engGen none e with
  | some g => (g, s)
  | none =>
    let f := s.free
    ((f.1.setWidth 32, false), f.2)

/-- Converts one form of a tile and measures it in the layer's record. -/
def State.convertForm (s : State) (p : Nat) (o : OwnerRec) (mf : Fmt) (codes : List Nat) (m : LayerMap) (t form : Nat) (pstep : Step) :
    State × List Byte :=
  let x := tileCorner m t
  let z := tileSize m x
  let at_ := fun r k => mf.decode (codes.getD (m.moff + (x.1 + r) * m.i + x.2 + k) 0)
  let lines := if form = 0 then (List.range z.1).map (fun r => (List.range z.2).map (at_ r))
    else (List.range z.2).map (fun k => (List.range z.1).map (fun r => at_ r k))
  let w := s.paramWord m.layer form pstep
  let g := s.engGenOf o.eng
  let i := ledgerIx m.layer form
  let c := convertLines w form (entryCamax (s.ledgerEnt i) pstep) lines g.1
  let u := { g.2 with knd := { g.2.knd with engGen := tset g.2.knd.engGen none o.eng (some c.gen) } }
  (u.mergeStat p i (c.meter.line pstep), formBytes w form z.1 z.2 c)

/-! ## Tiles in (R198, R199) -/

/-- Where element n of a receive program lies, with its scale and tile-scale addresses. -/
def progElem (q : Prog) (width blk n : Nat) : Option (Nat × Nat × Nat) :=
  let r := q.runAt width (q.indices (n / q.run))
  let k := n % q.run
  r.elem.map (fun a => (a + k * width / 8, r.scale + (if blk = 0 then 0 else k / blk), r.tile))

/-- Pieces that a form's values write: in stager order of W (0) or WT (1), by blocks or by elements. Each line of a block-scaled form holds
whole blocks, the last one filled up with +0 (02_number_formats.md R26). -/
def formPieces (q : Prog) (par width blk : Nat) (m : LayerMap) (corner : Nat × Nat) (order : Nat) (items : List (TileItem × Nat)) :
    List (Nat × List Byte) :=
  let q := q.from par
  let line := fun n => if blk = 0 then n else ceilTo n blk
  let index := fun o i => if order = 0 then (corner.1 + o) * line m.i + corner.2 + i else (corner.2 + i) * line m.o + corner.1 + o
  if blk = 0 then
    items.flatMap (fun x => match x.1 with
      | .elem o i => ((progElem q width 0 (index o i)).map (fun a => (a.1, leBytes ((width + 7) / 8) x.2))).toList
      | _ => [])
  else
    let tile := (items.find? (fun x => x.1 == .tile)).map (fun x => x.2)
    items.flatMap (fun x => match x.1 with
      | .scale l b =>
        let mine := items.filterMap (fun y => match y.1 with
          | .elem o i => if (if order = 0 then o = l ∧ i / blk = b else i = l ∧ o / blk = b) then some y.2 else none
          | _ => none)
        (match progElem q width blk (if order = 0 then index l (b * blk) else index (b * blk) l) with
         | none => []
         | some a => [(a.1, packBits width (mine ++ List.replicate (blk - mine.length) 0)), (a.2.1, [BitVec.ofNat 8 x.2])] ++
             (tile.map (fun v => (a.2.2, leBytes 4 v))).toList)
      | _ => [])

/-- The copy that parameters of a step land in (08_training_step.md R166). -/
def parCopy (b : BucketRec) (pstep : Step) : Nat := if b.paired && pstep.toNat % 2 == 1 then b.par1 else b.par0

/-- Writes one form in one order through its receive program. -/
def State.writeForm (s : State) (c : KndCtx) (port : Nat) (pstep : Step) (m : LayerMap) (t form order : Nat) (data : List Byte) :
    State × Bool :=
  let who := Who.agent .receiveGen port c.p
  let w := s.paramWord m.layer form pstep
  let x := tileCorner m t
  let z := tileSize m x
  let blk := blockOf (cwScl w)
  let width := (fmtOf (cwFmt w)).width
  let items := tileItems form blk z.1 z.2 (cwScl w == 2)
  let r := s.read who (if order = 0 then m.wprg else m.tprg) progBytes
  match r.2 with
  | .error _ => (r.1, false)
  | .ok b =>
    r.1.writeAll who (formPieces (progOf b) (parCopy c.b pstep) width blk m x order
      (List.zip items (unpackItems (items.map (itemWidth width)) data)))

/-- A whole form is here: it is written, an unscaled single form in both orders. -/
def State.writeTile (s : State) (c : KndCtx) (port : Nat) (pstep : Step) (m : LayerMap) (t form : Nat) (data : List Byte) : State × Bool :=
  let a := s.writeForm c port pstep m t form form data
  if a.2 && s.oneForm m.layer pstep then a.1.writeForm c port pstep m t form 1 data else a

/-- The record of the step whose update gave the parameters of a step. -/
def keyStep (pstep : Step) : Step := pstep - 1

/-- A form of a tile has been written: the tile is accepted with its last form. -/
def State.acceptForm (s : State) (c : KndCtx) (pstep : Step) (tile form route need : Nat) : State :=
  s.modBkt c.b.bid (keyStep pstep) (fun k =>
    let done := k.parts ++ [(tile, form, 0)]
    let full := (done.filter (fun x => x.1 == tile)).length == need
    { k with parts := done, tiles := if full then tset k.tiles 0 route (tget k.tiles 0 route + 1) else k.tiles })

/-- A whole form of a tile reaches this device on a port. -/
def State.takeForm (s : State) (c : KndCtx) (port : Nat) (pstep : Step) (tile form route : Nat) (data : List Byte) : State :=
  match (bucketTiles (s.layersOf c.p c.b.bid))[tile]? with
  | none => s
  | some (m, t) =>
    if (s.bkt c.b.bid (keyStep pstep)).parts.contains (tile, form, 0) then s
    else
      let w := s.writeTile c port pstep m t form data
      if w.2 then w.1.acceptForm c pstep tile form route (if s.oneForm m.layer pstep then 1 else 2) else w.1

/-! ## Adoption and commit (08_training_step.md R167, R169) -/

/-- A contributor frees what it kept of a bucket, and its accumulation region is cleared; the word goes on to every child. -/
def State.commitBkt (s : State) (c : KndCtx) (step : Step) : State :=
  if (s.bkt c.b.bid step).committed then s
  else
    let t := (s.sendDown c 0 step .commit).clearRange c.b.acc (4 * bktElems c.b)
    (t.freeAdds c.b.bid step).modBkt c.b.bid step (fun k =>
      { k with committed := true, own := .idle, sums := [], checks := [], heldTiles := [] })

/-- ADOPTED words combine up route 0; a complete count at the owner commits the bucket. -/
def State.advanceAdopt (s : State) (c : KndCtx) (pstep : Step) : State :=
  let k := s.bkt c.b.bid (keyStep pstep)
  match s.childWords c 6 pstep with
  | none => s
  | some l =>
    if !k.adoptedHere || k.adoptSent then s
    else
      let n := l.foldl (fun a x => match x with
        | .adopted m => a + m
        | _ => a) 1
      if !s.isOwner c then
        (s.modBkt c.b.bid (keyStep pstep) (fun y => { y with adoptSent := true })).sendUp c 0 pstep (.adopted n)
      else if s.ownerRec c.p c.b.bid |>.any (fun o => o.holders + 1 == n) then
        (s.modBkt c.b.bid (keyStep pstep) (fun y => { y with adoptSent := true })).commitBkt c (keyStep pstep)
      else s

/-- Gives CLEAR for the single-mode buckets whose clearance count a counter's half has reached (08_training_step.md R166);
CLEAR words combine up route 0. A paired-mode holder counts as cleared at once (R181; entry 184). -/
def State.advanceClearUp (s : State) (c : KndCtx) (step : Step) : State × Bool :=
  let k := s.bkt c.b.bid step
  match s.childWords c 5 step with
  | none => (s, false)
  | some l =>
    if !(k.cleared || c.b.paired) || k.clearSent then (s, false)
    else
      let n := l.foldl (fun a x => match x with
        | .clear m => a + m
        | _ => a) 1
      let t := s.modBkt c.b.bid step (fun y => { y with clearSent := true })
      if !s.isOwner c then (t.sendUp c 0 step (.clear n), false)
      else if s.ownerRec c.p c.b.bid |>.any (fun o => o.holders + 1 == n) then
        (t.modBkt c.b.bid step (fun y => { y with clearDone := true }), true)
      else (t, false)

/-- A bucket is adopted here once PARAM_END has come on every route and the tiles accepted on each equal its count; a transfer
for this rank alone counts as one route (R198, 13_recovery.md R262). -/
def State.mayAdopt (s : State) (c : KndCtx) (pstep : Step) : Bool :=
  let k := s.bkt c.b.bid (keyStep pstep)
  !k.adoptedHere &&
    (List.range (if k.solo then 1 else max 1 c.r.routes.length)).all (fun j => tfind k.ends j == some (tget k.tiles 0 j))

/-- Adoption: the counter counts, and ADOPTED goes toward the owner. -/
def State.adopt (s : State) (c : KndCtx) (pstep : Step) : State :=
  if !s.mayAdopt c pstep then s
  else
    let solo := (s.bkt c.b.bid (keyStep pstep)).solo
    let t := s.modBkt c.b.bid (keyStep pstep) (fun k => { k with adoptedHere := true, heldTiles := [] })
    let t := (t.addHalf c.b.arack.val c.b.actr 1 pstep).modPhase c.p (keyStep pstep) (fun x => { x with lastAdopt := s.hkp.count })
    if solo && !t.isOwner c then t.sendBkt c.p c.b c.b.owner pstep (.adopted 1) else t.advanceAdopt c pstep

/-! ## Parameters out (R197, R198) -/

/-- Bytes of a PTILE part. -/
def ptileBytes : Nat := 4096

/-- The PTILE bodies of a form. -/
def ptileBodies (tile form route : Nat) (data : List Byte) : List Body :=
  let l := chunks ptileBytes data.length data
  l.zipIdx.map (fun x => .ptile tile x.2 form route x.1)

/-- Sends one form of a tile: to this device through the same path, and to the children of its route; to one rank alone where
`solo` names it. -/
def State.sendForm (s : State) (c : KndCtx) (pstep : Step) (solo : Option Nat) (tile form route : Nat) (data : List Byte) : State :=
  let bodies := ptileBodies tile form route data
  match solo with
  | some r => overAll bodies (fun b u => u.sendBkt c.p c.b r pstep b) s
  | none => overAll bodies (fun b u => u.sendDown c route pstep b) (s.takeForm c 0 pstep tile form route data)

/-- Every tile of a bucket, in order. -/
def State.sendTiles (s : State) (c : KndCtx) (o : OwnerRec) (pstep : Step) (solo : Option Nat) (codes : List Nat) : State :=
  let mf := mastFmt o
  overAll ((bucketTiles (s.layersOf c.p c.b.bid)).zipIdx) (fun x u =>
    let route := if solo.isSome then 0 else x.2 % max 1 c.r.routes.length
    let a := u.convertForm c.p o mf codes x.1.1 x.1.2 0 pstep
    let t := a.1.sendForm c pstep solo x.2 0 route a.2
    if u.oneForm x.1.1.layer pstep then t
    else
      let b := t.convertForm c.p o mf codes x.1.1 x.1.2 1 pstep
      b.1.sendForm c pstep solo x.2 1 route b.2) s

/-- Tiles that a route carries. -/
def routeTiles (total nr j : Nat) : Nat := ((List.range total).filter (fun t => t % nr == j)).length

/-- The owner sends the parameters of a step from the master in that step's slot, then PARAM_END on each route. False where the
master cannot be read, or a conversion word cannot be used. -/
def State.sendParams (s : State) (c : KndCtx) (o : OwnerRec) (pstep : Step) (solo : Option Nat) : State × Bool :=
  let ls := s.layersOf c.p c.b.bid
  if !ls.all (fun m => s.paramWordOk m.layer 0 pstep && s.paramWordOk m.layer 1 pstep) then (s, false)
  else
    let r := s.readMaster c.p o (pstep.toNat % 2) (bktElems c.b)
    match r.2 with
    | none => (r.1, false)
    | some codes =>
      let t := r.1.sendTiles c o pstep solo codes
      let total := (bucketTiles ls).length
      match solo with
      | some q => (t.sendBkt c.p c.b q pstep (.paramEnd 0 total), true)
      | none =>
        let nr := max 1 c.r.routes.length
        let t := overAll (List.range nr) (fun j u =>
          (u.modBkt c.b.bid (keyStep pstep) (fun k => { k with ends := tput (terase k.ends j) j (routeTiles total nr j) })).sendDown c j
            pstep (.paramEnd j (routeTiles total nr j))) t
        ((t.modBkt c.b.bid (keyStep pstep) (fun k => { k with paramsSent := true })).adopt c pstep, true)

/-- A bucket fails for a cause that KND_ERR has no code for. -/
def State.failPlain (s : State) (c : KndCtx) (o : OwnerRec) (step : Step) : State :=
  (s.modBkt c.b.bid step (fun k => { k with own := .failed })).raise (engIsland o.eng) .bucketFail [step.toNat, c.b.bid.toNat]

/-- Parameters go out after an update: at once to paired holders, after the combined CLEAR to single ones (R181). -/
def State.paramsOut (s : State) (c : KndCtx) (o : OwnerRec) (step : Step) : State :=
  let k := s.bkt c.b.bid step
  if !c.b.paired && !k.clearDone then s
  else
    let t := s.modBkt c.b.bid step (fun y => { y with own := .awaiting })
    let r := t.sendParams c o (step + 1) none
    if r.2 then r.1 else r.1.failPlain c o step

/-- CLEAR words advance; at the owner a complete count lets waiting parameters go. -/
def State.advanceClear (s : State) (c : KndCtx) (step : Step) : State :=
  let r := s.advanceClearUp c step
  if r.2 && (r.1.bkt c.b.bid step).own == .sending then
    match r.1.ownerRec c.p c.b.bid with
    | some o => r.1.paramsOut c o step
    | none => r.1
  else r.1

/-! ## UPDATE_DONE (R193 to R197, R201) -/

/-- The engine of an owner record runs: its island is On and the device is not fenced. -/
def State.engineRuns (s : State) (o : OwnerRec) : Bool :=
  s.isOn (engIsland o.eng) && !s.dev.fenced

/-- The update of one bucket. -/
def State.runUpdate (s : State) (c : KndCtx) (o : OwnerRec) (step : Step) : State :=
  let n := bktElems c.b
  let who := engWho c.p o
  let a := step.toNat % 2
  let k := s.bkt c.b.bid step
  let r := s.readAll who ((List.range o.nstate).map (fun j => (stateAt o a j, 4 * n)))
  match r.2 with
  | none => r.1.failRead c step
  | some l =>
    let m := r.1.readMaster c.p o a n
    match m.2 with
    | none => m.1.failRead c step
    | some old =>
      let st := l.map (unpackBits 32 n)
      let prog := ((s.slice c.p).bind (fun x => tfind x.uprogs o.uprog)).getD []
      let sums := (List.range c.b.nseg).flatMap (fun j => tget k.sums [] j)
      let res := (List.range n).map (fun i =>
        updElem (mastFmt o) prog k.consts k.sched k.s (sums.getD i 0) (old.getD i 0) (st.map (fun y => y.getD i 0)))
      let new := res.map (fun x => x.1)
      let ns := (List.range o.nstate).map (fun j => res.map (fun x => x.2.getD j 0))
      let w := m.1.writeAll who (genArrays o (a + 1) n new ns)
      if !w.2 then (w.1.endUpdate c step).failPlain c o step
      else
        let t := (w.1.giveUwr c step (mastFmt o) old new).tapUpdate c.p step c.b.bid o.mw40 new ns
        let t := (t.endUpdate c step).modBkt c.b.bid step (fun y => { y with own := .sending, sums := [] })
        t.paramsOut c o step

/-- UPDATE_DONE: the engine's update of a bucket at a step; its write-back waits for a full tap buffer (13_recovery.md R253). -/
def State.updateDone (s : State) (bid : BitVec 20) (step : Step) (ue : Option Nat) : State :=
  match s.openCtx bid step with
  | none => s
  | some c =>
    match s.ownerRec c.p bid with
    | none => s
    | some o =>
      if (s.bkt bid step).own ≠ .updating ∨ !s.kneads c ∨ !s.engineRuns o ∨ s.tapWaits c.p step then s
      else if ue.isSome then (s.noteUes (engWho c.p o) ue).failRead c step
      else s.runUpdate c o step

/-! ## PTILE and PARAM_END (R198) -/

/-- The words came from the owner alone to this rank (13_recovery.md R262). -/
def soloFrom (c : KndCtx) (k : Bkt) (src : BitVec 14) : Bool := k.solo && src.toNat == c.b.owner

/-- Parameters that arrive for a bucket of a step not adopted here: from the parent of their route, or for this rank alone. -/
def State.onParams (t : State) (k : Packet) (route : Nat) (f : State → KndCtx → Bool → State) : State :=
  match t.openCtx k.bucket k.step with
  | none => t
  | some c =>
    let b := t.bkt k.bucket (keyStep k.step)
    if !t.kneads c && (t.recov c.p).state != 4 then t
    else if soloFrom c b k.src then f t c true
    else if (routeOf c.r route).parent.isSome && (routeOf c.r route).parentRank == k.src.toNat then f t c false
    else t

/-- The parts of a form that are held, by number. -/
def heldParts (b : Bkt) (tile form : Nat) : Tab (List Byte) :=
  b.heldTiles.filterMap (fun x => match x.body with
    | .ptile t p f _ d => if t = tile ∧ f = form then some (p, d) else none
    | _ => none)

/-- Bytes of a form of a tile: its items' widths, packed (R197). -/
def State.formLen (s : State) (m : LayerMap) (t form : Nat) (pstep : Step) : Nat :=
  let w := s.paramWord m.layer form pstep
  let z := tileSize m (tileCorner m t)
  let bits := (tileItems form (blockOf (cwScl w)) z.1 z.2 (cwScl w == 2)).foldl (fun n x => n + itemWidth (fmtOf (cwFmt w)).width x) 0
  (bits + 7) / 8

/-- PTILE parts of a form of a bucket's tile (12_links_and_ordering.md R238). -/
def State.formParts (s : State) (c : KndCtx) (tile form : Nat) (pstep : Step) : Nat :=
  match (bucketTiles (s.layersOf c.p c.b.bid))[tile]? with
  | none => 1
  | some (m, t) => max 1 ((s.formLen m t form pstep + ptileBytes - 1) / ptileBytes)

/-- The form's data once its n parts are here. -/
def wholeForm (l : Tab (List Byte)) (n : Nat) : Option (List Byte) :=
  ((List.range n).mapM (fun i => tfind l i)).map (fun d => d.flatMap id)

/-- PTILE: forwarded to the children of its route, and written once its form is whole. -/
def State.ptile (s : State) (k : Packet) : State :=
  match k.body with
  | .ptile tile part form route d =>
    s.onParams k route (fun t c solo =>
      let t := if solo then t else t.sendDown c route k.step (.ptile tile part form route d)
      if (t.bkt k.bucket (keyStep k.step)).adoptedHere then t
      else
        let t := t.modBkt k.bucket (keyStep k.step) (fun b => { b with heldTiles := b.heldTiles ++ [k] })
        match wholeForm (heldParts (t.bkt k.bucket (keyStep k.step)) tile form) (t.formParts c tile form k.step) with
        | none => t
        | some data =>
          let t := t.modBkt k.bucket (keyStep k.step) (fun b => { b with heldTiles := b.heldTiles.filter (fun x => match x.body with
            | .ptile a _ f _ _ => !(a == tile && f == form)
            | _ => true) })
          (t.takeForm c ((routeOf c.r route).parent.getD 0) k.step tile form route data).adopt c k.step)
  | _ => s

/-- PARAM_END: forwarded, and the bucket is adopted once the counts match. -/
def State.paramEnd (s : State) (k : Packet) : State :=
  match k.body with
  | .paramEnd route tiles =>
    s.onParams k route (fun t c solo =>
      let t := if solo then t else t.sendDown c route k.step (.paramEnd route tiles)
      if (t.bkt k.bucket (keyStep k.step)).adoptedHere then t
      else (t.modBkt k.bucket (keyStep k.step) (fun b => { b with ends := tput (terase b.ends route) route tiles })).adopt c k.step)
  | _ => s

/-! ## CLEAR and SIGNAL (08_training_step.md R166, 06_task_engines_and_whisk.md R118) -/

/-- CLEAR: a child's count joins. -/
def State.clearWord (s : State) (k : Packet) : State :=
  match k.body with
  | .clear _ => s.onBucket k (fun t c => (t.keepChild k).advanceClear c k.step)
  | _ => s

/-- Single-mode buckets that a counter clears. -/
def State.clearsOf (s : State) (n ctr : Nat) : List BucketRec :=
  s.rcp.slices.flatMap (fun e => e.2.buckets.filter (fun b => !b.paired && b.crack.val == n && b.cctr == ctr))

/-- This holder clears the buckets whose clearance count the counter's half of a step has reached. -/
def State.giveClears (s : State) (n ctr : Nat) (step : Step) : State :=
  overAll (s.clearsOf n ctr) (fun b u =>
    match u.openCtx b.bid step with
    | none => u
    | some c =>
      if (u.bkt b.bid step).cleared || !u.waitMet n ctr b.cval step then u
      else (u.modBkt b.bid step (fun k => { k with cleared := true })).advanceClear c step) s

/-- SIGNAL: the signal reaches its counter's half (entry 17), and a clearance count may be met. -/
def State.signal (s : State) (n ctr : Nat) (inc : BitVec 16) (step : Step) : State :=
  (State.addHalf { s with signals := s.signals.erase (n, ctr, inc, step) } n ctr (BitVec.ofNat 32 inc.toNat) step).giveClears n ctr step

/-! ## PARAM_RESEND (13_recovery.md R262) -/

/-- PARAM_RESEND: the owner sends the parameters of a step from generation A to the named rank only. -/
def State.paramResend (t : State) (k : Packet) : State :=
  match k.body, t.kndCtx k.bucket with
  | .paramResend rank, some c =>
    match t.ownerRec c.p k.bucket with
    | some o => if t.isOwner c && t.engineRuns o && !(t.recov c.p).migration.any (fun m => m.handedOver) then (t.sendParams c o k.step (some rank.toNat)).1 else t
    | none => t
  | _, _ => t

def execParamResend (k : Packet) (s : State) : Host.Outcome State Fault Refusal :=
  .next (s.word k (· matches .paramResend _) (fun t => t.paramResend k))

end Sys2Proof.Machine
end

