-- ==== Sys2Proof/Machine/Training.lean ====
section
/-! DEFINITION. The training step (08_training_step.md R160 to R176): staged input, the seal tree, seal and rollback, the phase
record, and the words of adoption and commit. -/

namespace Sys2Proof.Machine

/-! ## INREADY_WRITE (R175) -/

/-- A step waits for input no longer. -/
def PhaseAcc.inputEnds (x : PhaseAcc) (now : Nat) : PhaseAcc :=
  { x with inputWait := x.inputWait + (x.inputSince.map (fun c => now - c)).getD 0, inputSince := none }

/-- INREADY_WRITE: the newest staged step rises; a write below the current value is ignored. -/
def inreadyBody : RowBody := writeBody (fun s _ r v =>
  match r with
  | .trnInready p =>
    if fieldOf v 31 0 < (s.part p).inready.toNat then (s, ok)
    else
      let t := s.putReg v r
      let l := ((s.part p).phases.map (fun e => e.1)).filter (fun n => decide (n ≤ fieldOf v 31 0))
      (overAll l (fun n u => u.modPhase p (BitVec.ofNat 32 n) (fun x => x.inputEnds s.hkp.count)) t, ok)
  | _ => (s, ok))

def execInreadyWrite (c : Cmd) (s : State) : Host.Outcome State Fault Refusal := .next (s.host c (isWrite .inready) inreadyBody)

/-! ## The seal tree (R161; entry 14) -/

/-- Sends a word to every child in the seal tree. -/
def State.sealDown (s : State) (p : Nat) (step : Step) (b : Body) : State :=
  overAll (s.sealChildren p) (fun r u => u.sendSeal p (BitVec.ofNat 14 r) step b) s

/-! ## SEAL (R170, R172) -/

/-- A time of the phase record saturates (22_observation.md R399). -/
def sat32 (n : Nat) : Int := (min n 0xFFFFFFFF : Nat)

/-- The payload of STEP_PHASE: STEP, PART, FLAGS, RANK, STEPTIME, FWD, BWD, EXCH_EXPOSED, UPDATE, COMMIT_WAIT, INPUT_WAIT, HELD,
REPLAYS. -/
def phasePayload (x : PhaseAcc) (p rank : Nat) (step : Step) (now since : Nat) : List Int :=
  let b := fun (f : Bool) (n : Nat) => if f then 2 ^ n else 0
  [step.toNat, p, b x.brownout 0 + b x.duty 1 + b x.coast 2 + b x.observed 3 + b x.replayed 4, rank, sat32 (now - since), sat32 x.fwd,
    sat32 x.bwd, sat32 (x.lastAdopt - x.lastBwd - x.updExposed), sat32 x.upd, sat32 (if x.lastAdopt = 0 then 0 else now - x.lastAdopt),
    sat32 x.inputWait, sat32 (x.held / 16), (min x.replays 0xFFFF : Nat)]

/-- How far back of the newest sealed step changes of K and FULL are told apart: a restore may take the job to an older step
(13_recovery.md R250, R265), and what lies further back is no longer serially older for long (R244). -/
def snapReach : Step := 0x40000000

/-- What a seal leaves of the records of a partition's steps up to it. -/
def State.pruneSealed (s : State) (p : Nat) (step : Step) : State :=
  let mine := fun (bid : BitVec 20) => (s.bucketOf bid).any (fun x => x.1 == p)
  let past := fun (n : Step) => !newer n step
  let t := { s with
    knd := { s.knd with
      bkts := s.knd.bkts.filter (fun b => !(mine b.bid && newer step b.step))
      words := s.knd.words.filter (fun k => !(mine k.bucket && past k.step))
      adders := s.knd.adders.filter (fun a => !(mine a.bid && past a.step))
      sealWords := s.knd.sealWords.filter (fun x => !(x.1 == p && past x.2.1)) }
    lnk := { s.lnk with latest := s.lnk.latest.filter (fun k => !(k.part.val == p && past k.step)) } }
  let t := overAll (t.racksOf p) (fun n u =>
    (u.modStream n (fun x => { x with ostep := step + 1, bounds := x.bounds.filter (fun b => !past b.step) })).modSlots n
      (fun x => { x with bounds := x.bounds.filter (fun b => !past b.step) })) t
  (t.modSnap p (fun x => x.settle (step - snapReach))).modPart p (fun x => { x with phases := x.phases.filter (fun e => !past (BitVec.ofNat 32 e.1)) })

/-- SEAL of a step takes effect here, in the order of R170: the Governor's decisions, generation B, SEALED with the schedule
shard, and the step that may open next. -/
def State.applySeal (s : State) (p : Nat) (step : Step) : State :=
  let x := s.part p
  let ph := tget x.phases {} step.toNat
  let t := (s.governSeal p step).applyAtSeal p
  let t := t.modPart p (fun y => { y with lastSeal := step, sealedReg := step, rewound := false, sealTime := s.hkp.count })
  let t := (t.snapSeal p step).drainSeal p step
  let t := overAll (t.racksOf p) (fun n u => u.traceRack n tSeal step 0) t
  let t := t.raise (srcPart p) .stepPhase (phasePayload ph p s.lnk.rank.toNat step s.hkp.count x.sealTime)
  (t.pruneSealed p step).noteInputWait p (step + 2)

/-- The root, once it is ready itself, sends SEAL down the tree. -/
def State.doSeal (s : State) (p : Nat) (step : Step) : State := (s.sealDown p step .seal).applySeal p step

/-! ## SEAL_READY (R170) -/

/-- Every bucket of a step that this device contributes to, owns or holds has committed, and so have its steering buckets. -/
def State.allCommitted (s : State) (p : Nat) (step : Step) : Bool :=
  match s.slice p with
  | none => true
  | some c =>
    c.buckets.all (fun b => (s.bkt b.bid step).committed) &&
      c.groups.all (fun g => !(s.lnk.rank.toNat :: []).any (fun r => r == g.owner || g.members.contains r) ||
        (s.vote g.group.val step).committed)

/-- SEAL_READY of a step has come from a rank; the device's own entry says that it has sent its own. -/
def State.sealHeard (s : State) (p : Nat) (step : Step) (r : Nat) : Bool := s.knd.sealWords.contains (p, step, r)

def State.noteSealWord (s : State) (p : Nat) (step : Step) (r : Nat) : State :=
  if s.sealHeard p step r then s else { s with knd := { s.knd with sealWords := s.knd.sealWords ++ [(p, step, r)] } }

/-- This device may send SEAL_READY of its oldest unsealed step: a partition in Run, its work done, its buckets committed, and
every child heard. -/
def State.sealable (s : State) (p : Nat) : Bool :=
  let n := (s.part p).lastSeal + 1
  (s.part p).state == .run && !s.dev.fenced && s.stepDone p n && s.allCommitted p n &&
    (s.sealChildren p).all (fun r => s.sealHeard p n r) && !s.sealHeard p n s.lnk.rank.toNat

/-- SEAL_READY goes to the parent; at the root it causes SEAL. -/
def State.trySeal (s : State) (p : Nat) : State :=
  let n := (s.part p).lastSeal + 1
  if !s.sealable p then s
  else
    let t := s.noteSealWord p n s.lnk.rank.toNat
    match t.sealParent p t.lnk.rank.toNat with
    | some r => t.sendSeal p (BitVec.ofNat 14 r) n .sealReady
    | none => if t.isSealRoot p then t.doSeal p n else t

/-- Every partition whose oldest step may now be sealed, and after it the next one: two steps are in flight at most (R161). -/
def State.trySeals (s : State) : State := overAll (List.range 16) (fun j u => u.trySeal (j % 8)) s

/-- SEAL_READY: a child's word. -/
def State.sealReadyWord (t : State) (k : Packet) : State :=
  match k.body with
  | .sealReady =>
    if newer k.step (t.part k.part.val).lastSeal && (t.sealChildren k.part.val).contains k.src.toNat then
      (t.noteSealWord k.part.val k.step k.src.toNat).trySeal k.part.val
    else t
  | _ => t

def execSealReady (k : Packet) (s : State) : Host.Outcome State Fault Refusal :=
  .next (s.word k (· matches .sealReady) (fun t => t.sealReadyWord k))

/-- SEAL: the word of the parent, for the oldest unsealed step. -/
def State.sealWord (t : State) (k : Packet) : State :=
  let p := k.part.val
  let x := t.part p
  match k.body with
  | .seal =>
    if k.step = x.lastSeal + 1 && (x.state == .run || x.state == .halted) && t.sealParent p t.lnk.rank.toNat == some k.src.toNat then
      (t.doSeal p k.step).trySeal p
    else t
  | _ => t

def execSeal (k : Packet) (s : State) : Host.Outcome State Fault Refusal :=
  .next (s.word k (· matches .seal) (fun t => t.sealWord k))

/-! ## ROLLBACK (R171, R173, R174) -/

/-- What was being timed of a rolled-back step ends. -/
def PhaseAcc.abandon (x : PhaseAcc) (now : Nat) : PhaseAcc :=
  { x with fwd := if x.fwdN = 0 then x.fwd else x.fwd + (now - x.fwdSince), fwdN := 0
           bwd := if x.bwdN = 0 then x.bwd else x.bwd + (now - x.bwdSince), bwdN := 0
           upd := if x.updN = 0 then x.upd else x.upd + (now - x.updSince), updN := 0, updExposed := 0, lastBwd := 0, lastAdopt := 0 }

/-- A slot goes back to its boundary record of a step; without one it is Free, unless it has not yet fetched a descriptor of that
step (06_task_engines_and_whisk.md R126; entry 32). A slot that faulted for another cause than BUS_ERROR stays Faulted (R125); a proof task of
an earlier step stays, and one of a rewound step goes (07_precision_steering.md R145). -/
def Slot.rewind (x : Slot) (step : Step) (fenced : Bool) : Slot :=
  let held := x.frozen.isSome
  let kept := x.bounds.filter (fun b => Machine.newer step b.step)
  let at_ := fun (a : Nat) (t : Step) (c : List Nat) (f : List Bool) =>
    { ({} : Slot) with state := if held then .held else .wait, frozen := if held then some .wait else none
                       next := a, tstep := t, ctrs := c, acts := f, bounds := kept }
  match x.allOps.find? (fun o => o.desc.proof) with
  | some o => if Machine.newer step o.desc.step then x else {}
  | none =>
  if x.frozen.getD x.state == .faulted && x.faultCode != tfBus then { x with newer := none, older := none, chain := none, bounds := kept } else
  match x.bounds.find? (fun b => !Machine.newer step b.step) with
  | some b => at_ b.addr b.tstep b.ctrs b.acts
  | none => if fenced || x.ended || x.frozen.getD x.state == .free then { ({} : Slot) with bounds := kept } else at_ x.next x.tstep x.ctrs x.acts

/-- A stream goes back to its boundary of a step, where that step had opened. -/
def RackSt.rewind (r : RackSt) (step : Step) : RackSt :=
  let t := r.stream
  let slots := r.slots.map (fun e => (e.1, e.2.rewind step (t.state == .fenced)))
  let r := { r with slots := slots.filter (fun e => e.2 != ({} : Slot)), holdFor := none
                    proofs := r.proofs.filter (fun x => newer step x.step) }
  match t.bounds.find? (fun b => b.step == step) with
  | none => { r with stream := { t with state := .active } }
  | some b =>
    { r with
      halves := b.halves
      stream := { t with state := .active, step := step - 1, ostep := step, issue := b.issue, txseq := b.txseq, genIn := b.genIn
                         genOut := b.genOut, drawHalf := b.drawHalf, drawHalfIn := b.drawHalfIn, inpos := b.inpos
                         bounds := t.bounds.filter (fun x => newer step x.step) } }

/-- A holder keeps its parameters of a step: a paired bucket, and a single one that gave no CLEAR (R174). -/
def State.keepsParams (s : State) (b : BucketRec) (step : Step) : Bool := b.paired || !(s.bkt b.bid step).cleared

/-- A word of a bucket's exchange of a step or a later one, of its votes or its seal, or of the parameters of a step after it. -/
def abandoned (k : Packet) (step : Step) : Bool :=
  match k.body with
  | .amax .. | .scale .. | .gseg .. | .csum .. | .replay .. | .clear .. | .adopted .. | .commit | .routeChanged
  | .votes .. | .combined .. | .sealReady => !newer step k.step
  | .ptile .. | .paramEnd .. => newer k.step step
  | _ => false

/-- A packet is of a bucket of a list, or of a steering bucket or the seal of a partition. -/
def State.ofJob (s : State) (p : Nat) (l : List BucketRec) (k : Packet) : Bool :=
  if k.body = .sealReady then k.part.val == p
  else l.any (fun b => b.bid == k.bucket) ||
    ((s.slice p).map (fun c => c.groups.any (fun g => g.bucket == k.bucket))).getD false

/-- Every bucket of a rolled-back step is undone by its state (R173); the step before it is sealed, and its commit stands (R174). Words of
it that were accepted and whose rows have not come belong to the abandoned attempt (entry 162). -/
def State.undoBuckets (s : State) (p : Nat) (l : List BucketRec) (held : BucketRec → Bool) (step : Step) : State :=
  let gone := fun (bid : BitVec 20) (n : Step) => l.any (fun b => b.bid == bid) && !newer step n
  let t := { s with
    knd := { s.knd with
      bkts := s.knd.bkts.filter (fun b => !gone b.bid b.step)
      words := s.knd.words.filter (fun k => !gone k.bucket k.step)
      adders := s.knd.adders.filter (fun a => !gone a.bid a.step)
      sealWords := s.knd.sealWords.filter (fun x => !(x.1 == p && !newer step x.2.1)) }
    gov := { s.gov with uwr := s.gov.uwr.filter (fun e =>
      !(((s.slice p).map (fun c => inLayers c.part (4 * e.1))).getD false && !newer step e.2.1)) }
    inbox := s.inbox.filter (fun k => !(s.ofJob p l k && abandoned k step))
    lnk := { s.lnk with latest := s.lnk.latest.filter (fun k =>
      !(k.part.val == p && !newer step k.step) || wordKind k.body == wordKind (.rollback 0)) } }
  overAll l (fun b u => (u.clearRange b.acc (4 * bktElems b)).modBkt b.bid (keyStep step) (fun k =>
    if held b then { k with adoptedHere := true, committed := true } else { bid := b.bid, step := keyStep step, committed := true })) t

/-- The owner sends the parameters of a step again to the holders of its single-mode buckets; a holder that gave no CLEAR
disregards them (R173; entry 32). -/
def State.resendSingles (s : State) (p : Nat) (l : List BucketRec) (step : Step) : State :=
  overAll (l.filter (fun b => !b.paired)) (fun b u =>
    match u.kndCtx b.bid, u.ownerRec p b.bid with
    | some c, some o => if u.isOwner c && u.engineRuns o then (u.sendParams c o step none).1 else u
    | _, _ => u) s

/-- Snapshots of rolled-back steps are abandoned or void, and their slots freed; the newest secured and taken ones lie before them
(13_recovery.md R258, R265, R274). -/
def SnapSt.undo (x : SnapSt) (step : Step) : SnapSt :=
  let gone := fun (n : Step) => !newer step n
  let back := fun (n : Step) => if n ≠ 0xFFFFFFFF ∧ gone n then step - 1 else n
  { x with
    slots := x.slots.filter (fun e => !gone e.2.step)
    job := x.job.filter (fun j => !gone j.step)
    state := if x.job.any (fun j => gone j.step) then 0 else x.state
    secured := back x.secured, taken := back x.taken }

/-- The record of the newest secured snapshot names the slot that holds it. -/
def State.undoSnap (s : State) (p : Nat) (step : Step) : State :=
  s.modSnap p (fun x =>
    let y := x.undo step
    if y.secured = x.secured then y
    else { y with slot := ((y.slots.find? (fun e => e.2.step == y.secured)).map (fun e => e.1)).getD 0 })

/-- Rollback of a partition that has opened no step: buckets are undone, every step's parameters are still held, and its streams start
afresh (06_task_engines_and_whisk.md R126; entry 32); a halted one stays so. -/
def State.rollbackFresh (s : State) (p : Nat) (step : Step) : State :=
  let l := ((s.slice p).map (fun c => c.buckets)).getD []
  let t := overAll (s.racksOf p) (fun n u => u.modRack n (fun r => { r with halves := [] })) s
  let t := (((t.raiseEpoch p).setStreams p .idle).undoBuckets p l (fun _ => true) step).discardWindows p step
  match (s.part p).state with
  | .run => t.firstSteps p
  | .halted =>
    let t := t.firstSteps p
    (overAll (t.racksOf p) (fun n u => u.modSlots n Slot.freeze) t).modPart p (fun x => { x with state := .halted })
  | _ => t

/-- Rollback to the oldest unsealed step: streams rewind, epochs rise with fences whose BASE is the restored TXSEQ, buckets are
undone, and the step opens again. -/
def State.doRollback (s : State) (p : Nat) (step : Step) : State :=
  let l := ((s.slice p).map (fun c => c.buckets)).getD []
  let held := fun (b : BucketRec) => s.keepsParams b step
  let t := overAll (s.racksOf p) (fun n u => u.modRack n (fun r => r.rewind step)) s
  let t := { t with signals := t.signals.filter (fun x => !((s.racksOf p).contains x.1 && !newer step x.2.2.2)) }
  let t := t.modPart p (fun x =>
    { x with openReg := if newer x.openReg (step - 1) then step - 1 else x.openReg, nextOpen := step, rewound := true
             phases := x.phases.map (fun e => (e.1, if newer step (BitVec.ofNat 32 e.1) then e.2 else e.2.abandon s.hkp.count)) })
  let t := (t.setAdopted l held step).raiseEpoch p
  let t := ((t.undoBuckets p l held step).discardWindows p step).undoSnap p step
  t.resendSingles p l step

/-- Rolls a partition back on this device. -/
def State.rollbackHere (s : State) (p : Nat) (step : Step) : State :=
  (if (s.part p).everOpen then s.doRollback p step else s.rollbackFresh p step).modRecov p
    (fun y => { y with state := if y.state = 1 then 0 else y.state, rolled := some (y.repoch, step) })

/-- ROLLBACK_WORD: of the present recovery epoch, for the oldest unsealed step. One of a step that is sealed is discarded and
raises SEAL_CONFLICT. A spare that fills after a discard migration only passes it on (13_recovery.md R269). -/
def State.rollbackWord (t : State) (k : Packet) : State :=
  let p := k.part.val
  let x := t.part p
  match k.body with
  | .rollback e =>
    if e ≠ (t.recov p).repoch ∨ t.dev.fenced then t
    else if !newer k.step x.lastSeal then t.raise (srcPart p) .sealConflict [p, k.step.toNat]
    else if (t.recov p).rolled = some (e, k.step) then t
    else if k.step ≠ x.lastSeal + 1 ∨ !(x.state == .run || x.state == .halted || x.state == .ready) then t
    else
      let t := t.sealDown p k.step (.rollback e)
      if (t.recov p).migration.isSome then t else t.rollbackHere p k.step
  | _ => t

def execRollbackWord (k : Packet) (s : State) : Host.Outcome State Fault Refusal :=
  .next (s.word k (· matches .rollback _) (fun t => t.rollbackWord k))

/-! ## Words that may let a step seal -/

/-- ADOPTED: of a bucket, or of a steering bucket (07_precision_steering.md R151). -/
def State.adoptedWord (s : State) (k : Packet) : State :=
  match k.body with
  | .adopted n =>
    (match s.steerBucket k.bucket with
     | some (p, c, g) =>
       if newer k.step (s.part p).lastSeal then s.noteAdopted p c g k.step k.src.toNat n else s
     | none => s.onBucket k (fun t c => (t.keepChild k).advanceAdopt c k.step)).trySeals
  | _ => s

def execAdopted (k : Packet) (s : State) : Host.Outcome State Fault Refusal :=
  .next (s.word k (· matches .adopted _) (fun t => t.adoptedWord k))

/-- COMMIT of a steering bucket goes on to the children. -/
def State.commitSteer (s : State) (p : Nat) (c : Slice) (g : GroupRec) (step : Step) : State :=
  let v := s.vote g.group.val step
  if v.committed then s
  else overAll (s.steerRoute c g).2 (fun m u => u.sendSteer p g m step .commit) (s.setVote { v with committed := true })

/-- COMMIT_WORD. -/
def State.commitWord (s : State) (k : Packet) : State :=
  match k.body with
  | .commit =>
    (match s.steerBucket k.bucket with
     | some (p, c, g) =>
       if newer k.step (s.part p).lastSeal then s.commitSteer p c g k.step else s
     | none => s.onBucket k (fun t c => t.commitBkt c k.step)).trySeals
  | _ => s

def execCommitWord (k : Packet) (s : State) : Host.Outcome State Fault Refusal :=
  .next (s.word k (· matches .commit) (fun t => t.commitWord k))

/-- Rows that may end a step's last work here, or commit its last bucket, after which it may seal (entry 49). -/
def execRun (c : Cmd) (s : State) : Host.Outcome State Fault Refusal := .next (s.host c (isWrite .run) runBody).trySeals
def execDescriptorFetch (n : Rack) (i : SlotNo) (ue : Option Nat) (s : State) : Host.Outcome State Fault Refusal :=
  .next (s.fetch n.val i.val ue).trySeals
def execLoop (n : Rack) (i : SlotNo) (s : State) : Host.Outcome State Fault Refusal := .next (s.loop n.val i.val).trySeals
def execEndDesc (n : Rack) (i : SlotNo) (s : State) : Host.Outcome State Fault Refusal := .next (s.endTask n.val i.val).trySeals
def execOperationComplete (n : Rack) (i : SlotNo) (s : State) : Host.Outcome State Fault Refusal :=
  .next (s.complete1 n.val i.val).trySeals
def execUpdateDone (bid : BitVec 20) (step : Step) (ue : Option Nat) (s : State) : Host.Outcome State Fault Refusal :=
  .next (s.updateDone bid step ue).trySeals
def execPtile (k : Packet) (s : State) : Host.Outcome State Fault Refusal :=
  .next (s.word k (· matches .ptile ..) (fun t => (t.ptile k).trySeals))
def execParamEnd (k : Packet) (s : State) : Host.Outcome State Fault Refusal :=
  .next (s.word k (· matches .paramEnd ..) (fun t => (t.paramEnd k).trySeals))
def execClear (k : Packet) (s : State) : Host.Outcome State Fault Refusal :=
  .next (s.word k (· matches .clear _) (fun t => (t.clearWord k).trySeals))
def execSignal (n : Rack) (ctr : Fin 64) (inc : BitVec 16) (step : Step) (s : State) : Host.Outcome State Fault Refusal :=
  .next (s.signal n.val ctr.val inc step).trySeals

/-- VOTE_RECORD, STEERING_RECORD and WINDOW_CLOSE (07_precision_steering.md R150, R151), after which a step may seal. -/
def execVoteRecord (k : Packet) (s : State) : Host.Outcome State Fault Refusal :=
  .next (s.word k (· matches .votes ..) (fun t => (t.voteRecord k).trySeals))
def execSteeringRecord (k : Packet) (s : State) : Host.Outcome State Fault Refusal :=
  .next (s.word k (· matches .combined ..) (fun t => (t.steeringRecord k).trySeals))
def execWindowClose (p : Part) (s : State) : Host.Outcome State Fault Refusal := .next (s.windowClose p.val).trySeals

end Sys2Proof.Machine
end

