-- ==== Sys2Proof/Machine/Links.lean ====
section
/-! DEFINITION. The link ports (12_links_and_ordering.md R231 to R249): training, LINK_ID, flits, ports that go down or into
standby, arriving packets, fences, and the routing commands of the host. -/

namespace Sys2Proof.Machine

/-! ## A port leaves use (R236, R241, R349) -/

/-- Words that travel one hop and are consumed by the receiving port (R239). -/
def portWord (k : Packet) : Bool :=
  match k.body with
  | .linkId .. | .linkStandby | .linkResume | .fenced .. => true
  | _ => false

/-- The packets of a port's unacknowledged flits, each once, in their order. -/
def PortSt.unacked (p : PortSt) : List Packet :=
  p.flits.zipIdx.filterMap (fun x => if x.2 = 0 || x.1.idx = 0 then some x.1.pkt else none)

/-- The packets of a port that leaves use go back to the router: those of unacknowledged flits and those still queued, in their
original order, control words before payload (R17, R241). -/
def State.handBack (s : State) (n : Nat) : State :=
  let p := s.port n
  let sent := p.unacked.filter (fun k => !portWord k)
  let back := sent.filter (fun k => k.kind == 0x3) ++ p.ctl.filter (fun k => !portWord k) ++
    (sent.filter (fun k => k.kind != 0x3) ++ p.pay)
  overAll back (fun k u => u.route none k)
    (s.modPort n (fun p => { p with ctl := [], pay := [], flits := [], content := [], fails := 0 }))

/-- A snapshot that is being sent loses its twin copy when port T goes down (13_recovery.md R274). -/
def State.twinLost (s : State) : State :=
  overAll (List.range 8) (fun p u =>
    match (u.snap p).job with
    | some j => if j.toTwin then u.modSnap p (fun x => { x with job := some { j with toTwin := false } }) else u
    | none => u) s

/-- A port goes down (R236): LINK_DOWN names it, its packets take the detour, the route generation rises (R242), and
partitions that have no route left fault; port T also raises TWIN_DOWN (13_recovery.md R271). -/
def State.portDown (s : State) (n : Nat) : State :=
  let t := s.modPort n (fun p => { p with state := .down, inPlace := false, kept := false })
  let t := t.raise (62 + n) .linkDown [n]
  let t := if n = portT then (t.raise (62 + n) .twinDown [n]).twinLost else t
  (((t.handBack n).routeRise).faultRoutes n).settleRoutes

/-- A port starts to train: both ends number their flits from 0 again. -/
def PortSt.train (p : PortSt) (resume : Bool) : PortSt :=
  { p with state := .training, inPlace := resume, hostDown := false, txSeq := 0, rxSeq := 0, fails := 0, content := [], arrived := []
           words := [] }

/-! ## Rows that host software orders (R249, R242) -/

/-- The port of an LNK_CTL register. -/
def lnkPort : Reg → Nat
  | .lnkCtl n => n
  | _ => 0

/-- LINK_RETRAIN on a port: one that is up leaves use with LINK_STANDBY and the route generation rises once; one that is not in
use trains at once. -/
def State.retrain (s : State) (n : Nat) : State :=
  match (s.port n).state with
  | .unused | .training => s
  | .up =>
    let t := (s.sendPort n .linkStandby).modPort n (fun p => { p with state := .training })
    (((t.handBack n).modPort n (fun p => p.train true)).routeRise).settleRoutes
  | _ => s.modPort n (fun p => p.train false)

def linkRetrainBody : RowBody := opBody (fun s _ r _ => (s.retrain (lnkPort r), ok))

/-- LINK_RETRAIN. -/
def execLinkRetrain (c : Cmd) (s : State) : Host.Outcome State Fault Refusal :=
  .next (s.host c (isWrite .linkRetrain) linkRetrainBody)

/-- LINK_TAKE_DOWN on a port: it stays down until a retrain is ordered. -/
def State.takeDown (s : State) (n : Nat) : State :=
  match (s.port n).state with
  | .unused => s
  | .down | .failed => s.modPort n (fun p => { p with hostDown := true })
  | _ => (s.modPort n (fun p => { p with hostDown := true })).portDown n

def linkTakeDownBody : RowBody := opBody (fun s _ r _ => (s.takeDown (lnkPort r), ok))

/-- LINK_TAKE_DOWN. -/
def execLinkTakeDown (c : Cmd) (s : State) : Host.Outcome State Fault Refusal :=
  .next (s.host c (isWrite .linkTakeDown) linkTakeDownBody)

/-- APPLY: the staged entries replace the table, and the route generation rises. -/
def State.applyRoutes (s : State) : State :=
  State.routeRise { s with lnk := { s.lnk with
    table := s.lnk.staged.foldl (fun m e => tset m rtEmpty e.1 e.2) s.lnk.table, staged := [] } }

/-- DISCARD_STAGED. -/
def discardStagedBody : RowBody := opBody (fun s _ _ _ => ({ s with lnk := { s.lnk with staged := [] } }, ok))

def execDiscardStaged (c : Cmd) (s : State) : Host.Outcome State Fault Refusal :=
  .next (s.host c (isWrite .discardStaged) discardStagedBody)

/-- SETRANK: RANK takes NEWRANK. -/
def setrankBody : RowBody := opBody (fun s _ _ v =>
  ({ s with lnk := { s.lnk with rank := BitVec.ofNat 14 (fieldOf v 29 16) } }, ok))

def execSetrank (c : Cmd) (s : State) : Host.Outcome State Fault Refusal := .next (s.host c (isWrite .setrank) setrankBody)

/-! ## Training (R233, R234, R236) -/

/-- PORT_TRAINED: the port sends LINK_ID. A standby port that trained with its peer stays in standby until LINK_RESUME. -/
def State.portTrained (s : State) (n : Nat) : State :=
  let id := Body.linkId s.ownCoord n
  match (s.port n).state with
  | .training => (s.modPort n (fun p => { p with state := .up, txSeq := 0, rxSeq := 0, fails := 0, content := [] })).sendPort n id
  | .standby => (s.modPort n (fun p => { p with txSeq := 0, rxSeq := 0, fails := 0, content := [] })).sendPort n id
  | _ => s

def execPortTrained (n : Port) (s : State) : Host.Outcome State Fault Refusal := .next (s.portTrained n.val)

/-- PEER_TRAINING: a down or failed port joins, unless host order took it down. -/
def State.peerTraining (s : State) (n : Nat) : State :=
  let p := s.port n
  if (p.state = .down ∨ p.state = .failed) ∧ p.hostDown = false then s.modPort n (fun x => x.train x.inPlace) else s

def execPeerTraining (n : Port) (s : State) : Host.Outcome State Fault Refusal := .next (s.peerTraining n.val)

/-- The port takes part in port words: it has a trained link. -/
def State.hears (s : State) (n : Nat) : Bool :=
  (s.port n).state == .up || (s.port n).state == .standby || (s.port n).state == .miswired

/-- A port word that waits at a port is taken by its row (R239). -/
def State.portWordOf (s : State) (n : Nat) (k : Packet) (f : State → State) : State :=
  if s.hears n && (s.port n).words.head? == some k then f (s.modPort n (fun p => { p with words := p.words.tail })) else s

/-- LINK_ID: the peer's coordinate and port are compared with R232 once a recipe has given this device its own; a match lets
LINK_RESUME follow where the port left use in place (R249, 18_power_ladder.md R349). A miswired port carries no traffic: its packets go back to the router. -/
def State.linkId (s : State) (n : Nat) (c : BitVec 14) (m : Nat) : State :=
  let good := s.rcp.links.isNone || (c == s.predicted n && m == peerPortOf n)
  let p := s.port n
  let t := s.modPort n (fun x => { x with
    peer := c, peerPort := BitVec.ofNat 4 m
    state := if !good then .miswired else if x.state = .miswired then .up else x.state
    inPlace := x.inPlace && !good })
  if !good then (t.handBack n).settleRoutes
  else if p.inPlace && p.state == .up then t.sendPort n .linkResume else t

def execLinkId (n : Port) (k : Packet) (s : State) : Host.Outcome State Fault Refusal :=
  .next (match k.body with
    | .linkId c m => s.portWordOf n.val k (fun t => t.linkId n.val c m)
    | _ => s)

/-! ## Flits (R235, R236) -/

/-- Flits up to one that is outstanding are received: they leave the replay buffer. -/
def PortSt.acked (p : PortSt) (a : BitVec 12) : PortSt :=
  match p.flits.findIdx? (fun e => e.seq == a) with
  | none => p
  | some i => { p with flits := p.flits.drop (i + 1), fails := 0 }

/-- What the acknowledgement fields say of this port's own flits: received up to ACK, or to be sent again from the one
after it. -/
def State.flitAcked (s : State) (n : Nat) (f : FlitHdr) : State :=
  if f.akind = 1 then (s.modPort n (fun p => p.acked f.ack)).drainPort n
  else if f.akind = 2 then
    let k := ((s.port n).acked f.ack).flits.length
    ((s.modPort n (fun p =>
      let q := p.acked f.ack
      { q with fails := q.fails + 1, replay := satAdd q.replay k })).emit (.flitResend n k)).drainPort n
  else s

/-- A flit in sequence is acknowledged; the packets that its content completes have arrived and wait for their rows. -/
def State.flitTaken (s : State) (n : Nat) (f : FlitHdr) (reads : List CtrlRead) : State :=
  let p := s.port n
  let r := if f.type = 1 then unpacked 64 (p.content ++ f.content) else (unpackedCtl reads f.content, p.content)
  (s.modPort n (fun p => { p with rxSeq := f.fseq + 1, content := r.2, arrived := p.arrived ++ r.1 })).emit (.flitAck n 1 f.fseq)

/-- Uncorrectable codewords within 1 ms, in 10 ns counts, that declare a port down (R236). -/
def uncMax : Nat := 1000
def uncSpan : Nat := 100000

/-- A flit that fails its check or its codeword is asked for again. -/
def State.flitBad (s : State) (n : Nat) (unc : Bool) : State :=
  (s.modPort n (fun p =>
    if unc then { p with fecUnc := satAdd p.fecUnc 1, unc := (s.hkp.count :: p.unc).take (uncMax + 1) } else p)).emit
    (.flitAck n 2 ((s.port n).rxSeq - 1))

/-- FLIT: an idle flit carries no number. -/
def State.flit (s : State) (n : Nat) (b : List Byte) (fec : Option Nat) (reads : List CtrlRead) : State :=
  if !s.hears n then s
  else
    let f := flitOf b
    let want := (s.port n).rxSeq
    match fec with
    | none => s.flitBad n true
    | some k =>
      let s := s.modPort n (fun p => { p with fecCor := satAdd p.fecCor k })
      if !f.crcOk then s.flitBad n false
      else
        let t := s.flitAcked n f
        if f.type ≠ 1 ∧ f.type ≠ 2 then t
        else if f.fseq = want then t.flitTaken n f reads
        else if newer want f.fseq then t.emit (.flitAck n 1 (want - 1))
        else t.emit (.flitAck n 2 (want - 1))

def execFlit (n : Port) (bytes : List Byte) (fec : Option Nat) (reads : List CtrlRead) (s : State) :
    Host.Outcome State Fault Refusal := .next (s.flit n.val bytes fec reads)

/-! ## Ports down and in standby -/

/-- Resends of one flit that may fail (R236). -/
def flitResends : Nat := 16

/-- The reason for which a port is declared down holds (R236): the original flit and 16 resends of it have failed; more than
1,000 codewords were uncorrectable within 1 ms; a lane has lost lock. -/
def PortSt.downFor (p : PortSt) : DownReason → Bool
  | .resends => decide (flitResends < p.fails)
  | .laneLock => true
  | .codewords => decide (uncMax < p.unc.length) && decide (p.unc.headD 0 - p.unc.getLastD 0 ≤ uncSpan)

/-- LINK_DOWN: a port in use is declared down. A standby port's lanes may lose lock and it stays in standby (R349). -/
def execLinkDown (n : Port) (why : DownReason) (s : State) : Host.Outcome State Fault Refusal :=
  .next (if (s.portUp n.val || (s.port n.val).state == .miswired) && (s.port n.val).downFor why then s.portDown n.val else s)

/-- LINK_STANDBY: the port marks itself standby and routes around it. -/
def State.linkStandby (s : State) (n : Nat) : State :=
  if s.portUp n then (((s.modPort n (fun p => { p with state := .standby })).handBack n)).settleRoutes else s

/-- The row of a port word that carries nothing but its kind. -/
def State.plainWord (s : State) (n : Nat) (b : Body) (f : State → State) : State :=
  match (s.port n).words.head? with
  | some k => if k.body = b then s.portWordOf n k f else s
  | none => s

def execLinkStandby (n : Port) (s : State) : Host.Outcome State Fault Refusal :=
  .next (s.plainWord n.val .linkStandby (fun t => t.linkStandby n.val))

/-- LINK_RESUME: the port returns to use. -/
def State.linkResume (s : State) (n : Nat) : State :=
  if (s.port n).state = .standby then s.modPort n (fun p => { p with state := .up, kept := false }) else s

def execLinkResume (n : Port) (s : State) : Host.Outcome State Fault Refusal :=
  .next (s.plainWord n.val .linkResume (fun t => t.linkResume n.val))

/-- FENCED: PEER_FENCED names the neighbour's coordinate (13_recovery.md R260). -/
def execFenced (n : Port) (k : Packet) (s : State) : Host.Outcome State Fault Refusal :=
  .next (match k.body with
    | .fenced c => s.portWordOf n.val k (fun t => t.raise (62 + n.val) .peerFenced [c.toNat])
    | _ => s)

/-! ## Packets (R238, R240, R245) -/

/-- A packet of a kind may use a port (R238). -/
def kindUses (k : Packet) (n : Nat) : Bool :=
  if k.kind = 0x1 ∨ k.kind = 0x2 then n < 8 else if k.kind = 0x4 then n == 8 else k.kind == 0x3 || k.kind == 0x5

/-- One of a reserved kind, with a reserved bit set (00_scope.md R7), or on a port that its kind may not use, is discarded and
counted; so is a control word whose CRC-64 fails (R18, R248). A port word waits at the port for its row; any other packet is
routed from here. -/
def State.arrive (s : State) (n : Nat) (k : Packet) : State :=
  if (s.port n).state == .miswired && !portWord k then s
  else if k.kind ≠ bodyCode k.body ∨ k.rsvOk = false ∨ kindUses k n = false then
    s.modDisc (fun d => { d with noroute := satAdd d.noroute 1 })
  else if portWord k then
    if k.crcOk then s.modPort n (fun p => { p with words := p.words ++ [k] })
    else s.modDisc (fun d => { d with crc64 := satAdd d.crc64 1 })
  else s.route (some n) k

/-- A packet that may be taken next: the first of its class that the flits of a port have completed. A control word waits behind no
payload (R17). -/
def PortSt.offers (p : PortSt) (k : Packet) : Bool := p.arrived.find? (fun x => (x.kind == 0x3) == (k.kind == 0x3)) == some k

/-- PACKET: a packet that the flits of a port have completed. -/
def State.packet (s : State) (n : Nat) (k : Packet) : State :=
  if s.hears n && (s.port n).offers k then
    ((s.modPort n (fun p => { p with arrived := p.arrived.erase k })).arrive n k).settleRoutes
  else s

def execPacket (n : Port) (k : Packet) (s : State) : Host.Outcome State Fault Refusal := .next (s.packet n.val k)

/-! ## Fences (R246) -/

/-- What a FENCE does to an entry with no fence pending, or to a pair with no entry. -/
def State.fenceOn (s : State) (key : Nat) (new : BitVec 16) (discard : Bool) (limit base : BitVec 32) : State :=
  match s.seqEnt key with
  | none => s.makeSeq key { epoch := new, last := base - 1, pend := none }
  | some e =>
    if e.pend.isSome then s
    else if new = e.epoch then (if discard then s.putSeq key { e with last := base - 1 } else s)
    else if newer new e.epoch then
      let t := s.putSeq key { e with pend := some { newEpoch := new, limit := limit, base := base } }
      if discard || e.last == limit || newer e.last limit then t.closeFence key else t
    else s

/-- FENCE: one that is newer than the entry while another is pending closes that one first. -/
def State.fenceIn (s : State) (k : Packet) : State :=
  match k.body with
  | .fence stream _ new discard limit base =>
    s.word k (· matches .fence ..) (fun t =>
      let key := seqKey k.src stream
      match t.seqEnt key with
      | some e => if e.pend.isSome && newer new e.epoch then (t.closeFence key).fenceOn key new discard limit base
                  else t.fenceOn key new discard limit base
      | none => t.fenceOn key new discard limit base)
  | _ => s

def execFence (k : Packet) (s : State) : Host.Outcome State Fault Refusal := .next (s.fenceIn k)

/-- DRAIN_LIMIT: a fence that is still pending closes. -/
def execDrainLimit (src : BitVec 14) (stream : BitVec 16) (s : State) : Host.Outcome State Fault Refusal :=
  .next (s.closeFence (seqKey src stream))

end Sys2Proof.Machine
end

