-- ==== Sys2Proof/Machine/Cellar.lean ====
section
/-! DEFINITION. The Cellar's CXL ports (11_cellar.md R219 to R230): enumeration, the completions of outstanding requests, and
what a port or an expander that fails takes with it. -/

namespace Sys2Proof.Machine

/-- Log kinds of CXL_ERR (R227, R230). -/
def kPoison : Nat := 1
def kTimeout : Nat := 2
def kLinkDown : Nat := 3
def kExpFatal : Nat := 4
def kIde : Nat := 5

/-! ## Completions (R225, R227) -/

/-- An outstanding request that may complete: no earlier one of its port names the same 64-byte line. -/
def State.dueReq (s : State) (n i : Nat) : Option CxlReq :=
  let l := (s.cxlPort n).reqs
  match l.find? (fun r => r.id == i) with
  | none => none
  | some r => if (l.takeWhile (fun x => x.id != i)).any (fun x => x.addr / 64 == r.addr / 64) then none else some r

/-- The window answers what is due once a line of a burst has come (14_queros_host_link.md R288, R289). -/
def State.lineCame (s : State) (w line req : Nat) (f : Burst → Burst) : State :=
  (s.modWindow w (fun x => { x with bursts := x.bursts.map (fun b =>
    if b.waiting.contains (line, req) then f { b with waiting := b.waiting.filter (fun e => e != (line, req)) } else b) })).pumpWindow w

/-- An operation's write is accepted, or has failed with a bus error (06_task_engines_and_whisk.md R118, R125). -/
def Op.reqDone (o : Op) (i err : Nat) : Op :=
  if o.reqs.contains i then { o with reqs := o.reqs.filter (fun x => x != i), writeErr := if o.writeErr = 0 then err else o.writeErr }
  else o

def State.opReqDone (s : State) (n slot i err : Nat) : State :=
  s.modSlot n slot (fun x => { x with older := x.older.map (fun o => o.reqDone i err) })

/-- A request leaves its port's tracker; one that waits takes its tag (R226). -/
def State.dropReq (s : State) (n i : Nat) : State :=
  s.modCxlPort n (fun c => { c with reqs := c.reqs.filter (fun r => r.id != i), wait := c.wait.filter (fun r => r.id != i) }.fillTags)

/-- A request completes without an error: a write's bytes are in the expander, a read's go to the burst; words that it wrote whole or
read without poison are sound. -/
def State.reqOk (s : State) (n : Nat) (r : CxlReq) : State :=
  let t := s.dropReq n r.id
  let t := if r.isWrite then
      { (t.setBytes r.addr r.data) with
          secded := t.secded.filter (fun x => !(decide (r.addr ≤ 8 * x ∧ 8 * x + 8 ≤ r.addr + r.data.length))) }
    else { t with secded := t.secded.filter (fun x => !(decide (r.addr ≤ 8 * x ∧ 8 * x < r.addr + 64))) }
  match r.owner with
  | .peel w _ line =>
    let d := if r.data.isEmpty then t.readBytes r.addr 64 else r.data
    t.lineCame w line r.id (fun b => if r.isWrite then b else b.put line d)
  | .op k slot => t.opReqDone k slot r.id 0

/-- A request completes with bus error UE (R211, R227). -/
def State.reqFail (s : State) (n : Nat) (r : CxlReq) : State :=
  let t := s.dropReq n r.id
  match r.owner with
  | .peel w _ line => t.lineCame w line r.id (fun b => b.fail line eUE)
  | .op k slot => t.opReqDone k slot r.id eUE

/-- NDR: a write is accepted. -/
def State.ndr (s : State) (n i : Nat) : State :=
  match s.dueReq n i with
  | some r => if r.isWrite then s.reqOk n r else s
  | none => s

def execNdr (n : CxlPort) (req : Nat) (s : State) : Host.Outcome State Fault Refusal := .next (s.ndr n.val req)

/-- DRS: read data, or poison. -/
def State.drs (s : State) (n i : Nat) (poison : Bool) : State :=
  match s.dueReq n i with
  | none => s
  | some r =>
    if r.isWrite then s
    else if poison then ((s.modCxlPort n (fun c => c.noteError kPoison r.dsp r.addr)).markUe r.addr).reqFail n r
    else s.reqOk n r

def execDrs (n : CxlPort) (req : Nat) (poison : Bool) (s : State) : Host.Outcome State Fault Refusal :=
  .next (s.drs n.val req poison)

/-! ## A port or an expander fails (R228) -/

/-- A partition's snapshot ring lies in a decoder's range. -/
def State.ringIn (s : State) (p : Nat) (d : DecRec) : Bool :=
  match s.ringRec p with
  | some r => meets r.ringBase (r.rslots * r.slotSize) (decFirst d) (decBytes d)
  | none => false

/-- A ring range fails: ring writes stop, and a copy that is being written is abandoned (13_recovery.md R274). -/
def State.ringDown (s : State) (p n : Nat) : State :=
  let t := match (s.snap p).job with
    | some j => if (s.snap p).state == 1 then (s.dropSnap p j.slot).modSnap p (fun x => { x with job := some { j with slot := none } }) else s
    | none => s
  (t.modSnap p (fun x => { x with ringOk := false })).raise (71 + n) .cellarRingDown [p]

/-- The outstanding requests to a port, or to one downstream port of it, complete with UE; decoders that target it are lost; the
partitions with a region there, in a range not marked RING, fault, and failed ring ranges say so. -/
def State.targetLost (s : State) (n : Nat) (dsp : Option Nat) (named : Nat) : State :=
  let c := s.cxlPort n
  let mine := (c.reqs ++ c.wait).filter (fun r => match dsp with | none => true | some d => r.dsp == d)
  let t := overAll mine (fun r u => u.reqFail n r) s
  let ds := t.cxl.decoders.filter (fun d => t.decTargets d n dsp)
  let t := { t with cxl := { t.cxl with lost := dedup (t.cxl.lost ++ ds.map (fun (d : DecRec) => d.index)) } }
  let t := t.raise (71 + n) .cxlDown [n, named]
  let hit := fun (g : RegionRec) => ds.any (fun d => !d.ring && meets g.base g.size (decFirst d) (decBytes d))
  let t := overAll ((List.range 8).filter (fun p => (s.part p).state != .empty && (s.ownRegions p).any hit))
    (fun p u => u.faultPart p .shared (71 + n)) t
  overAll ((List.range 8).filter (fun p => (s.snap p).ringOk && ds.any (fun d => s.ringIn p d))) (fun p u => u.ringDown p n) t

/-- A port goes down. -/
def State.cxlPortDown (s : State) (n named : Nat) : State :=
  (s.modCxlPort n (fun c => { c with state := 0, lanes := 0, rate := 0 })).targetLost n none named

/-- An expander is declared failed. -/
def State.expanderFail (s : State) (n dsp : Nat) : State :=
  (s.modCxlPort n (fun c => { c with exps := c.exps.map (fun e => if e.dsp = dsp then { e with failed := true } else e) })).targetLost n
    (some dsp) dsp

/-- The downstream port and the address of a request: a numbered one, or an access that a row makes whole. -/
def State.timedOut (s : State) (n i : Nat) (read : Option Nat) : Option (Nat × Nat) :=
  match (s.cxlPort n).reqs.find? (fun r => r.id == i), read with
  | some r, _ => some (r.dsp, r.addr)
  | none, some a =>
    match s.decoderAt a with
    | some d => if (decTarget d a).1 = n ∧ (s.cxlPort n).state = 2 then some ((s.cxlPort n).dsp (decTarget d a).2, a) else none
    | none => none
  | none, none => none

/-- TIMEOUT: the request's expander is declared failed, and the request completes with UE among the others to it. -/
def State.timeout (s : State) (n i : Nat) (read : Option Nat) : State :=
  match s.timedOut n i read with
  | none => s
  | some r => (s.modCxlPort n (fun c => c.noteError kTimeout r.1 r.2)).expanderFail n r.1

def execTimeout (n : CxlPort) (req : Nat) (read : Option Nat) (s : State) : Host.Outcome State Fault Refusal :=
  .next (s.timeout n.val req read)

/-- CXL_LINK_DOWN: a port loses its link or its IDE check, or an expander reports a fatal error. -/
def State.cxlDown (s : State) (n dsp : Nat) (why : CxlDownReason) : State :=
  let c := s.cxlPort n
  match why with
  | .expFatal =>
    let d := c.dsp dsp
    if c.state == 2 && c.exps.any (fun e => e.dsp == d && !e.failed) then
      (s.modCxlPort n (fun c => c.noteError kExpFatal d 0)).expanderFail n d
    else s
  | .ide =>
    if c.state == 2 && s.cxl.ide.getD n false then (s.modCxlPort n (fun c => c.noteError kIde dsp 0)).cxlPortDown n dsp else s
  | _ =>
    if c.state == 1 || c.state == 2 then (s.modCxlPort n (fun c => c.noteError kLinkDown dsp 0)).cxlPortDown n dsp else s

def execCxlLinkDown (n : CxlPort) (dsp : Fin 8) (why : CxlDownReason) (s : State) : Host.Outcome State Fault Refusal :=
  .next (s.cxlDown n.val dsp.val why)

/-! ## Training and enumeration (R219, R224, R230) -/

/-- The port of a CXL_CTL register. -/
def cxlNum : Reg → Nat
  | .cxlCtl n => n
  | _ => 0

def cxlRetrainBody : RowBody := opBody (fun s _ r _ => (s.modCxlPort (cxlNum r) (fun c => { c with state := 1, retrain := true }), ok))

/-- CXL_RETRAIN: the port trains and enumerates. -/
def execCxlRetrain (c : Cmd) (s : State) : Host.Outcome State Fault Refusal :=
  .next (s.host c (isWrite .cxlRetrain) cxlRetrainBody)

def cxlTakeDownBody : RowBody := opBody (fun s _ r _ =>
  let n := cxlNum r
  (if (s.cxlPort n).state == 0 then s else s.cxlPortDown n 0, ok))

/-- CXL_TAKE_DOWN. -/
def execCxlTakeDown (c : Cmd) (s : State) : Host.Outcome State Fault Refusal :=
  .next (s.host c (isWrite .cxlTakeDown) cxlTakeDownBody)

/-- A link that the port accepts (R219). -/
def linkFits (f : CxlFound) : Bool := (f.lanes == 8 || f.lanes == 16) && (f.rate == 32 || f.rate == 64)

/-- The downstream ports of a port that a committed decoder in force targets. -/
def State.targetsOf (s : State) (n : Nat) : List Nat :=
  dedup (((s.cxl.decoders.filter (fun d => !s.cxl.lost.contains d.index)).flatMap (fun d =>
    (List.range (decNports d)).flatMap (fun i =>
      if d.ports.getD i 0 = n then (List.range (decNexp d)).map (fun j => (s.cxlPort n).dsp ((d.dsps.getD i []).getD j 0)) else []))))

/-- CXL_ENUMERATION: what a training port found; no link, or a narrower or slower one, leaves it down: a retraining that the host
ordered has then failed (R227), and a port that a committed decoder targets goes down (R228). A targeted expander that no longer
answers counts as failed (R219). -/
def State.enumerate (s : State) (n : Nat) (found : Option CxlFound) : State :=
  let c := s.cxlPort n
  if c.state ≠ 1 then s
  else
    match found.filter linkFits with
    | none =>
      let s := if c.retrain then s.modCxlPort n (fun c => c.noteError kLinkDown 0 0) else s
      let down := fun (u : State) => u.modCxlPort n (fun c => { c with state := 0, lanes := 0, rate := 0, retrain := false, exps := [] })
      if c.retrain || !(s.targetsOf n).isEmpty || !c.drained then down (s.cxlPortDown n 0) else down s
    | some f =>
      let l := if f.switch then f.exps.take 8 else (f.exps.take 1).map (fun e => { e with dsp := 0 })
      let t := s.modCxlPort n (fun c => { c with
        state := 2, lanes := f.lanes, rate := f.rate, switch := f.switch, retrain := false
        exps := l.map (fun e => { dsp := e.dsp, serial := e.serial, capG := e.capG, failed := false }) })
      overAll ((t.targetsOf n).filter (fun d => !l.any (fun e => e.dsp == d))) (fun d u => u.targetLost n (some d) d) t

def execCxlEnumeration (n : CxlPort) (found : Option CxlFound) (s : State) : Host.Outcome State Fault Refusal :=
  .next (s.enumerate n.val found)

end Sys2Proof.Machine
end

