-- ==== Sys2Proof/Machine/Power.lean ====
section
/-! DEFINITION. Power, resets and rungs: the rows of 18_power_ladder.md, 20_resets_and_retention.md, the boot of
16_trust.md R314 and R315, and the pins of 24_package_and_electrical.md. -/

namespace Sys2Proof.Machine

/-! ## Power (24_package_and_electrical.md R427 to R429) -/

/-- POWER_ON: PWROK rises with VDD_AON above its threshold. -/
def execPowerOn (aonOk : Bool) (s : State) : Host.Outcome State Fault Refusal :=
  .next (if aonOk then s.powerReset .powerOn 1 else s)

/-- POWER_LOSS: PWROK falls; islands 0 to 78 go Off, the brownout monitors disarm, and CXL_PERST_N is driven low. -/
def State.powerLost (s : State) : State :=
  let t := (s.hubLost false).islandsOff IslandSt.restart
  { t with hkp := { t.hkp with
      pwrok := false, monArmed := false, boot := .held, resetting := some .powerOn, armed := [], rung := 0, trans := false
      ready := false, wakeHeld := false, exiting := none, waitEnter := none, waitExit := false, boActive := false
      selfTest := false, testing := [], perstReleased := [], hb78 := none, hb79 := none } }

def execPowerLoss (s : State) : Host.Outcome State Fault Refusal := .next s.powerLost

/-! ## Boot (16_trust.md R314, R315) -/

/-- BOOT: the reset is released and the boot ROM starts, on the starter while that carries island 79 (17_clocks_and_islands.md
R328); the counter floors are loaded. An exit from S4 comes here too
(18_power_ladder.md R347). -/
def State.bootRom (s : State) : State :=
  if s.hkp.boot == .held && s.hkp.pwrok && !s.hkp.wrstLow && !s.hkp.thermTripLow &&
      (s.hkp.rung ≠ 4 || s.hkp.exiting == some 4) then
    let t := (s.startIslands [78]).modIsland 78 (fun i => { i with onStarter := s.hkp.starter && !i.coast })
    let t := overAll t.per.hq (fun e u => u.modQueue e.1 (fun q => { q with floor := e.2 })) t
    { t with hkp := { t.hkp with boot := .rom } }
  else s

def execBoot (s : State) : Host.Outcome State Fault Refusal := .next s.bootRom

/-- A slot that R314 calls valid. -/
def Persist.slotValid (p : Persist) (x : Option FwImage) (sig : Bool) : Bool :=
  match x with
  | none => false
  | some f => f.pkHash == rootHash && sig && decide (p.fwMin.toNat ≤ f.version.toNat)

/-- The slot that starts: after S4 the one that ran before if it still verifies; otherwise the valid one with the higher
version, slot 0 on a tie. -/
def State.bootSlot (s : State) (sig0 sig1 : Bool) : Option (Bool × FwImage) :=
  let a := if s.per.slotValid s.per.fwSlot0 sig0 then s.per.fwSlot0 else none
  let b := if s.per.slotValid s.per.fwSlot1 sig1 then s.per.fwSlot1 else none
  let chosen := match a, b with
    | none, none => none
    | some f, none => some (false, f)
    | none, some g => some (true, g)
    | some f, some g => if f.version.toNat < g.version.toNat then some (true, g) else some (false, f)
  if s.hkp.exiting = some 4 then
    match (if s.cru.fwActive then b else a) with
    | some f => some (s.cru.fwActive, f)
    | none => chosen
  else chosen

/-- What the firmware or the ROM launches next. -/
def State.armStart (s : State) : State :=
  if s.hkp.exiting = some 4 ∧ s.hkp.boot = .firmware then s.arm launchLead (List.range 78) (.rungExit 4)
  else s.arm launchLead (startMask (s.hkp.boot == .recovery)) .startup

/-- FIRMWARE_START: slot verification ends. -/
def State.firmwareStart (s : State) (sig0 sig1 : Bool) : State :=
  if s.hkp.boot ≠ .rom then s
  else
    match s.bootSlot sig0 sig1 with
    | some (n, f) =>
      ({ s with cru := { s.cru with fwActive := n, fwDigest := f.digest, fwVer := f.version },
                hkp := { s.hkp with boot := .firmware } }).armStart
    | none =>
      ({ s with cru := { s.cru with fwDigest := 0, fwVer := 0 }, hkp := { s.hkp with boot := .recovery } }).armStart

def execFirmwareStart (sig0 sig1 : Bool) (s : State) : Host.Outcome State Fault Refusal :=
  .next (s.firmwareStart sig0 sig1)

/-! ## Brownout (R351 to R354) -/

/-- BROWNOUT_RESPONSE: issue is held and the dividers engage; a dip during a response restarts its end. -/
def State.brownout (s : State) (rail : Nat) : State :=
  if !s.hkp.monArmed then s
  else if s.hkp.boActive then { s with hkp := { s.hkp with boResuming := false } }
  else
    let t := overAll (List.range 79) (fun n u => u.modIsland n (fun i =>
      if i.pow = .on ∧ i.coast = false then { i with halved := true } else i)) s
    let t := { t with hkp := { t.hkp with boActive := true, boResuming := false, boRaised := false
                                          boSeq := t.hkp.boSeq + 1, boCount := satAdd t.hkp.boCount 1
                                          boRail := BitVec.ofNat 8 rail } }
    t.markPhases (fun x => { x with brownout := true })

def execBrownoutResponse (rail : Rail) (s : State) : Host.Outcome State Fault Refusal := .next (s.brownout rail.val)

/-- BROWNOUT_END: 50 us above 95 %; the dividers disengage, issue resumes, and a waiting exit starts. -/
def State.brownoutEnd (s : State) : State :=
  if !s.hkp.boActive then s
  else
    let t := overAll (List.range 79) (fun n u => u.modIsland n (fun i => { i with halved := false })) s
    let t := { t with hkp := { t.hkp with boActive := false, boResuming := false } }
    let t := if s.hkp.boRaised then t.raise 79 .brownoutEnd [s.hkp.boSeq.toNat] else t
    if t.hkp.waitExit then t.startExit else t

def execBrownoutEnd (s : State) : Host.Outcome State Fault Refusal := .next s.brownoutEnd

/-- BROWNOUT_LONG: a response is in force 10 ms after it began. -/
def State.brownoutLong (s : State) : State :=
  if !s.hkp.boActive || s.hkp.boRaised then s
  else ({ s with hkp := { s.hkp with boLong := true, boRaised := true } }).raise 79 .brownoutLong
    [s.hkp.boSeq.toNat, s.hkp.boRail.toNat]

def execBrownoutLong (s : State) : Host.Outcome State Fault Refusal := .next s.brownoutLong

/-- BROWNOUT_RESET: the cause and rail are written to the persistent store (R354, R372), which a failed island 79 leaves out of reach
(13_recovery.md R261). -/
def State.brownoutReset (s : State) (rail : Nat) : State :=
  if !s.hkp.monArmed then s
  else (s.persist (fun x => { x with brst := satAdd x.brst 1, brRail := BitVec.ofNat 8 rail })).powerReset .brownout 2

def execBrownoutReset (rail : Rail) (s : State) : Host.Outcome State Fault Refusal := .next (s.brownoutReset rail.val)

/-! ## Pulses on pins (24_package_and_electrical.md R425) -/

/-- A low pulse is taken; between 200 ns and 1 us a free value decides. -/
def State.pulse (s : State) (ns : Nat) : Bool × State :=
  if ns < 200 then (false, s)
  else if 1000 ≤ ns then (true, s)
  else
    let p := s.free
    (p.1.toNat.testBit 0, p.2)

/-- PIN_WARM_RESET. -/
def State.pinWarm (s : State) (ns : Nat) : State :=
  if !s.hkp.pwrok then s
  else
    let p := s.pulse ns
    if !p.1 || p.2.coldHeld then p.2
    else
      let t := p.2.warmReset .pinWarm 3
      { t with hkp := { t.hkp with wrstLow := true } }

def execPinWarmReset (ns : Nat) (s : State) : Host.Outcome State Fault Refusal := .next (s.pinWarm ns)

/-- WRST_N_RISE: the release of a pin warm reset (R374). -/
def execWrstNRise (s : State) : Host.Outcome State Fault Refusal :=
  .next { s with hkp := { s.hkp with wrstLow := false } }

/-- HOST_WAKE: works from any rung; during entry the exit follows at once (R346, R357). -/
def State.hostWake (s : State) (ns : Nat) : State :=
  if !s.hkp.pwrok then s
  else
    let p := s.pulse ns
    if !p.1 then p.2
    else if p.2.hkp.trans then
      (if p.2.hkp.exiting.isNone then { p.2 with hkp := { p.2.hkp with wakeHeld := true } } else p.2)
    else if p.2.hkp.rung = 0 then p.2
    else p.2.startExit

def execHostWake (ns : Nat) (s : State) : Host.Outcome State Fault Refusal := .next (s.hostWake ns)

/-! ## Thermal control (R355, R356) -/

/-- The die of an island: 0 East, 1 West, 2 hub (01_architecture.md R11). -/
def dieOf (n : Nat) : Nat :=
  if n < 24 then 0 else if n < 48 then 1 else if n < 54 then 0 else if n < 60 then 1
  else if n = 60 then 0 else if n = 61 then 1 else 2

/-- Takes the sensors' readings. -/
def State.readTemps (s : State) (l : List Temp) : State :=
  overAll l (fun t u =>
    let v := u.modIsland t.island.val (fun i => { i with temp := t.celsius })
    { v with hkp := { v.hkp with tjmax := if v.hkp.tjmax.toNat < t.celsius.toNat then t.celsius else v.hkp.tjmax } }) s

/-- Every sensor reads below a temperature. -/
def State.coolerThan (s : State) (c : Nat) : Bool :=
  (List.range 80).all (fun n => decide ((s.island n).temp.toNat < c))

/-- Some sensor on a die, or on the hub die, reads 100 C or more. -/
def State.hotDie (s : State) (d : Nat) : Bool :=
  (List.range 80).any (fun n => decide (100 ≤ (s.island n).temp.toNat) && (dieOf n == d || dieOf n == 2))

/-- Lowest duty of the throttle. -/
def dutyMin : Nat := 4

def dutyDown (d : Nat) : Nat := if dutyMin < d then d - 1 else d
def dutyUp (d : Nat) : Nat := if dutyMin ≤ d ∧ d < 16 then d + 1 else d

def State.setDuty (s : State) (e w : Nat) : State :=
  let t := { s with hkp := { s.hkp with dutyE := e, dutyW := w } }
  if t.duty < 16 then t.markPhases (fun x => { x with duty := true }) else t

/-- THERMAL_THROTTLE: one interval of 100 us. -/
def State.throttle (s : State) (l : List Temp) : State :=
  let t := s.readTemps l
  t.setDuty (if t.hotDie 0 then dutyDown t.hkp.dutyE else t.hkp.dutyE)
    (if t.hotDie 1 then dutyDown t.hkp.dutyW else t.hkp.dutyW)

def execThermalThrottle (temps : List Temp) (s : State) : Host.Outcome State Fault Refusal := .next (s.throttle temps)

/-- DUTY_RISE: one interval of 1 ms with every sensor below 97 C. -/
def State.dutyRise (s : State) (l : List Temp) : State :=
  let t := s.readTemps l
  if t.coolerThan 97 then t.setDuty (dutyUp t.hkp.dutyE) (dutyUp t.hkp.dutyW) else t

def execDutyRise (temps : List Temp) (s : State) : Host.Outcome State Fault Refusal := .next (s.dutyRise temps)

/-- THERMAL_MAX: 105 C. -/
def State.thermalMax (s : State) (x : Temp) : State :=
  let t := s.readTemps [x]
  if x.celsius.toNat < 105 then t
  else
    let u := t.setDuty 0 0
    ({ u with hkp := { u.hkp with hot105 := true } }).raise x.island.val .thermalMax [x.island.val, x.celsius.toNat]

def execThermalMax (t : Temp) (s : State) : Host.Outcome State Fault Refusal := .next (s.thermalMax t)

/-- DUTY_RETURN: every sensor below 100 C after THERMAL_MAX. -/
def State.dutyReturn (s : State) (l : List Temp) : State :=
  let t := s.readTemps l
  if t.coolerThan 100 && t.hkp.dutyE == 0 && t.hkp.dutyW == 0 then t.setDuty dutyMin dutyMin else t

def execDutyReturn (temps : List Temp) (s : State) : Host.Outcome State Fault Refusal := .next (s.dutyReturn temps)

/-- THERMAL_TRIP: 115 C; islands 0 to 78 go Off and THERMTRIP_N is driven low until the next power-on. The stored cause
names the island, counted from 1 (entry 19). -/
def State.thermalTrip (s : State) (x : Temp) : State :=
  let t := s.readTemps [x]
  if x.celsius.toNat < 115 ∨ t.hkp.pwrok = false then t
  else
    let u := t.persist (fun y => { y with tripCause := BitVec.ofNat 8 (x.island.val + 1) })
    let u := (u.hubLost false).islandsOff IslandSt.restart
    { u with hkp := { u.hkp with thermTripLow := true, boot := .held, armed := [], rung := 0, trans := false, ready := false
                                 wakeHeld := false, exiting := none, waitEnter := none, waitExit := false
                                 selfTest := false, testing := [] } }

def execThermalTrip (t : Temp) (s : State) : Host.Outcome State Fault Refusal := .next (s.thermalTrip t)

/-! ## Rungs (R344 to R347) -/

/-- ENTER. A partition that a running commit loads does not refuse it: the entry takes effect after the commit (R344,
15_recipes.md R309). A fenced device never enters a rung (20_resets_and_retention.md R379). -/
def enterBody : RowBody := opBody (fun s _ _ v =>
  let r := fieldOf v 7 4
  if s.anyPart (fun x => x == .run || (x == .loading && s.rcp.job.isNone)) then (s.setPwrStatus 1, ok)
  else if s.recovering || s.dev.fenced then (s.setPwrStatus 2, ok)
  else if s.hkp.rung ≠ 0 ∨ s.hkp.trans then (s.setPwrStatus 3, ok)
  else
    let t := s.setPwrStatus 0
    (({ t with hkp := { t.hkp with waitEnter := some r } }).entryWaiting, ok))

def execEnter (c : Cmd) (s : State) : Host.Outcome State Fault Refusal := .next (s.host c (isWrite .enter) enterBody)

/-- EXIT, from S1 and S2; a RUNG beyond 4 placed by the same write is reserved, and nothing acts (R358, 23_register_map.md R408). -/
def exitBody : RowBody := writeBody (fun s _ r v =>
  if 4 < fieldOf v 7 4 then (s.setPwrStatus 4, ok)
  else
  let t := (s.putReg v r).setPwrStatus 0
  if !t.hkp.trans && (t.hkp.rung == 1 || t.hkp.rung == 2) then (t.startExit, ok) else (t, ok))

def execExit (c : Cmd) (s : State) : Host.Outcome State Fault Refusal := .next (s.host c (isWrite .exit) exitBody)

/-- RUNG_ENTRY_DONE. -/
def execRungEntryDone (s : State) : Host.Outcome State Fault Refusal := .next s.entryDone

/-! ## The RESET command (20_resets_and_retention.md R373) -/

/-- Kind and target of a RESET record. -/
def resetKind (c : CmdRec) : Nat := fieldOf c.arg0.toNat 2 0
def resetTarget (c : CmdRec) : Nat := fieldOf c.arg0.toNat 10 4

/-- ARG0 holds no reserved value. -/
def resetOk (c : CmdRec) : Bool :=
  !c.arg0.toNat.testBit 3 && fieldOf c.arg0.toNat 31 11 == 0 &&
    (match resetKind c with
     | 1 | 2 => resetTarget c == 0
     | 3 => decide (resetTarget c < 8)
     | 4 => decide (resetTarget c < 48)
     | _ => false)

/-- A RESET record of a kind; COMMAND_WARM_RESET also takes those with a reserved value. -/
def isReset (k : Nat) (_ : State) (c : CmdRec) : Bool :=
  c.op == opReset && (if resetOk c then resetKind c == k else k == 1)

/-- COMMAND_WARM_RESET: the completion is sent before the reset acts (R373). -/
def commandWarmBody : RowBody := fun s c =>
  if resetOk c.r then ((s.finish c.q.val c.r.htag ok).warmReset .commandWarm 4, .sent)
  else (s, .done stBadOpcode 0 0)

def execCommandWarmReset (c : Cmd) (s : State) : Host.Outcome State Fault Refusal :=
  .next (s.host c (isReset 1) commandWarmBody)

/-- A port's island is reset: buffers, counts and training are lost, and it trains against its standby peer (R377). -/
def PortSt.fabricReset (p : PortSt) : PortSt :=
  if p.state = .unused then { state := .unused } else { state := .training, inPlace := true }

/-- FABRIC_RESET. -/
def fabricBody : RowBody := fun s c =>
  if s.anyPart (fun x => x == .run || x == .loading) then (s, rejected dPartState)
  else
    let t := overAll s.upPorts (fun n u => u.sendPort n .linkStandby) s
    let t := overAll (List.range 9) (fun n u => u.modPort n PortSt.fabricReset) t
    let t := { t with knd := { t.knd with adders := [], ports := [] } }
    let t := t.routeRise.settleRoutes
    ({ t with lnk := { t.lnk with fabJob := some (c.q.val, c.r.htag) } }, .held)

def execFabricReset (c : Cmd) (s : State) : Host.Outcome State Fault Refusal :=
  .next (s.host c (isReset 2) fabricBody)

/-- FABRIC_RESET_DONE: a port that has not come up by now is failed and raises LINK_DOWN (R377). -/
def State.fabricDone (s : State) : State :=
  match s.lnk.fabJob with
  | none => s
  | some j =>
    let late := (List.range 9).filter (fun n => (s.port n).state == .training)
    let t := overAll late (fun n u => (u.modPort n (fun p => { p with state := .failed })).raise (62 + n) .linkDown [n]) s
    ({ t with lnk := { t.lnk with fabJob := none } }).endHeld j.1 j.2 ok

def execFabricResetDone (s : State) : Host.Outcome State Fault Refusal := .next s.fabricDone

/-- What a partition or rack reset does to one rack at once (R378): slots return to their entries, and the stream is
Fenced with everything else kept, the boundary records of its slots among it. -/
def State.resetRack (s : State) (n : Nat) : State :=
  let kept := (s.rack n).slots.filter (fun e => !e.2.bounds.isEmpty)
  (overAll kept (fun e u => u.modSlot n e.1 (fun x => { x with bounds := e.2.bounds })) (s.resetSlots n)).modStream n
    (fun t => { t with state := .fenced })

/-- A reset in progress is abandoned without a completion by one that reaches more islands, and its queue goes on (R382). -/
def State.abandonReset (s : State) (j : Option (Nat × BitVec 16)) : State :=
  match j with
  | none => s
  | some x => s.modQueue x.1 (fun t => { t with busy := false })

/-- The self-test of racks is armed: it starts at a launch (17_clocks_and_islands.md R338). -/
def State.testRacks (s : State) (l : List Nat) : State :=
  ({ s with hkp := { s.hkp with testing := s.hkp.testing.filter (fun n => !l.contains n) } }).arm launchLead l .selfTest

/-- PARTITION_RESET. -/
def partitionResetBody : RowBody := fun s c =>
  let p := resetTarget c.r
  match (s.part p).state with
  | .run | .loading | .empty => (s, rejected dPartState)
  | _ =>
    let t := s.abandonReset (s.part p).resetting
    let t := overAll (s.racksOf p) (fun n u =>
      ((u.abandonReset (u.rack n).resetting).modRack n (fun r => { r with resetting := none })).resetRack n) t
    ((t.modPart p (fun x => { x with resetting := some (c.q.val, c.r.htag) })).testRacks (s.racksOf p), .held)

def execPartitionReset (c : Cmd) (s : State) : Host.Outcome State Fault Refusal :=
  .next (s.host c (isReset 3) partitionResetBody)

/-- RACK_RESET. -/
def rackResetBody : RowBody := fun s c =>
  let n := resetTarget c.r
  let refuse : Bool :=
    match s.partOf n with
    | none => false
    | some p => (s.part p).state == .run || (s.part p).state == .loading || (s.part p).resetting.isSome
  if refuse then (s, rejected dPartState)
  else ((((s.abandonReset (s.rack n).resetting).resetRack n).modRack n (fun r => { r with resetting := some (c.q.val, c.r.htag) })).testRacks [n],
    .held)

def execRackReset (c : Cmd) (s : State) : Host.Outcome State Fault Refusal :=
  .next (s.host c (isReset 4) rackResetBody)

/-! ## Self-test (04_trays_racks_partitions.md R76, R77, R93; R378) -/

/-- What self-test found in a rack. -/
def failedOf (l : List (Rack × BitVec 32)) (n : Nat) : BitVec 32 :=
  ((l.find? (fun e => e.1.val == n)).map (fun e => e.2)).getD 0

/-- FAILED is written, with island 79's copy (R375). -/
def State.writeFailed (s : State) (n : Nat) (f : BitVec 32) : State :=
  let t := s.modRack n (fun r => { r with failed := f })
  { t with hkp := { t.hkp with failedCopy := tset t.hkp.failedCopy 0 n f } }

/-- A rack passes R76: no failed tray is in service. -/
def State.rackPasses (s : State) (n : Nat) : Bool := (s.rack n).failed &&& ~~~(s.rack n).exclude == 0

/-- The end of a partition reset. -/
def State.partitionResetDone (s : State) (p : Nat) (l : List (Rack × BitVec 32)) : State :=
  match (s.part p).resetting with
  | none => s
  | some j =>
    let racks := s.racksOf p
    let t := overAll racks (fun n u => u.writeFailed n (failedOf l n)) s
    let t := overAll racks (fun n u => (u.modRack n (fun r => { r with taskFault := {}, taken := 0, skipped := 0 })).modIsland n
      (fun i => { i with stopped := false })) t
    let pass := racks.all (fun n => t.rackPasses n)
    let t := t.modPart p (fun x => { x with resetting := none, cause := 0, faultedMark := false, state := .ready })
    let t := if pass then t else t.emptyPart p
    t.endHeld j.1 j.2 ok

/-- The end of a rack reset: a newly failed tray in service faults the partition with cause TRAY. -/
def State.rackResetDone (s : State) (n : Nat) (l : List (Rack × BitVec 32)) : State :=
  match (s.rack n).resetting with
  | none => s
  | some j =>
    let old := (s.rack n).failed
    let t := (s.writeFailed n (failedOf l n)).modRack n (fun r => { r with resetting := none })
    let bad := (t.rack n).failed &&& ~~~old &&& ~~~(t.rack n).exclude != 0
    let t := match t.partOf n with
      | some p => if bad then t.faultPart p .tray n else t
      | none => t
    t.endHeld j.1 j.2 ok

/-- The launched self-test of every rack of a list runs (17_clocks_and_islands.md R338). -/
def State.tested (s : State) (l : List Nat) : Bool := l.all (fun n => s.hkp.testing.contains n)

/-- SELF_TEST_DONE: of a start-up or of an exit from S3 or S4, of the partition resets and of the rack resets, each
where its launch has started the test. -/
def State.selfTestDone (s : State) (l : List (Rack × BitVec 32)) : State :=
  let t := if s.hkp.selfTest && s.tested (List.range 48) then
      let t := overAll (List.range 48) (fun n u => u.writeFailed n (failedOf l n)) s
      let t := { t with hkp := { t.hkp with selfTest := false } }
      let t := t.idleRacksOff
      if t.hkp.exiting.isSome then { t with hkp := { t.hkp with rung := 0, trans := false, exiting := none } } else t
    else s
  let t := overAll ((List.range 8).filter (fun p => s.tested (s.racksOf p))) (fun p u => u.partitionResetDone p l) t
  let t := overAll ((List.range 48).filter (fun n => s.tested [n])) (fun n u => u.rackResetDone n l) t
  { t with hkp := { t.hkp with testing := [] } }

def execSelfTestDone (failed : List (Rack × BitVec 32)) (s : State) : Host.Outcome State Fault Refusal :=
  .next (s.selfTestDone failed)

/-! ## Ready (R374, R347) -/

/-- Codes of RST_STAT.LAST (R383). -/
def resetCode : ResetKind → Nat
  | .powerOn => 1 | .brownout => 2 | .pinWarm => 3 | .commandWarm => 4

/-- DEVICE_READY: link, CXL and Queros training have ended. After a device reset the event names its kind. -/
def State.deviceReady (s : State) : State :=
  if s.hkp.boot ≠ .firmware ∨ s.hkp.selfTest ∨ s.hkp.rung ≠ 0 ∨ s.hkp.trans ∨ s.isOn 77 = false ∨ s.hkp.ready ∨ s.cxl.ports.any (fun e => e.2.state == 1) then s
  else
    let t := ({ s with hkp := { s.hkp with ready := true, resetting := none } }).idleRacksOff
    match s.hkp.resetting with
    | none => t
    | some k => t.raise srcUnit .deviceReset [resetCode k]

def execDeviceReady (s : State) : Host.Outcome State Fault Refusal := .next s.deviceReady

end Sys2Proof.Machine
end

