-- ==== Sys2Proof/Machine/Snapshot.lean ====
section
/-! DEFINITION. The commands and words of snapshots (13_recovery.md R250, R256 to R258, R275): SNP_CTL and SNP_CMD, the twin
store, and how a snapshot is secured. -/

namespace Sys2Proof.Machine

/-! ## SNP_CTL_WRITE (R275) -/

/-- The partition of an SNP_CTL register. -/
def snpPart : Reg → Nat
  | .snpCtl p => p
  | _ => 0

/-- A step of a partition is open or sealed. -/
def PartSt.opened (x : PartSt) (step : Step) : Bool := x.everOpen && !newer step x.openReg

/-- SNP_CTL_WRITE: K and FULL from a step on; nothing is written when that step has opened. -/
def snpCtlBody : RowBody := writeBody (fun s _ r v =>
  let p := snpPart r
  let step := BitVec.ofNat 32 (fieldOf v 63 32)
  if (s.part p).opened step then (s.modSnap p (fun x => { x with status := 1 }), ok)
  else
    (s.modSnap p (fun x => { x.change step (BitVec.ofNat 16 (fieldOf v 31 16)) (v.testBit 0) with status := 0, step := step }), ok))

def execSnpCtlWrite (c : Cmd) (s : State) : Host.Outcome State Fault Refusal := .next (s.host c (isWrite .snpCtl) snpCtlBody)

/-! ## Securing (R258) -/

/-- The ring slot that holds a step with its manifest written. -/
def State.slotOf (s : State) (p : Nat) (step : Step) : Option Nat :=
  match s.ringRec p with
  | none => none
  | some r => (List.range r.rslots).find? (fun i =>
      ((s.snap p).ring i).used && ((s.snap p).ring i).step == step && ((s.snap p).ring i).manifest.isSome)

/-- The snapshot of a step is secured: the newest one is recorded, and SNAP_SECURED names the step and the rank. -/
def State.secure (s : State) (p : Nat) (step : Step) (how : BitVec 2) (slot : Nat) : State :=
  let x := s.snap p
  if x.secured = step ∧ x.by_ ≠ 0 then s
  else
    let t := s.modSnap p (fun y =>
      let y := if y.by_ = 0 ∨ newer step y.secured then { y with secured := step, by_ := how, slot := slot } else y
      match y.job with
      | some j => if j.step = step ∧ y.state = 2 then { y with job := none, state := 0 } else y
      | none => y)
    t.raise 78 .snapSecured [p, step.toNat, s.lnk.rank.toNat]

/-! ## SNP_CMD (R256, R275) -/

/-- Fields of SNP_CMD. -/
def snpCmdStep (v : Nat) : Step := BitVec.ofNat 32 (fieldOf v 63 32)
def snpCmdPart (v : Nat) : Nat := fieldOf v 14 12
def snpCmdSlot (v : Nat) : Nat := fieldOf v 11 6

/-- The outcome that SNP_CMDST reports. -/
def State.snpDone (s : State) (v : Nat) (status : BitVec 4) : State :=
  { s with rreg := { s.rreg with snpCmdPart := BitVec.ofNat 3 (snpCmdPart v), snpCmdStatus := status } }

/-- HOSTACK. -/
def hostackBody : RowBody := opBody (fun s _ _ v =>
  let p := snpCmdPart v
  match s.slotOf p (snpCmdStep v) with
  | some i => ((s.snpDone v 0).secure p (snpCmdStep v) 2 i, ok)
  | none => (s.snpDone v 1, ok))

def execHostack (c : Cmd) (s : State) : Host.Outcome State Fault Refusal := .next (s.host c (isWrite .hostack) hostackBody)

/-- Sets or clears the hold of a slot. -/
def holdBits (h : BitVec 64) (i : Nat) (on : Bool) : BitVec 64 :=
  if on then h ||| BitVec.ofNat 64 (2 ^ i) else h &&& ~~~BitVec.ofNat 64 (2 ^ i)

/-- HOLD and RELEASE of a ring slot. -/
def State.holdSlot (s : State) (v : Nat) (on : Bool) : State :=
  let p := snpCmdPart v
  let n := (((s.slice p).bind (fun c => c.snap)).map (fun r => r.rslots)).getD 0
  if snpCmdSlot v < n then (s.snpDone v 0).modSnap p (fun x => { x with hold := holdBits x.hold (snpCmdSlot v) on })
  else s.snpDone v 2

def holdBody : RowBody := opBody (fun s _ _ v => (s.holdSlot v true, ok))

def execHold (c : Cmd) (s : State) : Host.Outcome State Fault Refusal := .next (s.host c (isWrite .hold) holdBody)

/-- RING_SLOT_RELEASE. -/
def ringReleaseBody : RowBody := opBody (fun s _ _ v => (s.holdSlot v false, ok))

def execRingSlotRelease (c : Cmd) (s : State) : Host.Outcome State Fault Refusal :=
  .next (s.host c (isWrite .ringRelease) ringReleaseBody)

/-! ## The twin store (R257) -/

/-- Base and size of this device's twin store. -/
def State.twinStore (s : State) : Option (Nat × Nat) :=
  match s.rcp.links with
  | some l => if l.twinNamed && decide (0 < l.twinSize) then some (l.twinBase, l.twinSize) else none
  | none => none

/-- Two slots for each of the eight partitions of the partner. -/
def twinSlots : Nat := 16

/-- Address of a byte of a twin slot. -/
def twinAddr (base size : Nat) (x : TwinSlot) (off : Nat) : Nat := base + (2 * (x.part % 8) + x.alt % 2) * (size / twinSlots) + off

/-- Offset of a shard in a slot: shards follow one another from 1 MiB, each on a 4 KiB boundary (R256). -/
def TwinSlot.soff (x : TwinSlot) (midx : Nat) : Nat :=
  if midx = midxManifest then 0
  else (List.range midx).foldl (fun a j => a + ceilTo (tget x.lens 0 j) shardAlign) shardsAt

def sameTwin (a b : TwinSlot) : Bool := a.part == b.part && a.alt == b.alt

/-- The slot of a partner's snapshot: the one acknowledged last, before one that is being received. -/
def State.twinSlot (s : State) (part : Nat) (step : Step) : Option TwinSlot :=
  let l := s.rreg.twin.filter (fun x => x.part == part && x.step == step)
  ((l.filter (fun x => x.acked)).getLast?).orElse (fun _ => l.head?)

/-- The slot in which a partner's snapshot is being received. -/
def State.twinOpen (s : State) (part : Nat) (step : Step) : Option TwinSlot :=
  s.rreg.twin.find? (fun x => x.part == part && x.step == step && !x.acked)

def State.putTwin (s : State) (x : TwinSlot) : State :=
  { s with rreg := { s.rreg with twin := s.rreg.twin.filter (fun y => !sameTwin y x) ++ [x] } }

/-- The slot that a new snapshot overwrites: never the one of the snapshot acknowledged last, which stands last in the table; without one,
a free slot, else that of the older step. -/
def twinAlt (l : List TwinSlot) (part : Nat) : Nat :=
  match (l.filter (fun x => x.part == part && x.acked)).getLast? with
  | some x => 1 - x.alt
  | none =>
    match l.find? (fun x => x.part == part && x.alt == 0), l.find? (fun x => x.part == part && x.alt == 1) with
    | none, _ => 0
    | some _, none => 1
    | some x, some y => if newer x.step y.step then 1 else 0

/-- The twin's answer, on the device stream. -/
def State.twinAnswer (s : State) (k : Packet) (b : Body) : State := s.sendDevice k.part.val k.src (s.predicted portT) k.step b

/-- A snapshot that is refused: NAK once, and what follows of it is disregarded. -/
def State.twinRefuse (s : State) (x : TwinSlot) (k : Packet) : State := (s.putTwin { x with bad := true }).twinAnswer k .snapNak

/-- The shards of a manifest, read where the slot holds them up to the first that does not verify; whether all of them do. -/
def State.shardsVerify (s : State) (at_ : Nat → Nat) (m : Manifest) : State × Bool :=
  m.shards.foldl (fun a e =>
    if !a.2 then a
    else
      let r := a.1.snapRead (at_ e.soff) e.len
      (r.1, r.2.any (fun b => shardDigest m.step m.rank.toNat e.kind e.bid.toNat b == e.digest))) (s, true)

/-- Once the whole manifest is here the snapshot is checked and answered. -/
def State.twinCheck (s : State) (base size : Nat) (x : TwinSlot) (k : Packet) : State :=
  let at_ := twinAddr base size x
  let got := tget x.lens 0 midxManifest
  let r := s.snapRead (at_ 0) got
  match r.2 with
  | none => r.1.twinRefuse x k
  | some b =>
    if got < manifestLen 0 ∨ got < manifestLen (leNat ((b.drop 16).take 4)) then r.1.putTwin x
    else
      match (manifestOf b).filter (fun m => m.step == k.step && m.part == k.part.val) with
      | some m =>
        let v := r.1.shardsVerify at_ m
        if v.2 then (v.1.putTwin { x with acked := true }).twinAnswer k .snapAck else v.1.twinRefuse x k
      | none => r.1.twinRefuse x k

/-- One piece of a snapshot goes into its slot. -/
def State.twinPiece (s : State) (base size : Nat) (x : TwinSlot) (k : Packet) (midx off : Nat) (d : List Byte) : State :=
  let o := x.soff midx + off * shardAlign
  if size / twinSlots < o + d.length then s.twinRefuse x k
  else
    let w := s.write .snapshot (twinAddr base size x o) d
    if w.2.isSome then w.1.twinRefuse x k
    else
      let n := max (tget x.lens 0 midx) (off * shardAlign + d.length)
      let x := { x with lens := tset x.lens 0 midx n }
      if midx = midxManifest then w.1.twinCheck base size x k else w.1.putTwin x

/-- SNAP: the partner's snapshot data; its first piece starts a slot anew. What comes after the acknowledgement of a step is that step's
snapshot taken again (R265, R274), in the other slot. -/
def State.snapPacket (t : State) (k : Packet) : State :=
  match k.body, t.twinStore with
  | .snap midx off d, some (base, size) =>
    if t.twinRank ≠ some k.src.toNat ∨ !t.snapRuns then t
    else
      let part := k.part.val
      let fresh : TwinSlot := { part := part, alt := twinAlt t.rreg.twin part, step := k.step }
      (match t.twinOpen part k.step with
       | none => t.twinPiece base size fresh k midx off d
       | some x =>
         if midx = 0 ∧ off = 0 then t.twinPiece base size { x with lens := [], bad := false } k midx off d
         else if x.bad then t
         else t.twinPiece base size x k midx off d)
  | _, _ => t

def execSnap (k : Packet) (s : State) : Host.Outcome State Fault Refusal :=
  .next (s.word k (· matches .snap ..) (fun t => t.snapPacket k))

/-! ## The twin's answers (R258) -/

/-- A word of the twin partner. -/
def State.fromTwin (s : State) (k : Packet) : Bool := s.twinRank == some k.src.toNat

/-- SNAP_ACK: a snapshot whose manifest has been written is secured. -/
def State.snapAcked (t : State) (k : Packet) : State :=
  let p := k.part.val
  let x := t.snap p
  if k.body = .snapAck ∧ t.fromTwin k ∧ x.taken ≠ 0xFFFFFFFF ∧ newer k.step x.taken = false then
    t.secure p k.step 1 ((t.slotOf p k.step).getD 0)
  else t

def execSnapAck (k : Packet) (s : State) : Host.Outcome State Fault Refusal :=
  .next (s.word k (· matches .snapAck) (fun t => t.snapAcked k))

/-- SNAP_NAK: the snapshot is never secured, and its ring slot is freed; what is still tapped of it is abandoned (R258). -/
def State.snapNaked (t : State) (k : Packet) : State :=
  let p := k.part.val
  let x := t.snap p
  if k.body = .snapNak ∧ t.fromTwin k ∧ !(x.secured == k.step && x.by_ != 0) then
    (t.dropSnap p (t.slotOf p k.step)).modSnap p (fun y =>
      match y.job with
      | some j =>
        if j.step = k.step then
          { (match j.slot with | some i => y.setRing i {} | none => y) with
              state := 0, job := if y.state = 1 then some { j with abandoned := true, slot := none } else none }
        else y
      | none => y)
  else t

def execSnapNak (k : Packet) (s : State) : Host.Outcome State Fault Refusal :=
  .next (s.word k (· matches .snapNak) (fun t => t.snapNaked k))

end Sys2Proof.Machine
end

