-- ==== Sys2Proof/Machine/Recovery.lean ====
section
/-! DEFINITION. Recovery and migration (13_recovery.md R260 to R275): the commands of RCV_CMD, fills and their sources, the
restore of a partition, and the words of recovery. -/

namespace Sys2Proof.Machine

/-! ## RCV_CMD and recovery epochs (R263, R275) -/

/-- Fields of RCV_CMD and RCV_ARG. -/
def rcvStep (v : Nat) : Step := BitVec.ofNat 32 (fieldOf v 63 32)
def rcvEpoch (v : Nat) : BitVec 16 := BitVec.ofNat 16 (fieldOf v 31 16)
def rcvPart (v : Nat) : Nat := fieldOf v 6 4
def argEpoch (a : BitVec 64) : BitVec 16 := BitVec.ofNat 16 (fieldOf a.toNat 63 48)
def argRank (a : BitVec 64) : BitVec 14 := BitVec.ofNat 14 (fieldOf a.toNat 45 32)
def argMidx (a : BitVec 64) : Nat := fieldOf a.toNat 31 14
def argCoord (a : BitVec 64) : BitVec 14 := BitVec.ofNat 14 (fieldOf a.toNat 13 0)

/-- RCV_STATUS.STATUS. -/
def stEpochOld : BitVec 4 := 1
def stStepPassed : BitVec 4 := 2
def stBusyRcv : BitVec 4 := 3
def stFillFail : BitVec 4 := 4

def State.rcvStatus (s : State) (p : Nat) (c : BitVec 4) : State := s.modRecov p (fun y => { y with status := c })

/-- The epoch rises: what the older one was doing stops, a release of the streams that its RESUME armed too (R263). -/
def State.newEpoch (s : State) (p : Nat) (e : BitVec 16) : State :=
  ({ s with hkp := { s.hkp with armed := s.hkp.armed.filter (fun a => a.action != LaunchAction.streamRelease p) } }).modRecov p (fun y =>
    { y with repoch := e, status := 0, restoredSent := false })

/-- A recovery command whose epoch is not newer is rejected; any other acts in its new epoch. -/
def rcvBody (act : State → Nat → Nat → State) : RowBody := opBody (fun s _ _ v =>
  let p := rcvPart v
  if newer (rcvEpoch v) (s.recov p).repoch then (act (s.newEpoch p (rcvEpoch v)) p v, ok)
  else (s.rcvStatus p stEpochOld, ok))

/-- A partition that a recovery may act on: loaded, not faulted, on a device that is not fenced. -/
def State.recoverable (s : State) (p : Nat) : Bool :=
  !s.dev.fenced && ((s.part p).state == .run || (s.part p).state == .halted || (s.part p).state == .ready)

/-! ## FENCE_SELF and ROLLBACK (R260, R264) -/

def fenceSelfBody : RowBody := rcvBody (fun s _ _ => s.fenceDevice 3)

/-- FENCE_SELF. -/
def execFenceSelf (c : Cmd) (s : State) : Host.Outcome State Fault Refusal :=
  .next (s.host c (isWrite .fenceSelf) fenceSelfBody)

/-! ## What recovery sends (R262) -/

/-- The FENCE that stands before recovery packets (R262). -/
def recoveryFence (x : Stream) : Body := .fence x.id x.epoch x.epoch true (x.txseq - 1) x.txseq

/-- Before its first recovery packet of a recovery epoch to a device, the stream that carries them is fenced there. -/
def State.fenceFor (s : State) (p : Nat) (e : BitVec 16) (dst dcoord : BitVec 14) : State :=
  let key := (dcoord.toNat, e, p)
  if s.rreg.fencedTo.contains key then s
  else
    let n := s.sealRack p
    ({ s with rreg := { s.rreg with fencedTo := s.rreg.fencedTo ++ [key] } }).sendTo n p dst dcoord 0 (recoveryFence (s.rack n).stream)

/-- The fences of every stream to the partition's peers stand for those of the recovery epoch. -/
def State.noteFenced (s : State) (p : Nat) : State :=
  let l := (s.fencePeers p).map (fun r => ((s.rtEntry r).coord.toNat, (s.recov p).repoch, p))
  { s with rreg := { s.rreg with fencedTo := s.rreg.fencedTo ++ l.filter (fun k => !s.rreg.fencedTo.contains k) } }

/-- The fence before a recovery word to a rank, where the routing table has it; to an unused or a fenced rank it ends here, as the word
does (12_links_and_ordering.md R240). -/
def State.fenceRank (s : State) (p : Nat) (r : BitVec 14) : State :=
  let e := s.rtEntry r.toNat
  if r = s.lnk.rank then s
  else if e.state = .active then s.fenceFor p (s.recov p).repoch r e.coord
  else s.sendSeal p r 0 (recoveryFence (s.rack (s.sealRack p)).stream)

/-- The same for the device stream of a twin store. -/
def State.fenceTwin (s : State) (p : Nat) (dst dcoord : BitVec 14) (e : BitVec 16) : State :=
  let key := (dcoord.toNat, e, 8 + p)
  if s.rreg.fencedTo.contains key then s
  else
    let x := s.lnk.devSeq
    ({ s with rreg := { s.rreg with fencedTo := s.rreg.fencedTo ++ [key] } }).sendDevice p dst dcoord 0
      (.fence 0xFFFF 0 0 true (x - 1) x)

/-! ## Sources of a fill (R266) -/

/-- Codes of the fill map. -/
def srcCode : FillSrc → Nat
  | .ring => 1 | .twin => 2 | .peer => 3 | .host => 4

def fPending : Nat := 0
def fFilling : Nat := 1
def fVerified : Nat := 2
def fFailed : Nat := 3

/-- The order in which sources are tried. -/
def RcvSt.order (y : RcvSt) : List FillSrc :=
  if y.migration.isSome then [.peer, .twin, .ring, .host] else if y.spare then [.twin, .ring, .host] else [.ring, .twin, .host]

/-- The first source that has not failed for a shard and is not skipped. -/
def RcvSt.nextSrc (y : RcvSt) (tried : List FillSrc) : Option FillSrc :=
  y.order.find? (fun x => !tried.contains x && !y.skip.contains x)

/-- The sources after one in the order, for the manifest. -/
def RcvSt.laterSrc (y : RcvSt) : Option FillSrc :=
  ((y.order.dropWhile (fun x => x != y.manifestSrc)).tail).find? (fun x => !y.skip.contains x)

/-- Where a rank stood when it took the snapshot of a step: an earlier place that it was moved from, or the present one (R271). -/
def RcvSt.coordAt (y : RcvSt) (rank own : BitVec 14) (step : Step) : BitVec 14 :=
  ((y.former.find? (fun x => x.2.1 == rank && !newer step x.1)).map (fun x => x.2.2)).getD own

/-- A rank has come here from another place, with everything up to a step. -/
def RcvSt.movedFrom (y : RcvSt) (step : Step) : RcvSt := { y with former := y.former ++ [(step, y.rank, y.coord)] }

/-- A restore to a point: later snapshots are taken here again. -/
def RcvSt.clampFormer (y : RcvSt) (point : Step) : RcvSt :=
  { y with former := y.former.map (fun x => (if newer x.1 point then point else x.1, x.2)) }

/-- Where a remote source stands: rank and coordinate. The rank at a coordinate is what the routing table says; the twin is that of the
coordinate which the manifest names, once it is here (R266, R271). -/
def State.srcPlace (s : State) (p : Nat) (src : FillSrc) : Option (BitVec 14 × BitVec 14) :=
  let y := s.recov p
  match src with
  | .ring => if y.spare || y.coord != s.ownCoord then some (y.rank, y.coord) else none
  | .peer => if y.spare then some (y.rank, y.coord) else none
  | .twin =>
    let at_ := (y.manifest.map (fun m => m.coord)).getD y.coord
    let f := coordOf at_
    let c := coordMk f.1 f.2.1 f.2.2.1 f.2.2.2.1 (1 - coordSys at_)
    (s.lnk.table.find? (fun e => e.2.coord == c)).map (fun e => (BitVec.ofNat 14 e.1, c))
  | .host => none

/-- Asks a source for a shard or the manifest from an offset. -/
def State.fillAsk (s : State) (p midx offset : Nat) (at_ : BitVec 14 × BitVec 14) : State :=
  let y := s.recov p
  (s.fenceFor p y.repoch at_.1 at_.2).sendTo (s.sealRack p) p at_.1 at_.2 y.point (.fillReq y.repoch y.rank midx offset s.ownCoord)

/-- The 32 bytes of a fill-map entry. -/
def fillBytes (e : FillEnt) : List Byte :=
  leBytes 4 e.midx ++ [BitVec.ofNat 8 e.state, BitVec.ofNat 8 (srcCode e.src),
    BitVec.ofNat 8 (e.tried.foldl (fun a x => a ||| 2 ^ srcCode x) 0), 0] ++ leBytes 8 e.done ++ leBytes 8 e.len ++ leBytes 8 0

/-- Writes an entry of the map, and its copy in the FILLMAP region. -/
def State.putFill (s : State) (p : Nat) (e : FillEnt) : State :=
  let t := s.modRecov p (fun y => { y with map := y.map.map (fun x => if x.midx = e.midx then e else x) })
  match (s.slice p).bind (fun c => c.snap) with
  | some r => (t.write .snapshot (r.fillmap + 32 * e.midx) (fillBytes e)).1
  | none => t

/-- The fill map of a manifest: every shard pending. -/
def fillMapOf (m : Manifest) (src : FillSrc) : List FillEnt :=
  m.shards.zipIdx.map (fun x => { midx := x.2, state := fPending, src := src, tried := [], done := 0, len := x.1.len, data := [] })

/-- The manifest is here: the map starts. -/
def State.startMap (s : State) (p : Nat) (m : Manifest) : State :=
  let l := fillMapOf m (s.recov p).manifestSrc
  overAll l (fun e u => u.putFill p e) (s.modRecov p (fun y => { y with manifest := some m, map := l }))

/-- The chunk in which a source continues. -/
def fillChunk : Nat := 2 ^ 20

/-- The digest of a shard's bytes agrees with the manifest. -/
def shardGood (m : Manifest) (i : Nat) (b : List Byte) : Bool :=
  match m.shards[i]? with
  | some e => b.length == e.len && shardDigest m.step m.rank.toNat e.kind e.bid.toNat b == e.digest
  | none => false

/-- A manifest is the one that a fill wants. -/
def RcvSt.wants (y : RcvSt) (p : Nat) (m : Manifest) : Bool := m.step == y.point && m.part == p && m.rank == y.rank

/-! ### HOST (R266; entry 35) -/

/-- The ring slot in which host software places the bytes of a point. -/
def State.hostSlot (s : State) (p : Nat) : Option (SnapRec × Nat) :=
  match s.ringRec p with
  | none => none
  | some r =>
    let x := s.snap p
    let y := s.recov p
    match (List.range r.rslots).find? (fun i => (x.ring i).used && (x.ring i).step == y.point) with
    | some i => some (r, i)
    | none => (x.oldest r.rslots).map (fun i => (r, i))

/-- Where host software places a byte of a point: in the ring slot, or where the spec does not say, for a partition without a ring. -/
def State.hostAt (s : State) (p midx off : Nat) : Nat :=
  match s.hostSlot p with
  | some h => ringAddr h.1 h.2 off
  | none => Config.fillHostAt p midx

/-- Asks host software for a shard or the manifest: FILL_HOST names it and its destination. -/
def State.hostAsk (s : State) (p midx off : Nat) : State :=
  (s.modSnap p (fun x =>
    match s.hostSlot p with
    | some h =>
      if (x.ring h.2).used && (x.ring h.2).step == (s.recov p).point then x
      else x.setRing h.2 { step := (s.recov p).point, used := true }
    | none => x)).raise (srcPart p) .fillHost [p, midx, s.hostAt p midx off]

/-! ### The device's own ring -/

/-- The own ring slot of a fill's point. -/
def State.ownSlot (s : State) (p : Nat) : Option (SnapRec × Nat) :=
  match s.ringRec p, s.slotOf p (s.recov p).point with
  | some r, some i => some (r, i)
  | _, _ => none

/-- RING is the own ring: of a survivor, but where the rank stood elsewhere at the point and the own ring does not hold it (R271). -/
def State.ownRing (s : State) (p : Nat) : Bool :=
  !(s.recov p).spare && ((s.recov p).coord == s.ownCoord || (s.ownSlot p).isSome)

/-- Bytes of the own ring slot. -/
def State.ownRead (s : State) (p off n : Nat) : State × Option (List Byte) :=
  match s.ownSlot p with
  | some h => s.snapRead (ringAddr h.1 h.2 off) n
  | none => (s, none)

/-- The manifest of the own ring slot. -/
def State.ownManifest (s : State) (p : Nat) : State × Option Manifest :=
  match s.ownSlot p with
  | some h => s.slotManifest (ringAddr h.1 h.2)
  | none => (s, none)

/-! ## The fill (R266, R267) -/

/-- A recovery waits for host software: a shard, or the manifest, has no source left. -/
def State.fillFail (s : State) (p midx : Nat) : State :=
  (s.modRecov p (fun y => { y with state := 6, status := stFillFail })).raise (srcPart p) .fillFail [p, midx]

/-- One move of a fill for the manifest: what it leaves, and whether the fill can go on without waiting. -/
def State.manifestMove (s : State) (p : Nat) : State × Bool :=
  let y := s.recov p
  let fail := fun (t : State) =>
    match y.laterSrc with
    | some x => (t.modRecov p (fun z => { z with manifestSrc := x, manifestData := [] }), true)
    | none => (t.fillFail p midxManifest, false)
  if y.skip.contains y.manifestSrc then fail s
  else
    match y.manifestSrc with
    | .host => (s.hostAsk p midxManifest 0, false)
    | src =>
      if src = .ring ∧ s.ownRing p = true then
        let r := s.ownManifest p
        match r.2.filter (y.wants p) with
        | some m => (r.1.startMap p m, true)
        | none => fail r.1
      else
        match s.srcPlace p src with
        | some a => (s.fillAsk p midxManifest 0 a, false)
        | none => fail s

/-- Offset of a shard in its slot. -/
def Manifest.soff (m : Manifest) (midx : Nat) : Nat := ((m.shards[midx]?).map (fun x => x.soff)).getD 0

/-- A shard as a source found it failing: that source is marked. A digest that fails starts it at 0 again; else it goes on at DONE
(R266, R267). -/
def FillEnt.failed (e : FillEnt) (src : FillSrc) (anew : Bool) : FillEnt :=
  { e with tried := e.tried ++ [src], done := if anew then 0 else e.done, data := if anew then [] else e.data.take e.done }

/-- One move of a fill for a shard that is not verified: it goes on at DONE. -/
def State.shardMove (s : State) (p : Nat) (m : Manifest) (e : FillEnt) : State × Bool :=
  let y := s.recov p
  match y.nextSrc e.tried with
  | none => ((s.putFill p { e with state := fFailed }).fillFail p e.midx, false)
  | some src =>
    let x := { e with state := fFilling, src := src, data := e.data.take e.done }
    match src with
    | .host => ((s.hostAsk p e.midx (m.soff e.midx)).putFill p x, false)
    | _ =>
      if src = .ring ∧ s.ownRing p = true then
        let r := s.ownRead p (m.soff e.midx + e.done) (e.len - e.done)
        match r.2 with
        | none => (r.1.putFill p (e.failed src false), true)
        | some b =>
          if shardGood m e.midx (x.data ++ b) then (r.1.putFill p { x with state := fVerified, done := e.len, data := x.data ++ b }, true)
          else (r.1.putFill p (e.failed src true), true)
      else
        match s.srcPlace p src with
        | some a => ((s.putFill p x).fillAsk p e.midx e.done a, false)
        | none => (s.putFill p (e.failed src false), true)

/-! ## Restoring a partition (R254, R265) -/

/-- Issued work is abandoned, and everything of the steps from one on is dropped (R265; R89). -/
def State.abandonWork (s : State) (p : Nat) (step : Step) : State :=
  let racks := s.racksOf p
  let t := overAll racks (fun n u => u.modRack n (fun r => { r with slots := [], holdFor := none, stream := { r.stream with state := .rewinding } })) s
  let t := { t with signals := t.signals.filter (fun x => !racks.contains x.1) }
  let t := t.modPart p (fun x => { x with phases := [], halting := false })
  ((t.undoBuckets p (((s.slice p).map (fun c => c.buckets)).getD []) (fun _ => false) step).discardWindows p step).undoSnap p step

/-- Every stream's epoch is set, and fenced under discard (R265). -/
def State.setEpochs (s : State) (p : Nat) (e : BitVec 16) : State :=
  let t := s.modPart p (fun x => { x with epoch := e })
  overAll (t.racksOf p) (fun n u =>
    let old := (u.rack n).stream.epoch
    (u.modStream n (fun x => { x with epoch := e })).fenceStream n p (u.fencePeers p) old e) t |> fun u => u.noteFenced p

/-- A stream as its boundary has it. -/
def Stream.restore (t : Stream) (b : StreamBound) : Stream :=
  { t with step := b.step - 1, ostep := b.step, issue := b.issue, txseq := b.txseq, genIn := b.genIn, genOut := b.genOut
           drawHalf := b.drawHalf, drawHalfIn := b.drawHalfIn, inpos := b.inpos, bounds := [] }

/-- A slot as its boundary record has it; held while the partition is. -/
def slotFrom (held : Bool) (b : SlotBound) : Slot :=
  { ({} : Slot) with state := if held then .held else .wait, frozen := if held then some .wait else none
                     next := b.addr, tstep := b.tstep, ctrs := b.ctrs, acts := b.acts }

/-- The schedule shard is restored: boundaries, Ledger, group state and the sealed step; the steering region and the proof rings start
empty (07_precision_steering.md R138, R159). -/
def State.restoreSched (s : State) (p : Nat) (x : SchedShard) : State :=
  let held := (s.part p).state == .halted
  let t := overAll x.streams (fun e u =>
    if (s.racksOf p).contains e.1 then
      u.modRack e.1 (fun r => { r with stream := r.stream.restore e.2, halves := e.2.halves, slots := [] })
    else u) s
  let t := overAll x.slots (fun e u =>
    if (s.racksOf p).contains e.1 then u.setSlot e.1 e.2.1 (slotFrom held e.2.2) else u) t
  let mine := fun (i : Nat) => ((s.slice p).map (fun c => inLayers c.part i)).getD false
  let t : State := { t with gov := { t.gov with
      ledger := (x.ledger.filter (fun e => mine e.1)).foldl (fun m e => tset m {} e.1 e.2) (t.gov.ledger.filter (fun e => !mine e.1))
      errs := t.gov.errs.filter (fun k => !mine k) } }
  let t := t.clearSteering p
  let t := overAll x.groups (fun g u => u.modGroup g.1 (fun y => { y with hostCount := g.2.1, frozen := g.2.2 })) t
  t.modPart p (fun y =>
    { y with lastSeal := x.step, sealedReg := x.step, openReg := x.step, nextOpen := x.step + 1, everOpen := true, rewound := false
             stepLimit := false, sealTime := s.hkp.count, phases := [] }) |> fun u =>
    (u.noteInputWait p (x.step + 1)).noteInputWait p (x.step + 2)

/-- A bucket shard is written into the generation slot of the step after the point. -/
def State.restoreBucket (s : State) (p : Nat) (point : Step) (bid : BitVec 20) (b : List Byte) : State × Bool :=
  match s.bucketOf bid, s.ownerRec p bid with
  | some (_, r), some o =>
    let n := bktElems r
    let x := shardParts o.mw40 o.nstate n b
    s.writeAll (engWho p o) (genArrays o (point.toNat + 1) n x.1 x.2)
  | _, _ => (s, true)

/-- Every shard of a whole fill takes its place; false where a write is refused. -/
def State.placeShards (s : State) (p : Nat) (m : Manifest) : State × Bool :=
  let y := s.recov p
  let data := fun i => ((y.map.find? (fun e => e.midx == i)).map (fun e => e.data)).getD []
  let r := m.shards.zipIdx.foldl (fun (a : State × Bool) x =>
    if !a.2 then a
    else if x.1.kind = kBucketShard then a.1.restoreBucket p m.step x.1.bid (data x.2)
    else (a.1.restoreSched p (schedOfBytes (data x.2)), true)) (s, true)
  (r.1.setAdopted (((s.slice p).map (fun c => c.buckets)).getD []) (fun _ => false) (m.step + 1), r.2)

/-- Asks every owner for the parameters of the step after a point, to this rank alone (R262). -/
def State.askParams (s : State) (p : Nat) (point : Step) : State :=
  overAll (((s.slice p).map (fun c => c.buckets)).getD []) (fun b u =>
    (u.modBkt b.bid point (fun k => { k with solo := true })).sendBkt p b b.owner (point + 1) (.paramResend u.lnk.rank)) s

/-! ## RESTORED and RESUME (R265) -/

/-- The streams' release, in 100 MHz counts after RESUME. -/
def releaseLead : BitVec 48 := 2000

/-- RESUME takes effect here: parameters are asked for, and the streams leave Rewinding 20 us later. -/
def State.applyResume (s : State) (p : Nat) : State :=
  let point := (s.recov p).point
  let t := s.modRecov p (fun y => { y with state := 0, manifest := none, manifestData := [], map := [], skip := [] })
  let t := overAll (((s.slice p).map (fun c => c.buckets)).getD []) (fun b u => u.fenceRank p (BitVec.ofNat 14 b.owner)) t
  (t.askParams p point).arm releaseLead (s.racksOf p) (.streamRelease p)

/-- RESTORED of the present epoch has come from a rank. -/
def State.restoredHeard (s : State) (p r : Nat) : Bool := s.knd.restoredWords.contains (p, (s.recov p).repoch, r)

/-- RESUME goes down the seal tree. -/
def State.resumeDown (s : State) (p : Nat) (point : Step) (e : BitVec 16) : State :=
  overAll (s.sealChildren p) (fun r u => (u.fenceRank p (BitVec.ofNat 14 r)).sendSeal p (BitVec.ofNat 14 r) point (.resume e)) s

/-- RESTORED goes up the seal tree once this device and every child are restored; at the root it causes RESUME. -/
def State.tryRestored (s : State) (p : Nat) : State :=
  let y := s.recov p
  if y.state ≠ 4 ∨ y.restoredSent ∨ !((s.sealChildren p).all (fun r => s.restoredHeard p r)) then s
  else
    let t := s.modRecov p (fun z => { z with restoredSent := true })
    match t.sealParent p t.lnk.rank.toNat with
    | some r => (t.fenceRank p (BitVec.ofNat 14 r)).sendSeal p (BitVec.ofNat 14 r) y.point (.restored y.repoch)
    | none => if t.isSealRoot p then (t.resumeDown p y.point y.repoch).applyResume p else t

/-- RESTORED: a child's word; one of an older epoch is discarded. -/
def State.restoredWord (t : State) (k : Packet) : State :=
  let p := k.part.val
  match k.body with
  | .restored e =>
    if newer (t.recov p).repoch e ∨ t.knd.restoredWords.contains (p, e, k.src.toNat) then t
    else
      ({ t with knd := { t.knd with
        restoredWords := t.knd.restoredWords.filter (fun (x : Nat × BitVec 16 × Nat) => !(x.1 == p && newer e x.2.1)) ++ [(p, e, k.src.toNat)] } }).tryRestored p
  | _ => t

def execRestored (k : Packet) (s : State) : Host.Outcome State Fault Refusal :=
  .next (s.word k (· matches .restored _) (fun t => t.restoredWord k))

/-- RESUME: the parent's word of the present epoch. -/
def State.resumeWord (t : State) (k : Packet) : State :=
  let p := k.part.val
  let y := t.recov p
  match k.body with
  | .resume e =>
    if e ≠ y.repoch ∨ y.state ≠ 4 ∨ t.sealParent p t.lnk.rank.toNat ≠ some k.src.toNat then t
    else (t.resumeDown p y.point e).applyResume p
  | _ => t

def execResume (k : Packet) (s : State) : Host.Outcome State Fault Refusal :=
  .next (s.word k (· matches .resume _) (fun t => t.resumeWord k))

/-! ## Taking over a migrated rank (R268, R269) -/

/-- The handed-over entry of a stream. -/
def RcvSt.handed (y : RcvSt) (id : BitVec 16) : Option (BitVec 16 × BitVec 32) :=
  (y.handover.find? (fun h => h.1 == id)).map (fun h => (h.2.1, h.2.2))

/-- A drain migration: each stream goes on at LIMIT + 1 in a newer epoch, under a drain fence. -/
def State.takeStream (s : State) (p n : Nat) : State :=
  let x := (s.rack n).stream
  match (s.recov p).handed x.id with
  | none => s.modStream n (fun t => { t with state := .active })
  | some (e, lim) =>
    let t := s.modStream n (fun t => { t with state := .active, epoch := e + 1, txseq := lim + 1 })
    overAll (t.fencePeers p) (fun r u => u.sendOn n p (BitVec.ofNat 14 r) 0 0 (.fence x.id e (e + 1) false lim (lim + 1))) t

/-- A discard migration: each stream goes on at its restored boundary in a newer epoch, under a discard fence. -/
def State.retakeStream (s : State) (p n : Nat) : State :=
  let x := (s.rack n).stream
  let e := (((s.recov p).handed x.id).map (fun h => h.1)).getD x.epoch
  (s.modStream n (fun t => { t with state := .active, epoch := e + 1 })).fenceStream n p (s.fencePeers p) e (e + 1)

/-- The rank is taken over: its shards take their places, its streams go on, and its parameters are asked for. -/
def State.takeOver (s : State) (p : Nat) (m : Manifest) (g : Migration) : State :=
  let r := s.placeShards p m
  if !r.2 then r.1.fillFail p midxManifest
  else
    let t := overAll (r.1.racksOf p) (fun n u => if g.drain then u.takeStream p n else u.retakeStream p n) r.1
    let t := t.modRecov p (fun y => y.movedFrom m.step)
    let t := t.modPart p (fun x =>
      { x with epoch := ((s.recov p).handover.map (fun (h : BitVec 16 × BitVec 16 × BitVec 32) => h.2.1 + 1)).headD x.epoch })
    let t := t.modRecov p (fun y =>
      { y with state := 0, migration := none, handover := [], manifest := none, manifestData := [], map := [], skip := [] })
    t.askParams p m.step

/-- A spare that holds everything of a drained rank takes it over once the routing table places the rank here. -/
def State.tryTakeOver (s : State) (p : Nat) : State :=
  let y := s.recov p
  match y.manifest, y.migration with
  | some m, some g =>
    if y.state = 5 ∧ g.drain ∧ g.handedOver ∧ (y.map.all (fun e => e.state == fVerified)) ∧ s.recoverable p ∧
        (s.rtEntry s.lnk.rank.toNat).coord = s.ownCoord then s.takeOver p m g
    else s
  | _, _ => s

/-- APPLY: the table changes, and a drained rank may now be taken over here. -/
def applyBody : RowBody := opBody (fun s _ _ _ =>
  ((overAll (List.range 8) (fun p u => u.tryTakeOver p) s.applyRoutes).settleRoutes, ok))

def execApply (c : Cmd) (s : State) : Host.Outcome State Fault Refusal := .next (s.host c (isWrite .apply) applyBody)

/-! ## The end of a fill, and its course -/

/-- Every shard is verified: a discarded rank is taken over; else the partition is restored and RESTORED follows. -/
def State.fillEnded (s : State) (p : Nat) (m : Manifest) : State :=
  let y := s.recov p
  match y.migration with
  | some g => s.takeOver p m g
  | none =>
    let r := s.placeShards p m
    if !r.2 then r.1.fillFail p midxManifest
    else
      let t := overAll (r.1.racksOf p) (fun n u =>
        let e := (u.rack n).stream.epoch
        u.fenceStream n p (u.fencePeers p) e e) r.1 |> fun u => u.noteFenced p
      (t.modRecov p (fun z => { (if z.spare then z.movedFrom m.step else z) with state := 4 })).tryRestored p

/-- One move of a fill. -/
def State.fillMove (s : State) (p : Nat) : State × Bool :=
  let y := s.recov p
  if y.state ≠ 2 ∧ y.state ≠ 3 then (s, false)
  else
    match y.manifest with
    | none => s.manifestMove p
    | some m =>
      match y.map.find? (fun e => e.state != fVerified) with
      | none => (s.fillEnded p m, false)
      | some e => s.shardMove p m e

/-- Moves until the fill waits for a source or has ended. -/
def State.fillRun (p : Nat) : Nat → State → State
  | 0, s => s
  | f + 1, s =>
    let r := s.fillMove p
    if r.2 then State.fillRun p f r.1 else r.1

/-- Moves that a fill can make without waiting: each source of each entry of the longest manifest. -/
def fillFuel : Nat := 5 * 16384

/-- A fill starts, or goes on in a newer epoch: the map of the same point and rank is kept (R267). -/
def State.startFill (s : State) (p : Nat) (point : Step) (rank coord : BitVec 14) (spare : Bool) (st : BitVec 4) : State :=
  let y := s.recov p
  let same := y.point == point && y.rank == rank && y.spare == spare && y.manifest.isSome
  let t := s.modRecov p (fun y =>
    let y := { y with state := st, point := point, rank := rank, coord := coord, spare := spare }
    if same then { y with map := y.map.map (fun e => if e.state = fFilling then { e with state := fPending, data := e.data.take e.done } else e) }
    else { y with manifest := none, manifestData := [], map := [], skip := [], manifestSrc := y.order.headD .ring })
  State.fillRun p fillFuel t

/-! ## RESTORE and FILL (R265) -/

/-- RESTORE: work is abandoned, every stream takes EPOCH_R, and the own rank fills from the point. -/
def restoreBody : RowBody := rcvBody (fun s p v =>
  if !s.recoverable p then s
  else
    let a := s.rreg.rcvArg
    let t := s.modRecov p (fun y => { y.clampFormer (rcvStep v) with migration := none, handover := [], epochR := argEpoch a })
    let t := (t.abandonWork p (rcvStep v + 1)).setEpochs p (argEpoch a)
    t.startFill p (rcvStep v) t.lnk.rank ((t.recov p).coordAt t.lnk.rank t.ownCoord (rcvStep v)) false 2)

def execRestore (c : Cmd) (s : State) : Host.Outcome State Fault Refusal := .next (s.host c (isWrite .restore) restoreBody)

/-- FILL: a spare fills the rank of a former coordinate; a migration of an older epoch is cancelled (R274). -/
def fillBody : RowBody := rcvBody (fun s p v =>
  if !s.recoverable p then s
  else
    let a := s.rreg.rcvArg
    let t := s.modRecov p (fun y => { y with epochR := argEpoch a, migration := none, handover := [] })
    let t := (t.abandonWork p (rcvStep v + 1)).setEpochs p (argEpoch a)
    t.startFill p (rcvStep v) (argRank a) (argCoord a) true 3)

def execFill (c : Cmd) (s : State) : Host.Outcome State Fault Refusal := .next (s.host c (isWrite .fill) fillBody)

/-! ## ROLLBACK (R264, R269) -/

/-- ROLLBACK: the seal root sends ROLLBACK for the oldest unsealed step and acts on it. A device to which a rank was handed over
under discard fills from its old place. -/
def rollbackBody : RowBody := rcvBody (fun s p _ =>
  match (s.recov p).migration.filter (fun g => g.handedOver && !g.drain && !s.dev.fenced) with
  | some g =>
    let t := if s.isSealRoot p then s.sealDown p g.m (.rollback (s.recov p).repoch) else s
    if t.recoverable p then
      (t.abandonWork p ((t.part p).lastSeal + 1)).startFill p (g.m - 1) t.lnk.rank (t.recov p).coord true 3
    else t
  | none =>
    let t := s.modRecov p (fun y =>
      { y with state := if y.state = 7 then 7 else 1, migration := none, manifest := none, manifestData := [], map := [], skip := [] })
    let n := (t.part p).lastSeal + 1
    if t.isSealRoot p && t.recoverable p then (t.sealDown p n (.rollback (t.recov p).repoch)).rollbackHere p n else t)

def execRollback (c : Cmd) (s : State) : Host.Outcome State Fault Refusal := .next (s.host c (isWrite .rollback) rollbackBody)

/-! ## Serving a fill (R260, R262, R266) -/

/-- Sends pieces of a shard or the manifest from an offset, then FILL_END after a shard's last piece, in packets that `send`
forms. -/
def State.serve (s : State) (send : State → Body → State) (e : BitVec 16) (midx off : Nat) (b : Option (List Byte)) : State :=
  match b with
  | none => send s (.fillEnd e midx 0 true)
  | some b =>
    let t := overAll (pieces4k (b.drop off)) (fun x u => send u (.fill e midx (off / shardAlign + x.1) x.2)) s
    if midx = midxManifest then t else send t (.fillEnd e midx (b.length - off) false)

/-- Generation A of a bucket at the oldest unsealed step, as its owner holds it. -/
def State.peerBucket (s : State) (p : Nat) (g : Migration) (o : OwnerRec) : State × Option (BitVec 20 × List Byte) :=
  match s.bucketOf o.bid with
  | none => (s, none)
  | some (_, b) =>
    let n := bktElems b
    let r := s.readMaster p o (g.m.toNat % 2) n
    match r.2 with
    | none => (r.1, none)
    | some codes =>
      let q := r.1.readAll (engWho p o) ((List.range o.nstate).map (fun j => (stateAt o g.m.toNat j, 4 * n)))
      (q.1, q.2.map (fun st => (o.bid, shardStream o.mw40 codes (st.map (unpackBits 32 n)))))

/-- PEER of a discard migration: generation A of the oldest unsealed step, and the captured schedule shard (R269). -/
def State.peerShards (s : State) (p : Nat) (g : Migration) : State × Option (List (Nat × BitVec 20 × List Byte)) :=
  let r := (((s.slice p).map (fun c => c.owners)).getD []).foldl (fun (a : State × Option (List (Nat × BitVec 20 × List Byte))) o =>
    match a.2 with
    | none => a
    | some l =>
      let q := a.1.peerBucket p g o
      (q.1, q.2.map (fun x => l ++ [(kBucketShard, x.1, x.2)]))) (s, some [])
  (r.1, r.2.bind (fun l => ((s.snap p).shards.head?).map (fun x => l ++ [(kSchedShard, 0, schedBytes x)])))

/-- The manifest of the PEER shards. -/
def State.peerManifest (s : State) (p : Nat) (g : Migration) (l : List (Nat × BitVec 20 × List Byte)) : Manifest :=
  { s.manifestFor p { step := g.m - 1, slot := none, toTwin := false, nextOff := 0, shards := [] } with
    shards := l.map (fun x => { kind := x.1, bid := x.2.1, len := x.2.2.length, soff := 0
                                digest := shardDigest (g.m - 1) s.lnk.rank.toNat x.1 x.2.1.toNat x.2.2 }) }

/-- What a slot serves, where its manifest verifies. -/
def State.slotServes (s : State) (at_ : Nat → Nat) (midx : Nat) : State × Option (List Byte) :=
  let r := s.slotManifest at_
  match r.2 with
  | some m => r.1.slotBytes at_ m midx
  | none => (r.1, none)

/-- What this device's own rank serves: PEER while it is being migrated under discard, else its ring. -/
def State.ownServes (s : State) (p : Nat) (step : Step) (midx : Nat) : State × Option (List Byte) :=
  match (s.recov p).migration.filter (fun g => !g.drain) with
  | some g =>
    if g.m - 1 ≠ step then (s, none)
    else
      let r := s.peerShards p g
      (r.1, r.2.bind (fun l =>
        if midx = midxManifest then some (manifestBytes (s.peerManifest p g l)) else (l[midx]?).map (fun x => x.2.2)))
  | none =>
    match s.ringRec p, s.slotOf p step with
    | some r, some i => s.slotServes (ringAddr r i) midx
    | _, _ => (s, none)

/-- What the twin store serves. -/
def State.twinServes (s : State) (p : Nat) (step : Step) (midx : Nat) : State × Option (List Byte) :=
  match s.twinStore, s.twinSlot p step with
  | some (base, size), some x => if x.bad then (s, none) else s.slotServes (twinAddr base size x) midx
  | _, _ => (s, none)

/-- FILL_REQ: served from the ring or the live generation where this device has the rank asked for, else from the twin store. -/
def State.fillReqWord (t : State) (k : Packet) : State :=
  let p := k.part.val
  match k.body with
  | .fillReq e rank midx off coord =>
    if t.dev.hub78 || !t.isOn 78 then t
    else if rank = t.lnk.rank then
      if newer (t.recov p).repoch e then t
      else
        let b := t.ownServes p k.step midx
        let n := t.sealRack p
        (b.1.fenceFor p e k.src coord).serve (fun u x => u.sendTo n p k.src coord k.step x) e midx off b.2
    else
      let b := t.twinServes p k.step midx
      (b.1.fenceTwin p k.src coord e).serve (fun u x => u.sendDevice p k.src coord k.step x) e midx off b.2
  | _ => t

def execFillReq (k : Packet) (s : State) : Host.Outcome State Fault Refusal :=
  .next (s.word k (· matches .fillReq ..) (fun t => t.fillReqWord k))

/-! ## What a source sends (R266, R267) -/

/-- Whole chunks of bytes received. -/
def wholeChunks (n : Nat) : Nat := n / fillChunk * fillChunk

/-- A shard's last byte has come: it is verified, or restarts at the next source. -/
def State.fillCheck (s : State) (p : Nat) (m : Manifest) (e : FillEnt) : State :=
  if shardGood m e.midx e.data then s.putFill p { e with state := fVerified, done := e.data.length }
  else s.putFill p { e.failed e.src true with state := fPending }

/-- A source failed: what waits for it goes on at the next one. -/
def State.srcFailed (s : State) (p : Nat) (skip : Bool) : State :=
  let y := s.recov p
  let drop := fun (x : FillSrc) (u : State) => if skip then u.modRecov p (fun z => { z with skip := z.skip ++ [x] }) else u
  match y.manifest with
  | none =>
    let t := match y.laterSrc with
      | some x => s.modRecov p (fun z => { z with manifestSrc := x, manifestData := [] })
      | none => s.fillFail p midxManifest
    State.fillRun p fillFuel (drop y.manifestSrc t)
  | some _ =>
    match y.map.find? (fun e => e.state == fFilling) with
    | none => s
    | some e =>
      State.fillRun p fillFuel (drop e.src (s.putFill p { e.failed e.src false with state := fPending }))

/-- Pieces of the manifest join in order; a whole one starts the map. -/
def State.manifestPiece (s : State) (p off : Nat) (d : List Byte) (next : State → State) : State :=
  let y := s.recov p
  if off * shardAlign ≠ y.manifestData.length then s
  else
    let b := y.manifestData ++ d
    let t := s.modRecov p (fun z => { z with manifestData := b })
    if b.length < manifestLen 0 ∨ b.length < manifestLen (leNat ((b.drop 16).take 4)) then t
    else
      match (manifestOf b).filter (y.wants p) with
      | some m => next (t.startMap p m)
      | none => t.srcFailed p false

/-- A piece of a shard joins what has come before it. -/
def FillEnt.take (e : FillEnt) (off : Nat) (d : List Byte) : FillEnt :=
  if off * shardAlign = e.data.length then
    { e with data := e.data ++ d, done := wholeChunks (e.data.length + d.length) }
  else e

/-! ### A drain migration's pushed shards (R268) -/

/-- The map entry of a pushed shard. -/
def RcvSt.pushed (y : RcvSt) (midx : Nat) : FillEnt :=
  (y.map.find? (fun e => e.midx == midx)).getD
    { midx := midx, state := fFilling, src := .peer, tried := [], done := 0, len := 0, data := [] }

/-- The whole manifest of a drained rank is here: its shards verify and MIGRATE_READY is raised, or the migration has failed. -/
def State.pushedManifest (s : State) (p : Nat) (m : Manifest) : State :=
  let y := s.recov p
  let data := fun i => ((y.map.find? (fun e => e.midx == i)).map (fun e => e.data)).getD []
  let l := m.shards.zipIdx.map (fun x => ({ midx := x.2, state := if shardGood m x.2 (data x.2) then fVerified else fFailed, src := .peer
                                            tried := [], done := (data x.2).length, len := x.1.len, data := data x.2 } : FillEnt))
  let t := s.modRecov p (fun z => { z with manifest := some m, map := l })
  let t := overAll l (fun e u => u.putFill p e) t
  match l.find? (fun e => e.state == fFailed) with
  | some e => t.fillFail p e.midx
  | none => (t.raise (srcPart p) .migrateReady [p, m.step.toNat]).tryTakeOver p

/-- A piece that the old place of this rank pushes. -/
def State.pushedPiece (s : State) (p : Nat) (k : Packet) (e : BitVec 16) (midx off : Nat) (d : List Byte) : State :=
  let y := s.recov p
  let t := if y.state = 5 then s
    else s.modRecov p (fun z => { z with
      repoch := e, state := 5, point := k.step, rank := s.lnk.rank, spare := true, manifest := none, manifestSrc := .peer
      coord := (s.rtEntry s.lnk.rank.toNat).coord, manifestData := [], map := [], skip := [], handover := []
      migration := some { drain := true, m := k.step, spare := s.ownCoord, handedOver := false } })
  if midx = midxManifest then
    let b := (t.recov p).manifestData ++ d
    let u := t.modRecov p (fun z => { z with manifestData := b })
    if b.length < manifestLen 0 ∨ b.length < manifestLen (leNat ((b.drop 16).take 4)) then u
    else
      match (manifestOf b).filter ((u.recov p).wants p) with
      | some m => u.pushedManifest p m
      | none => u.fillFail p midxManifest
  else
    t.modRecov p (fun z =>
      let x := (z.pushed midx).take off d
      { z with map := z.map.filter (fun y => y.midx != midx) ++ [x] })

/-- FILL_PACKET: of the present epoch, for what is being filled; or pushed by the old place of this rank. -/
def State.fillPacket (t : State) (k : Packet) : State :=
  let p := k.part.val
  let y := t.recov p
  match k.body with
  | .fill e midx off d =>
    if e = y.repoch ∧ (y.state = 2 ∨ y.state = 3) then
      match y.manifest with
      | none => if midx = midxManifest then t.manifestPiece p off d (State.fillRun p fillFuel) else t
      | some _ =>
        match y.map.find? (fun x => x.midx == midx && x.state == fFilling && x.src != .host) with
        | some x => t.putFill p (x.take off d)
        | none => t
    else if k.src = t.lnk.rank ∧ t.recoverable p ∧
        ((y.state = 5 ∧ e = y.repoch ∧ y.spare) ∨ (y.state = 0 ∧ newer e y.repoch)) then t.pushedPiece p k e midx off d
    else t
  | _ => t

def execFillPacket (k : Packet) (s : State) : Host.Outcome State Fault Refusal :=
  .next (s.word k (· matches .fill ..) (fun t => t.fillPacket k))

/-- FILL_END: the shard is whole, or its source reports an error. -/
def State.fillEndWord (t : State) (k : Packet) : State :=
  let p := k.part.val
  let y := t.recov p
  match k.body with
  | .fillEnd e midx _ error =>
    if e ≠ y.repoch ∨ (y.state ≠ 2 ∧ y.state ≠ 3) then t
    else
      match y.manifest with
      | none => if midx = midxManifest && error then t.srcFailed p false else t
      | some m =>
        match y.map.find? (fun x => x.midx == midx && x.state == fFilling && x.src != .host) with
        | none => t
        | some x => if error then t.srcFailed p false else State.fillRun p fillFuel (t.fillCheck p m x)
  | _ => t

def execFillEnd (k : Packet) (s : State) : Host.Outcome State Fault Refusal :=
  .next (s.word k (· matches .fillEnd ..) (fun t => t.fillEndWord k))

/-- FILL_TIMEOUT: no FILL packet has come for the recipe's time; the source is skipped for the rest of the fill. -/
def State.fillTimeout (s : State) (p : Nat) : State :=
  let y := s.recov p
  let waits : Bool := match y.manifest with
    | none => y.manifestSrc != .host
    | some _ => y.map.any (fun e => e.state == fFilling && e.src != .host)
  if (y.state = 2 ∨ y.state = 3) ∧ waits then s.srcFailed p true else s

def execFillTimeout (p : Part) (s : State) : Host.Outcome State Fault Refusal := .next (s.fillTimeout p.val)

/-! ## HOSTFILL (R266; entry 35) -/

/-- HOSTFILL of the shard that waits for host software: its bytes are checked where they were placed, and what DONE covers is kept. -/
def State.hostFill (s : State) (p midx : Nat) : State :=
  let y := s.recov p
  match y.manifest with
  | none =>
    if midx ≠ midxManifest ∨ y.manifestSrc ≠ .host then s.rcvStatus p stFillFail
    else
      let r := s.slotManifest (fun o => s.hostAt p midxManifest 0 + o)
      match r.2.filter (y.wants p) with
      | some m => State.fillRun p fillFuel (r.1.startMap p m)
      | none => r.1.srcFailed p false
  | some m =>
    match y.map.find? (fun e => e.midx == midx && e.state == fFilling && e.src == .host) with
    | none => s.rcvStatus p stFillFail
    | some e =>
      let r := s.snapRead (s.hostAt p midx (m.soff midx) + e.done) (e.len - e.done)
      match r.2 with
      | some b => State.fillRun p fillFuel (r.1.fillCheck p m { e with data := e.data.take e.done ++ b })
      | none => r.1.srcFailed p false

/-- HOSTFILL belongs to the fill of the present epoch. -/
def hostfillBody : RowBody := opBody (fun s _ _ v =>
  let p := rcvPart v
  if rcvEpoch v ≠ (s.recov p).repoch then (s.rcvStatus p stEpochOld, ok)
  else if (s.recov p).state ≠ 2 ∧ (s.recov p).state ≠ 3 then (s.rcvStatus p stFillFail, ok)
  else ((s.rcvStatus p 0).hostFill p (argMidx s.rreg.rcvArg), ok))

def execHostfill (c : Cmd) (s : State) : Host.Outcome State Fault Refusal := .next (s.host c (isWrite .hostfill) hostfillBody)

/-! ## Migration (R268, R269) -/

/-- A migration command: BUSY while a recovery is in progress, else it acts in its new epoch. -/
def migrateBody (act : State → Nat → Nat → State) : RowBody := opBody (fun s _ _ v =>
  let p := rcvPart v
  let y := s.recov p
  if !newer (rcvEpoch v) y.repoch then (s.rcvStatus p stEpochOld, ok)
  else if 1 ≤ y.state.toNat ∧ y.state.toNat ≤ 5 then (s.rcvStatus p stBusyRcv, ok)
  else (act s p v, ok))

/-- MIGRATE_DRAIN: refused when the step is older than the newest open one. -/
def migrateDrainBody : RowBody := migrateBody (fun s p v =>
  let x := s.part p
  if x.everOpen && newer x.openReg (rcvStep v) then s.rcvStatus p stStepPassed
  else if !s.recoverable p then s.newEpoch p (rcvEpoch v)
  else
    let c := argCoord s.rreg.rcvArg
    let t := (s.newEpoch p (rcvEpoch v)).modRecov p (fun y =>
      { y with state := 5, spare := false, sent := [], migration := some { drain := true, m := rcvStep v, spare := c, handedOver := false } })
    t.fenceFor p (rcvEpoch v) t.lnk.rank c)

def execMigrateDrain (c : Cmd) (s : State) : Host.Outcome State Fault Refusal :=
  .next (s.host c (isWrite .migrateDrain) migrateDrainBody)

/-- Every snapshot in progress is abandoned (21_mode_combinations.md R387). -/
def State.abandonSnaps (s : State) : State :=
  overAll (List.range 8) (fun p u =>
    match (u.snap p).job with
    | some j => if (u.snap p).state = 1 then u.abandonSnap p j.step else u
    | none => u) s

/-- MIGRATE_DISCARD: the schedule shard of the oldest unsealed step is captured, the device fences, and HANDOVER goes to the
spare. -/
def migrateDiscardBody : RowBody := migrateBody (fun s p v =>
  if !s.recoverable p then s.newEpoch p (rcvEpoch v)
  else
    let c := argCoord s.rreg.rcvArg
    let n := (s.part p).lastSeal + 1
    let x := s.captureSched p n
    let t := (s.newEpoch p (rcvEpoch v)).abandonSnaps.fenceDevice 3
    let t := (t.modSnap p (fun y => { y with shards := [x] })).modRecov p (fun y =>
      { y with spare := false, migration := some { drain := false, m := n, spare := c, handedOver := true } })
    let t := t.fenceFor p (rcvEpoch v) t.lnk.rank c
    t.sendTo (t.sealRack p) p t.lnk.rank c n (.handover (t.handoverOf p)))

def execMigrateDiscard (c : Cmd) (s : State) : Host.Outcome State Fault Refusal :=
  .next (s.host c (isWrite .migrateDiscard) migrateDiscardBody)

/-- HANDOVER: the last word of a drained rank's old place, or the first of a discarded one's, whose place is kept for the fill. -/
def State.handoverWord (t : State) (k : Packet) : State :=
  let p := k.part.val
  let y := t.recov p
  match k.body with
  | .handover l =>
    if k.src ≠ t.lnk.rank ∨ !t.recoverable p then t
    else if y.state = 5 then
      (t.modRecov p (fun z => { z with handover := l, migration := z.migration.map (fun g => { g with handedOver := true }) })).tryTakeOver p
    else if y.state = 0 then
      t.modRecov p (fun z => { z with
        state := 5, handover := l, spare := true, rank := t.lnk.rank, coord := (t.rtEntry t.lnk.rank.toNat).coord, manifest := none
        manifestData := [], map := [], migration := some { drain := false, m := k.step, spare := t.ownCoord, handedOver := true } })
    else t
  | _ => t

def execHandover (k : Packet) (s : State) : Host.Outcome State Fault Refusal :=
  .next (s.word k (· matches .handover _) (fun t => t.handoverWord k))

end Sys2Proof.Machine
end

