-- ==== Sys2Proof/Machine/Programs.lean ====
section
/-! DEFINITION. What recipe validation asks of the task programs and the fused-kernel library (05_feeders.md R95, R104,
07_precision_steering.md R148, 08_training_step.md R168), judged on the state that the image would leave (entry 10). -/

namespace Sys2Proof.Machine

/-! ## Which descriptors a task reaches (R114) -/

/-- A wait that a task has passed: rack and number of a counter, and the offset of its step from TSTEP. -/
structure Passed where
  rack : Nat
  ctr : Nat
  off : Nat
  deriving DecidableEq, Repr

/-- A point of a task program: an address, and the waits that stand before it. -/
structure Point where
  addr : Nat
  waits : List Passed
  deriving DecidableEq, Repr

/-- The waits of a task with that of a descriptor. -/
def waitsWith (d : Desc) (l : List Passed) : List Passed :=
  let w : Passed := { rack := d.wrack, ctr := d.wctr, off := d.srel }
  if d.waitEn && !l.contains w then l ++ [w] else l

/-- The points that may follow a descriptor: TSTEP rises at a jump with STEPINC. -/
def nextPoints (d : Desc) (l : List Passed) : List Point :=
  if d.kind = kEnd ∨ 5 < d.kind then []
  else if d.kind = kLoop then
    let back := if d.stepInc then l.filterMap (fun w => if w.off = 0 then none else some { w with off := w.off - 1 }) else l
    (if d.count = 1 then [] else [{ addr := d.target, waits := back }]) ++ (if d.count = 0 then [] else [{ addr := d.addr + 128, waits := l }])
  else [{ addr := d.addr + 128, waits := waitsWith d l }]

/-- Points that the walk of a task program visits at most. -/
def walkMax : Nat := 2 ^ 20

/-- The descriptors that a task of a rack reaches, each with the waits before it, effective steps counted from `s0`. -/
def State.walkTask (s : State) (n : Nat) (s0 : Step) : Nat → List Point → List Point → List (Desc × List Passed) → List (Desc × List Passed)
  | 0, _, _, acc => acc
  | _ + 1, [], _, acc => acc
  | f + 1, x :: todo, seen, acc =>
    if seen.contains x || !inStore n x.addr then s.walkTask n s0 f todo seen acc
    else
      let d := descOf x.addr s0 (s.readBytes x.addr 128)
      s.walkTask n s0 f (nextPoints d x.waits ++ todo) (x :: seen) (acc ++ [(d, x.waits)])

/-- The operations among them, in a step and in the one after it: the parities latch their own words. -/
def State.taskOps (s : State) (n : Nat) (s0 : Step) (entry : Nat) : List (Desc × List Passed) :=
  ((s.walkTask n s0 walkMax [{ addr := entry, waits := [] }] [] []).filter (fun x => x.1.kind ≤ kFused)).flatMap
    (fun x => [x, ({ x.1 with step := x.1.step + 1 }, x.2)])

/-- An operation as it would latch and size (R105). -/
def State.prepared (s : State) (n p : Nat) (d : Desc) : Option Op :=
  match (s.latchAll n p { desc := d }).2 with
  | .ok o => some ((s.rack n).sizeOp o)
  | .error _ => none

/-! ## Address programs (05_feeders.md R95, R104) -/

/-- A program that a descriptor names fails a test. -/
def State.progFails (s : State) (n p : Nat) (o : Op) (a : Nat) (f : Prog → Bool) : Bool :=
  match (s.readProg n p o.desc.step a).2 with
  | .ok q => f q
  | .error _ => false

/-- Operands of a fused kernel's internal operations that come through a program, with whether each is an operand B. -/
def fusedSides (o : Op) : List (Side × Bool) :=
  match o.fused with
  | none => []
  | some f => (fusedAll o f).flatMap (fun r => ((opFills r).filter (fun k => k != .init)).map (fun k => (feedSide r k, k == .b)))

/-- The operands of an operation that fills read, with whether each is the box of a convolution, and an operand B. -/
def filledSides (o : Op) : List (Side × Bool × Bool) :=
  if o.desc.kind = kFused then (fusedSides o).map (fun x => (x.1, false, x.2))
  else
    (if o.desc.aRes then [] else [(opSide o .a, opConv o .a, false)]) ++
      (if o.desc.kind = kTile ∧ !o.desc.bRes then [(opSide o .b, false, true)] else [])

/-- The stager program of a convolution names the box from its first byte, and its scales behind the last element (R95). -/
def State.boxBad (s : State) (n p : Nat) (o : Op) (q : Prog) : Bool :=
  let x := opSide o .a
  let scales := fun (at0 : Nat) => blockOf (cwScl x.word) != 0 && q.sbase != at0
  q.base != 0 ||
    (if o.desc.aRes then scales (up64 (boxPlane o q))
     else s.progFails n p o x.src (fun f => scales (layoutOf x.word 1 (blockPad x.word f.count)).scale))

/-- An address program of an operation is invalid. -/
def State.progsBad (s : State) (n p : Nat) (o : Op) : Bool :=
  (filledSides o).any (fun x => s.progFails n p o x.1.src (srcBad x.1 x.2.1 x.2.2)) ||
    (opConv o .a && s.progFails n p o o.desc.aStg (fun q => stgBad o q || s.boxBad n p o q)) ||
    (o.desc.kind == kTile && o.desc.acc == 1 && s.progFails n p o o.desc.init (initBad o)) ||
    (o.desc.kind != kFused && o.desc.isFinal && (opOuts o).any (fun x => s.progFails n p o x.prog (outBad o.desc.m (opRow o) x))) ||
    o.fused.any (fun f => (fusedProgs o f).any (fun x => s.progFails n p o x.1 x.2))

/-! ## Rungs (07_precision_steering.md R148) -/

/-- The words that an entry may carry, with their rungs: those of rungs FLOOR to CEIL, or the two that a Fixed entry holds. -/
def State.rungWords (s : State) (c : Slice) (i : Nat) : List (Nat × BitVec 16) :=
  let e := s.ledgerEnt i
  if e.state = .fixed then [(0, e.cwE), (1, e.cwO)]
  else match tfind c.classes e.cls.toNat with
    | none => []
    | some k => ((List.range 8).filter (fun r => decide (k.floor ≤ r ∧ r ≤ k.ceil))).map (fun r => (r, k.rungs.getD r 0))

/-- Two entries are compared rung by rung: both in one lock set, or both Fixed. -/
def State.stepTogether (s : State) (c : Slice) (i j : Nat) : Bool :=
  ((s.ledgerEnt i).state == .fixed && (s.ledgerEnt j).state == .fixed) || c.locks.any (fun l => l.contains i && l.contains j)

/-- Some combination of the rungs of two operand entries is no valid pair (R29, R52). -/
def State.pairBad (s : State) (c : Slice) (i j : Nat) : Bool :=
  (s.rungWords c i).any (fun a => (s.rungWords c j).any (fun b =>
    (a.1 == b.1 || !s.stepTogether c i j) && (pairInfo a.2 b.2).isNone))

/-- The pairs of entries that the tile operations of a descriptor multiply. -/
def opPairs (o : Op) : List (Nat × Nat) :=
  match o.fused with
  | some f => (List.range f.stages).map (fun r => ((fusedOp o.desc { f with round := r }).ixA, (fusedOp o.desc { f with round := r }).ixB))
  | none => if o.desc.kind = kTile then [(ledgerIx o.desc.aL o.desc.aR, ledgerIx o.desc.bL o.desc.bR)] else []

/-- The word of an entry at its class's CEIL; the one at hand for a Fixed entry. -/
def State.ceilWord (s : State) (c : Slice) (i : Nat) (w : BitVec 16) : BitVec 16 :=
  let e := s.ledgerEnt i
  if e.state = .fixed then w
  else match tfind c.classes e.cls.toNat with
    | some k => k.rungs.getD k.ceil 0
    | none => w

/-- An operation with every steered role at its ceiling. -/
def State.atCeiling (s : State) (c : Slice) (o : Op) : Op :=
  let d := o.desc
  let z := { o with cwA := s.ceilWord c (ledgerIx d.aL d.aR) o.cwA, cwB := s.ceilWord c (ledgerIx d.bL d.bR) o.cwB
                    cwO0 := s.ceilWord c (ledgerIx d.o0L d.o0R) o.cwO0, cwO1 := s.ceilWord c (ledgerIx d.o1L d.o1R) o.cwO1 }
  match o.fused with
  | some f => z.withFused { f with words := f.words.map (fun x => (x.1, s.ceilWord c x.1 x.2)) } c.part.fscratch
  | none => z

/-- An entry is steered. -/
def State.steered (s : State) (i : Nat) : Bool := (s.ledgerEnt i).state != .fixed

/-- A steered operand of an operation does not fit its window at the ceiling, or a kernel of steered entries the scratch window. -/
def State.windowShort (s : State) (n p : Nat) (o : Op) : Bool :=
  let short := fun (x : Side) (bytes : Nat) => s.steered (ledgerIx x.layer x.role) && s.stageErr n x bytes == some tfStage
  let side := fun (k : FillKind) (resident : Bool) =>
    let x := opSide o k
    if !resident then s.progFails n p o x.src (fun q => short x (stagedBytes x (opConv o k) q))
    else if opConv o k then s.progFails n p o o.desc.aStg (fun q => short x (residentBox o q))
    else short x (layoutOf x.word x.lines x.depth).stop
  match o.fused with
  | some f => (fusedSides o).any (fun x => short x.1 (layoutOf x.1.word x.1.lines x.1.depth).stop) ||
      (f.words.any (fun x => s.steered x.1) && decide (s.fusedRoom p < f.scratchOf o))
  | none => side .a o.desc.aRes || (o.desc.kind == kTile && side .b o.desc.bRes)

/-- The tiles that an operation writes: a fused kernel's by pass. -/
def opTiles (o : Op) : List PassShape :=
  match o.fused with
  | some f => (fusedAll o f).flatMap (fun r => (r.fused.map (fun g => g.shapes r)).getD [])
  | none => if o.desc.isFinal then [{ rows := o.desc.m, cols := opRow o, outs := opOuts o }] else []

/-- The places that a walk touches: elements and block scales, as first byte and bytes. -/
def Prog.places (q : Prog) (width blk : Nat) : List (Nat × Nat) :=
  (q.walk width).flatMap (fun r => match r.elem with
    | none => []
    | some a => (a, (q.run * width + 7) / 8) :: (if blk = 0 then [] else [(r.scale, q.run / blk)]))

/-- A steered output write leaves the regions that its partition may write, at the ceiling. -/
def State.regionShort (s : State) (n p : Nat) (o : Op) (x : OutSide) : Bool :=
  let w := outWord x
  s.steered x.index && s.progFails n p o x.prog (fun q =>
    (q.places (fmtOf (cwFmt w)).width (blockOf (cwScl w))).any (fun a => (s.accessErr (.rack n) true (s.taskAddr p o.desc.step a.1) a.2).isSome))

/-- Bytes that the eligible writes of a tile take in a slot of the proof ring (R143). -/
def proofNeed (rows cols : Nat) (l : List OutSide) : Nat :=
  proofHeaderBytes + l.foldl (fun n x =>
    let w := outWord x
    let s := outShape rows cols x
    let line := blockPad w s.2
    n + (s.1 * line * (fmtOf (cwFmt w)).width + 7) / 8 + (if blockOf (cwScl w) = 0 then 0 else s.1 * (line / blockOf (cwScl w))) +
      (if cwScl w = 2 then 4 * ((s.1 + 127) / 128) * ((line + 127) / 128) else 0)) 0 + 4 * rows * cols

/-- A rack's proof slots are too small for a tile's steered writes at the ceiling. -/
def State.proofShort (s : State) (n p : Nat) (x : PassShape) : Bool :=
  let l := x.outs.filter (fun y => s.eligible y)
  !l.isEmpty && decide (0 < (s.rack n).proofSlots) && (s.proofRing n p).any (fun q => decide (q.bytes < proofNeed x.rows x.cols l))

/-- Something that holds a steered role is too small for its ceiling. -/
def State.ceilingBad (s : State) (c : Slice) (n p : Nat) (o : Op) : Bool :=
  let z := s.atCeiling c o
  s.windowShort n p z || (opTiles z).any (fun x => x.outs.any (fun y => s.regionShort n p z y) || s.proofShort n p x)

/-! ## Parameters before their adoption (08_training_step.md R168) -/

/-- The places that a descriptor reads through programs, and its parameter block. -/
def State.readPlaces (s : State) (n p : Nat) (o : Op) : List (Nat × Nat) :=
  let through := fun (a : Nat) (f : Prog → Nat × Nat) => match (s.readProg n p o.desc.step a).2 with
    | .ok q => q.places (fmtOf (f q).1).width (blockOf (f q).2)
    | .error _ => []
  (filledSides o).flatMap (fun x => through x.1.src (srcFmt x.1.word)) ++
    (if o.desc.kind = kTile ∧ o.desc.acc = 1 then through o.desc.init (fun _ => (initFmt o, 0)) else []) ++
    (match o.fused with
     | some f => (o.desc.wparam, fusedParBytes) :: f.par.progs.flatMap (fun a => through a (fun _ => (0xB, 0)))
     | none => if o.desc.wprog = 0xFFFF then [] else [(o.desc.wparam, 1)])

/-- A descriptor reads the parameter region of a bucket for which neither it nor an earlier one of its task and step has waited. -/
def State.unadopted (s : State) (c : Slice) (n p : Nat) (o : Op) (waits : List Passed) : Bool :=
  let places := s.readPlaces n p o
  c.buckets.any (fun b =>
    let span := s.parSpan p b o.desc.step
    places.any (fun a => meets a.1 a.2 b.par0 span || (b.paired && meets a.1 a.2 b.par1 span)) &&
      !(waitsWith o.desc waits).contains { rack := b.arack.val, ctr := b.actr, off := o.desc.srel })

/-! ## One task -/

/-- A task whose slot starts at an entry breaks a rule of validation. -/
def State.taskBad (s : State) (c : Slice) (n p entry : Nat) : Bool :=
  (s.taskOps n c.part.s0 entry).any (fun x => match s.prepared n p x.1 with
    | none => false
    | some o => s.progsBad n p o || (opPairs o).any (fun e => s.pairBad c e.1 e.2) || s.ceilingBad c n p o || s.unadopted c n p o x.2)

end Sys2Proof.Machine
end

