-- ==== Sys2Proof/Machine/Validate.lean ====
section
/-! DEFINITION. Recipe validation (15_recipes.md R302 phase 3, R303): the cross-checks that other chapters assign to it, the checks
against device state, and the digest pass. A check that needs the image in place looks at the state that it would leave. -/

namespace Sys2Proof.Machine

/-! ## Records -/

/-- The records of a list that fail a check, as section type and record index. -/
def badRecs {α : Type} (t : Nat) (l : List α) (okf : Nat → α → Bool) : List (Nat × Nat) :=
  (l.zipIdx.filter (fun x => !okf x.2 x.1)).map (fun x => (t, x.2))

/-- A gang map (04_trays_racks_partitions.md R73), read from tray `t`. -/
def gangsFrom (m : BitVec 32) : Nat → Nat → Nat → Bool
  | 0, _, _ => true
  | fuel + 1, start, t =>
    if 32 ≤ t ∨ m.getLsbD t then
      let g := t - start
      (g == 1 || g == 2 || g == 4 || g == 8 || g == 16 || g == 32) && start % g == 0 &&
        (decide (32 ≤ t) || gangsFrom m fuel t (t + 1))
    else gangsFrom m fuel start (t + 1)

/-- The map is valid, and an excluded tray is a gang of its own (R73, R76). -/
def gangRecOk (g : GangRec) : Bool :=
  g.gangStart.getLsbD 0 && gangsFrom g.gangStart 40 0 1 &&
    (List.range 32).all (fun t => !g.exclude.getLsbD t ||
      (g.gangStart.getLsbD t && (t == 31 || g.gangStart.getLsbD (t + 1))))

/-- A rack has one GANGS record, which names the partition that holds it, or none (R298). -/
def gangPlaced (i : Image) (g : GangRec) : Bool :=
  i.gangs.countP (fun x => x.rack == g.rack) == 1 &&
    i.parts.all (fun r => r.racks.contains g.rack == (g.part == some r.part))

/-- R84, R113, R142, R299; each of its racks has its GANGS and its stream record (R298). -/
def partRecOk (i : Image) (n : Nat) (r : PartRec) : Bool :=
  (r.proofK == 0 || decide (4 ≤ r.proofK.toNat ∧ r.proofK.toNat ≤ 12)) && decide (r.proofSlots ≤ 16) && r.proofSeed != 0 &&
    !r.racks.isEmpty && decide (r.lfirst ≤ r.llast ∧ r.llast < 16384) && decide (r.fscratch ≤ 4 * 2 ^ 20) &&
    r.racks.all (fun k => i.gangs.any (fun g => g.rack == k) && i.streams.countP (fun x => x.rack == k) == 1) &&
    i.parts.zipIdx.all (fun q => q.2 == n ||
      (q.1.part != r.part && decide (q.1.llast < r.lfirst ∨ r.llast < q.1.lfirst) && r.racks.all (fun k => !q.1.racks.contains k)))

/-- The kinds of R223, which must not lie in the Cellar. -/
def hbmOnly (k : RegionKind) : Bool := k == .exchange || k == .steering || k == .proofRing || k == .schedule

/-- R300, 11_cellar.md R223. -/
def regionRecOk (i : Image) (n : Nat) (r : RegionRec) : Bool :=
  r.base % 4096 == 0 && r.size % 4096 == 0 && decide (0 < r.size) &&
    (!hbmOnly r.kind || !meets r.base r.size cellarBase (cellarTop - cellarBase)) &&
    i.regions.zipIdx.all (fun y => y.2 == n || !meets r.base r.size y.1.base y.1.size)

/-- 11_cellar.md R222. -/
def decoderRecOk (i : Image) (n : Nat) (d : DecRec) : Bool :=
  decide (n < 32) && decide (decFirst d + decBytes d ≤ cellarTop) && decide (d.pways + d.eways ≤ 4) &&
    decBytes d / 2 ^ 28 % (decNports d * decNexp d) == 0 &&
    i.decoders.zipIdx.all (fun y => y.2 == n || !meets (decFirst d) (decBytes d) (decFirst y.1) (decBytes y.1))

/-- 12_links_and_ordering.md R232. -/
def linksRecOk (l : LinksRec) : Bool :=
  decide (1 ≤ l.dx ∧ l.dx ≤ 8 ∧ 1 ≤ l.dy ∧ l.dy ≤ 8 ∧ 1 ≤ l.dz ∧ l.dz ≤ 8 ∧ 1 ≤ l.dw ∧ l.dw ≤ 16 ∧
    l.dx * l.dy * l.dz * l.dw ≤ 8192)

/-- 17_clocks_and_islands.md R330, 19_ageing.md R366. -/
def State.clockRecOk (s : State) (c : ClockRec) : Bool :=
  let n := c.island.val
  decide (c.lo.toNat ≤ c.hi.toNat ∧ (Config.permitted n).1 ≤ c.lo.toNat ∧ c.hi.toNat ≤ (Config.permitted n).2) &&
    (n == 79 || decide (c.lo.toNat ≤ (s.island n).aplan.toNat))

/-! ## Steering (07_precision_steering.md R148) -/

/-- A word is valid for a role: G16, which exchanges dW, and MW40, which stores masters, stand in no entry but dW's, whose writes take
neither (R24, R28, R29, 05_feeders.md R110). -/
def wordFits (role : Nat) (w : BitVec 16) : Bool := !cwInvalid w && (decide (cwFmt w < 0xD) || role == 7)

/-- The class, the group and the rung of a steered entry exist; G16 and MW40 stand in Fixed entries only. -/
def entryOk (c : Slice) (i : Nat) (e : LedgerEntry) : Bool :=
  wordFits (i % 8) e.cwE && wordFits (i % 8) e.cwO &&
    (e.state == .fixed ||
      (decide (cwFmt e.cwE < 0xD) && decide (cwFmt e.cwO < 0xD) && c.groups.any (fun g => g.group.val == e.group.toNat) &&
        ((tfind c.classes e.cls.toNat).map (fun k => decide (e.rung.toNat ≤ k.nrung))).getD false))

/-- The Ledger indices of a partition's layers, in order. -/
def layerIndices (r : PartRec) : List Nat := (List.range (8 * (r.llast + 1 - r.lfirst))).map (fun k => 8 * r.lfirst + k)

/-- Three times the MACs for each tray and cycle that R55 gives operands of one format. -/
def pairRate (f : Nat) : Nat :=
  if f ≤ 1 then 24576 else if f ≤ 5 then 12288 else if f ≤ 7 then 3072 else if f = 8 then 1344 else if f = 9 then 1536
  else if f = 10 then 1024 else if f = 11 then 288 else if f = 12 then 48 else 0

/-- The shape of a class's ladder. -/
def classOk (k : ClassRec) : Bool :=
  let fmt := fun (r : Nat) => cwFmt (k.rungs.getD r 0)
  decide (k.floor ≤ k.ceil ∧ k.ceil ≤ k.nrung) &&
    (List.range (k.nrung + 1)).all (fun r => !cwInvalid (k.rungs.getD r 0) && decide (fmt r < 0xD)) &&
    (List.range k.nrung).all (fun r => decide ((fmtOf (fmt r)).width ≤ (fmtOf (fmt (r + 1))).width ∧ pairRate (fmt (r + 1)) ≤ pairRate (fmt r)))

/-- The layers of a group's entries. -/
def State.groupLayers (s : State) (c : Slice) (g : GroupRec) : List Nat := (s.groupEntries c g).map (fun e => e.1 / 8)

/-- A steering group's bucket id, and the devices of every bucket that carries one of its layers. -/
def State.groupOk (s : State) (c : Slice) (g : GroupRec) : Bool :=
  let l := s.groupLayers c g
  decide (0xFFFF0 ≤ g.bucket.toNat) &&
    c.buckets.all (fun b => !l.any (fun x => decide (b.lfirst ≤ x ∧ x ≤ b.llast)) ||
      ((c.rsets.find? (fun r => r.rset == b.rset)).map (fun r => (r.owner :: r.members).all (fun d => d == g.owner || g.members.contains d))).getD
        true)

/-- A lock set: its entries are steered by one group, in classes that agree, and stand in no other set. -/
def State.lockOk (s : State) (c : Slice) (n : Nat) (l : List Nat) : Bool :=
  let ent := fun (i : Nat) => s.ledgerEnt i
  let shape := fun (i : Nat) => (tfind c.classes (ent i).cls.toNat).map (fun k => [k.nrung, k.ceil, k.floor, k.wpersist, k.hyst])
  decide (n < 8192) && l.all (fun i => inLayers c.part i && (ent i).group == (ent (l.headD 0)).group && shape i == shape (l.headD 0)) &&
    c.locks.zipIdx.all (fun y => y.2 == n || l.all (fun i => !y.1.contains i))

/-! ## Buckets and parameter maps (08_training_step.md R164, 09_kneader.md R192, R200) -/

/-- The maps of a bucket tile its elements in ascending offset, up to its padding. -/
def mapsTile (n : Nat) : Nat → List LayerMap → Bool
  | at0, [] => decide (at0 ≤ n)
  | at0, m :: t => m.moff == at0 && mapsTile n (at0 + m.o * m.i) t

def bucketOk (c : Slice) (b : BucketRec) : Bool :=
  decide (b.nseg ≤ 32768) && mapsTile (bktElems b) 0 (c.layers.filter (fun m => m.bid == b.bid))

/-- A map's receive programs yield its elements, and its layer is one that its bucket carries. -/
def State.mapOk (s : State) (c : Slice) (m : LayerMap) : Bool :=
  let count := fun (a : Nat) => (progOf (s.readBytes a progBytes)).count
  c.buckets.any (fun b => b.bid == m.bid && decide (b.lfirst ≤ m.layer ∧ m.layer ≤ b.llast)) &&
    count m.wprg == m.o * m.i && count m.tprg == m.o * m.i

/-! ## Routes (09_kneader.md R177) -/

/-- An edge from a parent by a port to a child that names it back by the opposite port: a torus link (R177, 12_links_and_ordering.md
R232). -/
def State.edgeOk (s : State) (l : List RouteNode) (a : RouteNode) (x : Nat × Nat) : Bool :=
  decide (x.1 < 8) && coordSys (s.rtEntry a.rank).coord == coordSys (s.rtEntry x.2).coord &&
    (s.neighbour (s.rtEntry a.rank).coord x.1 == (s.rtEntry x.2).coord) &&
    l.any (fun b => b.rank == x.2 && b.parent == some (peerPortOf x.1, a.rank))

/-- Devices that the edges reach from a list, in so many rounds. -/
def reached (l : List RouteNode) : Nat → List Nat → List Nat
  | 0, r => r
  | f + 1, r => reached l f (dedup (r ++ (l.filter (fun n => r.contains n.rank)).flatMap (fun n => n.children.map (fun c => c.2))))

/-- A route is a spanning tree of the replica group, rooted at its owner. -/
def State.routeOk (s : State) (r : RouteSet) (t : Route) : Bool :=
  let group := dedup (r.owner :: r.members)
  let l := t.nodes
  l.length == group.length && group.all (fun d => l.countP (fun n => n.rank == d) == 1) &&
    l.all (fun n => (n.parent.isNone == (n.rank == r.owner)) && n.children.all (s.edgeOk l n) &&
      (n.parent.map (fun p => l.any (fun q => q.rank == p.2 && q.children.contains (peerPortOf p.1, n.rank)))).getD true) &&
    (l.foldl (fun k n => k + n.children.length) 0) + 1 == group.length && group.all (fun d => (reached l group.length [r.owner]).contains d)

def State.routeSetOk (s : State) (r : RouteSet) : Bool :=
  decide (r.rset < 256 ∧ 1 ≤ r.routes.length ∧ r.routes.length ≤ 8 ∧ (dedup (r.owner :: r.members)).length ≤ 8192) &&
    r.routes.all (s.routeOk r)

/-! ## Update programs (09_kneader.md R196) -/

/-- How many of the operands a, b and c an operation reads; none where its code is reserved. -/
def updArity (op : Nat) : Option Nat :=
  if op = 0x06 ∨ op = 0x07 ∨ op = 0x0A ∨ op = 0x0B ∨ op = 0x0C ∨ op = 0x3E ∨ op = 0x3F then some 1
  else if op = 0x01 ∨ op = 0x02 ∨ op = 0x03 ∨ op = 0x05 ∨ op = 0x08 ∨ op = 0x09 then some 2
  else if op = 0x04 ∨ op = 0x0D ∨ op = 0x0E then some 3
  else none

def updOp (w : BitVec 32) : Nat := fieldOf w.toNat 31 26

/-- The operand codes that an instruction reads. -/
def updReads (w : BitVec 32) : List Nat :=
  [fieldOf w.toNat 21 16, fieldOf w.toNat 15 10, fieldOf w.toNat 9 4].take ((updArity (updOp w)).getD 0)

/-- An instruction uses a reserved code or bit. -/
def updReserved (nstate : Nat) (w : BitVec 32) : Bool :=
  (updArity (updOp w)).isNone || (updReads w).any (fun k => decide (49 < k)) || fieldOf w.toNat 3 0 != 0 ||
    (updOp w == 0x3E && decide (nstate ≤ fieldOf w.toNat 15 10))

/-- Behind a WUPD or STS, no register is read that no instruction before has written. -/
def updOrdered (written : List Nat) (out : Bool) : List (BitVec 32) → Bool
  | [] => true
  | w :: t =>
    let o := updOp w == 0x3E || updOp w == 0x3F
    (!out || (updReads w).all (fun k => decide (15 < k) || written.contains k)) &&
      updOrdered (if o then written else fieldOf w.toNat 25 22 :: written) (out || o) t

/-- A program is valid for a bucket of so many state words. -/
def updProgOk (nstate : Nat) (l : List (BitVec 32)) : Bool :=
  decide (1 ≤ l.length ∧ l.length ≤ 32) && l.all (fun w => !updReserved nstate w) && l.countP (fun w => updOp w == 0x3F) == 1 &&
    (List.range nstate).all (fun j => l.countP (fun w => updOp w == 0x3E && fieldOf w.toNat 15 10 == j) == 1) && updOrdered [] false l

/-- An owner record: a bucket that this device owns, on the route set that it names, with as many holders as its replica group has, a
valid program and a schedule table (R194 to R196). -/
def State.ownerOk (s : State) (c : Slice) (o : OwnerRec) : Bool :=
  c.buckets.any (fun b => b.bid == o.bid && b.owner == s.lnk.rank.toNat && b.rset == o.rset) &&
    c.rsets.any (fun r => r.rset == o.rset && (dedup (r.owner :: r.members)).length == o.holders + 1) &&
    ((tfind c.uprogs o.uprog).map (updProgOk o.nstate)).getD false && c.scheds.any (fun x => x.sched == o.sched && decide (0 < x.len))

/-! ## Named addresses (15_recipes.md R300) -/

/-- A range lies in a region of a kind that the partition may use. -/
def inKind (regs : List RegionRec) (p : Part) (k : RegionKind) (a n : Nat) : Bool :=
  regs.any (fun r => r.kind == k && (r.owner.map (fun o => o == p)).getD true && decide (r.base ≤ a ∧ a + n ≤ r.base + r.size))

/-- Bytes of a parameter copy of a bucket that its receive programs may write: in either parity's words and in those of the ceiling
rungs (07_precision_steering.md R148, 09_kneader.md R199). -/
def State.parNeed (s : State) (c : Slice) (b : BucketRec) : Nat :=
  (c.layers.filter (fun m => m.bid == b.bid)).foldl (fun n m =>
    let one := fun (role a : Nat) =>
      let e := s.ledgerEnt (ledgerIx m.layer role)
      [e.cwE, e.cwO].foldl (fun k w =>
        let w := s.ceilWord c (ledgerIx m.layer role) w
        max k ((progOf (s.readBytes a progBytes)).reach (fmtOf (cwFmt w)).width (blockOf (cwScl w)) (cwScl w == 2))) 0
    max n (max (one 0 m.wprg) (one 1 m.tprg))) 1

def State.bucketPlaced (s : State) (regs : List RegionRec) (c : Slice) (b : BucketRec) : Bool :=
  let p := c.part.part
  let par := s.parNeed c b
  inKind regs p .exchange b.acc (4 * bktElems b) && inKind regs p .exchange b.gret (2 * bktElems b) &&
    inKind regs p .exchange b.par0 par && (!b.paired || inKind regs p .exchange b.par1 par)

/-- The receive programs of a parameter map lie in data regions, which have no kind of their own (entry 182). -/
def mapPlaced (regs : List RegionRec) (p : Part) (m : LayerMap) : Bool :=
  inKind regs p .data m.wprg progBytes && inKind regs p .data m.tprg progBytes

/-- A blob goes to a region that the partition may use, or into the store of one of its racks (R300, R306). -/
def blobPlaced (regs : List RegionRec) (r : PartRec) (b : BlobRec) : Bool :=
  regs.any (fun g => (g.owner.map (fun o => o == r.part)).getD true && decide (g.base ≤ b.addr ∧ b.addr + b.bytes.length ≤ g.base + g.size)) ||
    r.racks.any (fun k => decide (rackBase + k.val * rackStride ≤ b.addr ∧ b.addr + b.bytes.length ≤ rackBase + k.val * rackStride + rackSize))

def ownerPlaced (regs : List RegionRec) (p : Part) (c : Slice) (o : OwnerRec) : Bool :=
  let n := ((c.buckets.find? (fun b => b.bid == o.bid)).map bktElems).getD 0
  let master := if o.mw40 then 5 * n else 4 * n
  let maps := (c.layers.filter (fun m => m.bid == o.bid)).length
  inKind regs p .master o.mg0 master && inKind regs p .master o.mg1 master && inKind regs p .data o.pmap (32 * maps) &&
    inKind regs p .data o.const 64 &&
    (o.nstate == 0 || (inKind regs p .master o.sg0 ((o.nstate - 1) * o.spitch + 4 * n) &&
      inKind regs p .master o.sg1 ((o.nstate - 1) * o.spitch + 4 * n)))

/-- Every byte of a range lies in a Cellar range that is marked RING (11_cellar.md R221). -/
def ringMarked (decs : List DecRec) (a n : Nat) : Bool :=
  let u := 2 ^ 28
  (List.range ((a + n - 1) / u + 1 - a / u)).all (fun k =>
    decs.any (fun d => d.ring && decide (decFirst d ≤ u * (a / u + k) ∧ u * (a / u + k) < decFirst d + decBytes d)))

/-- 13_recovery.md R256, R266: a fill map has an entry for the schedule shard and for each bucket that the device owns. -/
def snapPlaced (regs : List RegionRec) (decs : List DecRec) (owned : Nat) (x : SnapRec) : Bool :=
  (x.rslots == 0 || decide (2 ≤ x.rslots ∧ x.rslots ≤ 64) && inKind regs x.part .ring x.ringBase (x.slotSize * x.rslots) &&
    ringMarked decs x.ringBase (x.slotSize * x.rslots)) &&
    (x.fillmap == 0 || inKind regs x.part .fillmap x.fillmap (32 * (owned + 1)))

/-! ## Every CHECK_FAILED -/

/-- The failures of a partition's records, on the state that the image would leave. -/
def State.sliceErrs (s : State) (regs : List RegionRec) (c : Slice) : List (Nat × Nat) :=
  let p := c.part.part
  badRecs 0x07 (layerIndices c.part) (fun _ k => entryOk c k (s.ledgerEnt k)) ++
    badRecs 0x07 c.classes (fun _ k => classOk k.2) ++ badRecs 0x07 c.groups (fun _ g => s.groupOk c g) ++
    badRecs 0x07 c.locks (fun n l => s.lockOk c n l) ++
    badRecs 0x08 c.entries (fun _ e => decide (e.slot.val < 128 - c.part.proofSlots) && !s.taskBad c e.rack.val p.val e.addr) ++
    badRecs 0x08 c.library (fun _ e => match e.2 with
      | .whisk l => whiskFits l
      | .fused _ => true) ++
    badRecs 0x09 c.buckets (fun _ b => bucketOk c b && s.bucketPlaced regs c b) ++
    badRecs 0x09 c.layers (fun _ m => s.mapOk c m && mapPlaced regs p m) ++
    badRecs 0x0A c.rsets (fun _ r => s.routeSetOk r) ++ badRecs 0x0A c.owners (fun _ o => s.ownerOk c o && ownerPlaced regs p c o) ++
    badRecs 0x0A c.uprogs (fun _ e => (List.range 5).any (fun n => updProgOk n e.2)) ++ badRecs 0x0A c.scheds (fun _ x => inKind regs p .schedule x.base (64 * x.len))

/-- The failures of an image's records, as section type and record index; `t` is the state that the image would leave. -/
def State.recordErrs (s : State) (i : Image) (target : Option Part) (t : State) : List (Nat × Nat) :=
  let regs := i.regions ++ (if target.isSome then s.rcp.common else [])
  i.bad ++ badRecs 0x01 i.gangs (fun _ g => gangRecOk g && gangPlaced i g) ++ badRecs 0x02 i.parts (partRecOk i) ++
    badRecs 0x02 i.streams (fun _ r => r.streamId != 0xFFFF && r.seed != 0) ++ badRecs 0x03 i.regions (regionRecOk i) ++
    badRecs 0x03 i.windows (fun _ w => decide (w.win < 64 ∧ w.base + w.size ≤ rackSize)) ++
    badRecs 0x04 i.decoders (decoderRecOk i) ++ badRecs 0x04 i.expected (fun n _ => decide (n < 32)) ++
    badRecs 0x05 i.links.toList (fun _ l => linksRecOk l &&
      (l.twinSize == 0 || i.regions.any (fun r => r.kind == .twinStore && decide (r.base ≤ l.twinBase ∧ l.twinBase + l.twinSize ≤ r.base + r.size)))) ++
    badRecs 0x06 i.seals (fun _ x => x.domain.contains x.root) ++
    i.parts.flatMap (fun r => ((t.slice r.part.val).map (t.sliceErrs regs)).getD []) ++
    badRecs 0x0A i.rsets (fun n r => decide (n < 256) && i.rsets.zipIdx.all (fun y => y.2 == n || y.1.2.rset != r.2.rset)) ++
    (if target.isNone && decide (seqPairMax < t.seqPairs.length) then [(0x0A, 0)] else []) ++
    badRecs 0x0B i.snaps (fun _ x => snapPlaced regs t.cxl.decoders (i.owners.countP (fun o => o.1 == x.part)) x) ++
    badRecs 0x0C i.clocks (fun _ c => s.clockRecOk c) ++
    badRecs 0x0D i.blobs (fun _ b => i.parts.any (fun r => r.part == b.1 && blobPlaced regs r b.2))

/-- The first CHECK_FAILED in the order of the directory; a failure in a section that the image does not hold comes last. -/
def checkErr (i : Image) (all : List (Nat × Nat)) : Option Reject :=
  let own := i.dir.zipIdx.findSome? (fun d =>
    (all.find? (fun x => x.1 == d.1.type)).map (fun x => { code := dCheck, arg := x.1, sec := d.2, record := x.2 }))
  own.or (all.head?.map (fun x => { code := dCheck, arg := x.1, record := x.2 }))

/-! ## Checks against device state -/

/-- The partition whose holdings a slice would touch (R306); `t` is the state that it would leave. -/
def State.sliceConflict (s : State) (i : Image) (p : Nat) (t : State) : Option Reject :=
  match i.parts.head? with
  | none => none
  | some r =>
    let c := imageSlice i r
    let clash := fun (q : Nat) (d : Slice) =>
      let first := fun {α : Type} (t : Nat) (l : List α) (f : α → Bool) => (l.findIdx? f).map (fun n => (t, n))
      (first 0x02 [r] (fun x => x.racks.any (fun k => (s.part q).racks.toNat.testBit k.val))).or <|
      (first 0x03 i.regions (fun x => d.regions.any (fun y => meets x.base x.size y.base y.size))).or <|
      (first 0x02 [r] (fun x => decide (¬ (d.part.llast < x.lfirst ∨ x.llast < d.part.lfirst)))).or <|
      (first 0x09 c.buckets (fun b => d.buckets.any (fun e => e.bid == b.bid))).or <|
      (first 0x0A c.rsets (fun b => d.rsets.any (fun e => e.rset == b.rset))).or <|
      (first 0x07 c.groups (fun b => d.groups.any (fun e => e.group == b.group || e.bucket == b.bucket))).or
      (first 0x0A c.scheds (fun b => d.scheds.any (fun e => e.sched == b.sched)))
    let rej := fun (q : Nat) (x : Nat × Nat) => ({ code := dConflict, arg := q, sec := imageIndex i x.1, record := x.2 } : Reject)
    let ownRegion := fun (x : RegionRec) => x.owner.map (fun o => o.val) == some p &&
      !s.rcp.common.any (fun y => meets x.base x.size y.base y.size)
    firstReject
      [ (s.rcp.slices.filter (fun e => e.1 != p)).findSome? (fun e => (clash e.1 e.2).map (rej e.1))
      , (i.regions.findIdx? (fun x => !ownRegion x)).map (fun n => rej p (0x03, n))
      , if i.spE != s.dev.spE.toNat || i.spW != s.dev.spW.toNat then some (rej p (0x03, 0)) else none
      , if decide (seqPairMax < t.seqPairs.length) then some (rej p (0x0A, 0)) else none ]

/-- The first failed tray that a loaded rack would keep in service (04_trays_racks_partitions.md R76). -/
def State.trayErr (s : State) (i : Image) : Option Reject :=
  i.gangs.zipIdx.findSome? (fun x =>
    let g := x.1
    if g.part.isNone then none
    else
      (List.range 32).findSome? (fun t =>
        if (s.rack g.rack.val).failed.getLsbD t && !g.exclude.getLsbD t then
          some { code := dTray, arg := 32 * g.rack.val + t, sec := imageIndex i 0x01, record := x.2 }
        else none))

/-- The expander that a target names answers as expected (11_cellar.md R224). -/
def State.targetPresent (s : State) (expected : List ExpectRec) (t : Nat × Nat) : Bool :=
  let c := s.cxlPort t.1
  match c.exps.find? (fun e => e.dsp == c.dsp t.2 && !e.failed) with
  | none => false
  | some e => c.state == 2 &&
    (expected.filter (fun x => x.port == t.1 && c.dsp x.dsp == c.dsp t.2)).all (fun x => x.serial == e.serial && decide (x.capG ≤ e.capG))

/-- A commit that covers a Cellar region checks every decoder target against the inventory. -/
def State.cellarErr (s : State) (i : Image) (slice : Bool) : Option Reject :=
  let covers := i.regions.any (fun r => decide (cellarBase < r.base + r.size ∧ r.base < cellarTop))
  let decs := if slice then s.cxl.decoders else i.decoders
  let exp := if slice then s.cxl.expected else i.expected
  if !covers then none
  else
    ((decs.flatMap allTargets).find? (fun t => !s.targetPresent exp t)).map
      (fun t => { code := dCellar, arg := 8 * t.1 + t.2, sec := imageIndex i 0x04 })

/-- A miswired port of a dimension of size 2 or more, or port T where a twin is named (12_links_and_ordering.md R233). -/
def State.miswiredErr (s : State) (i : Image) (slice : Bool) : Option Reject :=
  match (if slice then s.rcp.links else i.links) with
  | none => none
  | some l =>
    let size := fun (k : Nat) => if k = 0 then l.dx else if k = 1 then l.dy else if k = 2 then l.dz else l.dw
    ((List.range 9).find? (fun n => (s.port n).state == .miswired &&
      (if n = portT then l.twinNamed else decide (2 ≤ size (n / 2))))).map
      (fun n => { code := dMiswired, arg := n, sec := imageIndex i 0x05 })

/-- Phases 2 and 3: the first rejection in the order of R303. -/
def State.imageErr (s : State) (j : CommitJob) (i : Image) (sigOk : Bool) : Option Reject :=
  let named := overAll i.parts (fun r u => { u with rcp := { u.rcp with pdigest := tset u.rcp.pdigest 0 r.part.val j.digest } }) s
  let t := named.applied j.slice i
  firstReject
    [ if i.length ≠ j.length then some { code := dImagePlace } else none
    , if (List.range 4).any (fun k => tget s.per.owners none k == some i.pkHash) then none else some { code := dSigKey }
    , if sigOk then none else some { code := dSigBadImage }
    , if headerOk i j then none else some { code := dHeader }
    , sectionErr i j.slice
    , scopeErr i (if j.slice then some j.part else none)
    , checkErr i (s.recordErrs i (if j.slice then some j.part else none) t)
    , if j.slice then s.sliceConflict i j.part.val t else none
    , s.trayErr i
    , s.cellarErr i j.slice
    , s.miswiredErr i j.slice ]

/-! ## DIGEST_PASS (R302) -/

/-- The pass ends: the image is read, its signature is checked and it is validated; it then goes into the apply phase. -/
def State.digestPass (s : State) (lay : ImageLay) (sigOk : Bool) (ue : Option Nat) : State :=
  match s.rcp.job with
  | none => s
  | some j =>
    if s.rcp.phase ≠ 2 then s
    else
      let r := s.imageRead j ue
      match r.2 with
      | none => r.1.rejectCommit j { code := dImageUe }
      | some b =>
        let i := imageOf s.lnk.rank.toNat lay b
        let j := { j with digest := imageDigest b, img := some i }
        match r.1.imageErr j i sigOk with
        | some e => r.1.rejectCommit j e
        | none =>
          { r.1 with rcp := { r.1.rcp with
              job := some j
              phase := 4, progress := 0 } }

def execDigestPass (lay : ImageLay) (sigOk : Bool) (ue : Option Nat) (s : State) : Host.Outcome State Fault Refusal :=
  .next (s.digestPass lay sigOk ue)

end Sys2Proof.Machine
end

