-- ==== Sys2Proof/Machine/Dispatch.lean ====
section
/-! DEFINITION. One arm for each row of spec/opcode_table.json: the meaning that the row's command has. -/

namespace Sys2Proof.Machine

def exec (i : Instr) (s : State) : Host.Outcome State Fault Refusal :=
  match i with
  | .powerOn aonOk => Sys2Proof.Machine.execPowerOn aonOk s
  | .powerLoss => Sys2Proof.Machine.execPowerLoss s
  | .boot => Sys2Proof.Machine.execBoot s
  | .firmwareStart sig0 sig1 => Sys2Proof.Machine.execFirmwareStart sig0 sig1 s
  | .brownoutResponse rail => Sys2Proof.Machine.execBrownoutResponse rail s
  | .brownoutEnd => Sys2Proof.Machine.execBrownoutEnd s
  | .brownoutLong => Sys2Proof.Machine.execBrownoutLong s
  | .brownoutReset rail => Sys2Proof.Machine.execBrownoutReset rail s
  | .pinWarmReset ns => Sys2Proof.Machine.execPinWarmReset ns s
  | .hostWake ns => Sys2Proof.Machine.execHostWake ns s
  | .thermalThrottle temps => Sys2Proof.Machine.execThermalThrottle temps s
  | .dutyRise temps => Sys2Proof.Machine.execDutyRise temps s
  | .thermalMax t => Sys2Proof.Machine.execThermalMax t s
  | .thermalTrip t => Sys2Proof.Machine.execThermalTrip t s
  | .xtalCheckWindow count => Sys2Proof.Machine.execXtalCheckWindow count s
  | .crystalHandover => Sys2Proof.Machine.execCrystalHandover s
  | .clkLoss count1 count2 => Sys2Proof.Machine.execClkLoss count1 count2 s
  | .islCoast n => Sys2Proof.Machine.execIslCoast n s
  | .launch sweep => Sys2Proof.Machine.execLaunch sweep s
  | .planSwitch n => Sys2Proof.Machine.execPlanSwitch n s
  | .heartbeat => Sys2Proof.Machine.execHeartbeat s
  | .hubFailure is79 cause => Sys2Proof.Machine.execHubFailure is79 cause s
  | .bridgeReplay bridge ok => Sys2Proof.Machine.execBridgeReplay bridge ok s
  | .selfTestDone failed => Sys2Proof.Machine.execSelfTestDone failed s
  | .deviceReady => Sys2Proof.Machine.execDeviceReady s
  | .survey meas => Sys2Proof.Machine.execSurvey meas s
  | .daily => Sys2Proof.Machine.execDaily s
  | .querosTraining lanes => Sys2Proof.Machine.execQuerosTraining lanes s
  | .trainingRetry lanes => Sys2Proof.Machine.execTrainingRetry lanes s
  | .frame bytes => Sys2Proof.Machine.execFrame bytes s
  | .credit bytes => Sys2Proof.Machine.execCredit bytes s
  | .regRead c => Sys2Proof.Machine.execRegRead c s
  | .regWrite c => Sys2Proof.Machine.execRegWrite c s
  | .peelSet c => Sys2Proof.Machine.execPeelSet c s
  | .peelClose c => Sys2Proof.Machine.execPeelClose c s
  | .commit c => Sys2Proof.Machine.execCommit c s
  | .digestPass lay sigOk ue => Sys2Proof.Machine.execDigestPass lay sigOk ue s
  | .applyPass ue => Sys2Proof.Machine.execApplyPass ue s
  | .keyInstall c sigOk stored => Sys2Proof.Machine.execKeyInstall c sigOk stored s
  | .debug c sigOk => Sys2Proof.Machine.execDebug c sigOk s
  | .attest c rnd => Sys2Proof.Machine.execAttest c rnd s
  | .nop c => Sys2Proof.Machine.execNop c s
  | .commandWarmReset c => Sys2Proof.Machine.execCommandWarmReset c s
  | .fabricReset c => Sys2Proof.Machine.execFabricReset c s
  | .partitionReset c => Sys2Proof.Machine.execPartitionReset c s
  | .rackReset c => Sys2Proof.Machine.execRackReset c s
  | .flush c => Sys2Proof.Machine.execFlush c s
  | .writeBurst w bid blen data => Sys2Proof.Machine.execWriteBurst w bid blen data s
  | .readBurst w bid blen ue => Sys2Proof.Machine.execReadBurst w bid blen ue s
  | .eventSend => Sys2Proof.Machine.execEventSend s
  | .challengeRead c => Sys2Proof.Machine.execChallengeRead c s
  | .mboxAccess c => Sys2Proof.Machine.execMboxAccess c s
  | .ageLogRead c => Sys2Proof.Machine.execAgeLogRead c s
  | .inreadyWrite c => Sys2Proof.Machine.execInreadyWrite c s
  | .clkoutWrite c => Sys2Proof.Machine.execClkoutWrite c s
  | .snpCtlWrite c => Sys2Proof.Machine.execSnpCtlWrite c s
  | .traceEnable c => Sys2Proof.Machine.execTraceEnable c s
  | .counterClear c => Sys2Proof.Machine.execCounterClear c s
  | .readableCopy n => Sys2Proof.Machine.execReadableCopy n s
  | .stage c sigOk => Sys2Proof.Machine.execStage c sigOk s
  | .lock c => Sys2Proof.Machine.execLock c s
  | .relock c => Sys2Proof.Machine.execRelock c s
  | .enter c => Sys2Proof.Machine.execEnter c s
  | .exit c => Sys2Proof.Machine.execExit c s
  | .ageApply c => Sys2Proof.Machine.execAgeApply c s
  | .discardProposals c => Sys2Proof.Machine.execDiscardProposals c s
  | .run c => Sys2Proof.Machine.execRun c s
  | .halt c => Sys2Proof.Machine.execHalt c s
  | .halted p => Sys2Proof.Machine.execHalted p s
  | .haltFault c => Sys2Proof.Machine.execHaltFault c s
  | .retry c => Sys2Proof.Machine.execRetry c s
  | .pin c => Sys2Proof.Machine.execPin c s
  | .unpin c => Sys2Proof.Machine.execUnpin c s
  | .clearCeil c => Sys2Proof.Machine.execClearCeil c s
  | .freeze c => Sys2Proof.Machine.execFreeze c s
  | .thaw c => Sys2Proof.Machine.execThaw c s
  | .hostack c => Sys2Proof.Machine.execHostack c s
  | .hold c => Sys2Proof.Machine.execHold c s
  | .ringSlotRelease c => Sys2Proof.Machine.execRingSlotRelease c s
  | .fenceSelf c => Sys2Proof.Machine.execFenceSelf c s
  | .rollback c => Sys2Proof.Machine.execRollback c s
  | .restore c => Sys2Proof.Machine.execRestore c s
  | .fill c => Sys2Proof.Machine.execFill c s
  | .migrateDrain c => Sys2Proof.Machine.execMigrateDrain c s
  | .migrateDiscard c => Sys2Proof.Machine.execMigrateDiscard c s
  | .hostfill c => Sys2Proof.Machine.execHostfill c s
  | .addEntry c => Sys2Proof.Machine.execAddEntry c s
  | .clearList c => Sys2Proof.Machine.execClearList c s
  | .setArmed c => Sys2Proof.Machine.execSetArmed c s
  | .linkRetrain c => Sys2Proof.Machine.execLinkRetrain c s
  | .linkTakeDown c => Sys2Proof.Machine.execLinkTakeDown c s
  | .apply c => Sys2Proof.Machine.execApply c s
  | .discardStaged c => Sys2Proof.Machine.execDiscardStaged c s
  | .setrank c => Sys2Proof.Machine.execSetrank c s
  | .cxlRetrain c => Sys2Proof.Machine.execCxlRetrain c s
  | .cxlTakeDown c => Sys2Proof.Machine.execCxlTakeDown c s
  | .cxlEnumeration n found => Sys2Proof.Machine.execCxlEnumeration n found s
  | .stepOpen p => Sys2Proof.Machine.execStepOpen p s
  | .descriptorFetch n j ue => Sys2Proof.Machine.execDescriptorFetch n j ue s
  | .loop n j => Sys2Proof.Machine.execLoop n j s
  | .endDesc n j => Sys2Proof.Machine.execEndDesc n j s
  | .syncIssue n j => Sys2Proof.Machine.execSyncIssue n j s
  | .latch n j ue => Sys2Proof.Machine.execLatch n j ue s
  | .fillDone n j k ue => Sys2Proof.Machine.execFillDone n j k ue s
  | .pick n => Sys2Proof.Machine.execPick n s
  | .classAgeing n j => Sys2Proof.Machine.execClassAgeing n j s
  | .issue n j => Sys2Proof.Machine.execIssue n j s
  | .demandRelease n j => Sys2Proof.Machine.execDemandRelease n j s
  | .resultReady n j ue => Sys2Proof.Machine.execResultReady n j ue s
  | .whiskPass n j => Sys2Proof.Machine.execWhiskPass n j s
  | .operationComplete n j => Sys2Proof.Machine.execOperationComplete n j s
  | .signal n ctr inc step => Sys2Proof.Machine.execSignal n ctr inc step s
  | .proofTaskComplete n j => Sys2Proof.Machine.execProofTaskComplete n j s
  | .statsMerge n index odd => Sys2Proof.Machine.execStatsMerge n index odd s
  | .windowClose p => Sys2Proof.Machine.execWindowClose p s
  | .steeringRecord k => Sys2Proof.Machine.execSteeringRecord k s
  | .watchdog p => Sys2Proof.Machine.execWatchdog p s
  | .partitionFault p cause n => Sys2Proof.Machine.execPartitionFault p cause n s
  | .admission bid step => Sys2Proof.Machine.execAdmission bid step s
  | .amax k => Sys2Proof.Machine.execAmax k s
  | .scale k => Sys2Proof.Machine.execScale k s
  | .gseg k => Sys2Proof.Machine.execGseg k s
  | .csum k => Sys2Proof.Machine.execCsum k s
  | .replay k => Sys2Proof.Machine.execReplay k s
  | .updateDone bid step ue => Sys2Proof.Machine.execUpdateDone bid step ue s
  | .ptile k => Sys2Proof.Machine.execPtile k s
  | .paramEnd k => Sys2Proof.Machine.execParamEnd k s
  | .adopted k => Sys2Proof.Machine.execAdopted k s
  | .commitWord k => Sys2Proof.Machine.execCommitWord k s
  | .clear k => Sys2Proof.Machine.execClear k s
  | .sealReady k => Sys2Proof.Machine.execSealReady k s
  | .seal k => Sys2Proof.Machine.execSeal k s
  | .rollbackWord k => Sys2Proof.Machine.execRollbackWord k s
  | .routeChanged k => Sys2Proof.Machine.execRouteChanged k s
  | .paramResend k => Sys2Proof.Machine.execParamResend k s
  | .portTrained n => Sys2Proof.Machine.execPortTrained n s
  | .linkId n k => Sys2Proof.Machine.execLinkId n k s
  | .flit n bytes fec reads => Sys2Proof.Machine.execFlit n bytes fec reads s
  | .linkDown n why => Sys2Proof.Machine.execLinkDown n why s
  | .linkStandby n => Sys2Proof.Machine.execLinkStandby n s
  | .linkResume n => Sys2Proof.Machine.execLinkResume n s
  | .fenced n k => Sys2Proof.Machine.execFenced n k s
  | .packet n k => Sys2Proof.Machine.execPacket n k s
  | .fence k => Sys2Proof.Machine.execFence k s
  | .drainLimit src stream => Sys2Proof.Machine.execDrainLimit src stream s
  | .hbmRead k sector who rid pat => Sys2Proof.Machine.execHbmRead k sector who rid pat s
  | .hbmWrite k sector who rid bytes => Sys2Proof.Machine.execHbmWrite k sector who rid bytes s
  | .readModifyWrite k sector pat => Sys2Proof.Machine.execReadModifyWrite k sector pat s
  | .patrolScrub k pat => Sys2Proof.Machine.execPatrolScrub k pat s
  | .stackFail k => Sys2Proof.Machine.execStackFail k s
  | .ndr n req => Sys2Proof.Machine.execNdr n req s
  | .drs n req poison => Sys2Proof.Machine.execDrs n req poison s
  | .timeout n req rd => Sys2Proof.Machine.execTimeout n req rd s
  | .cxlLinkDown n dsp why => Sys2Proof.Machine.execCxlLinkDown n dsp why s
  | .snap k => Sys2Proof.Machine.execSnap k s
  | .snapAck k => Sys2Proof.Machine.execSnapAck k s
  | .snapNak k => Sys2Proof.Machine.execSnapNak k s
  | .fillReq k => Sys2Proof.Machine.execFillReq k s
  | .fillPacket k => Sys2Proof.Machine.execFillPacket k s
  | .fillEnd k => Sys2Proof.Machine.execFillEnd k s
  | .fillTimeout p => Sys2Proof.Machine.execFillTimeout p s
  | .restored k => Sys2Proof.Machine.execRestored k s
  | .resume k => Sys2Proof.Machine.execResume k s
  | .handover k => Sys2Proof.Machine.execHandover k s
  | .peerTraining n => Sys2Proof.Machine.execPeerTraining n s
  | .dutyReturn temps => Sys2Proof.Machine.execDutyReturn temps s
  | .rungEntryDone => Sys2Proof.Machine.execRungEntryDone s
  | .voteRecord k => Sys2Proof.Machine.execVoteRecord k s
  | .traceWrite n => Sys2Proof.Machine.execTraceWrite n s
  | .fabricResetDone => Sys2Proof.Machine.execFabricResetDone s
  | .wrstNRise => Sys2Proof.Machine.execWrstNRise s

end Sys2Proof.Machine
end

