-- ==== Sys2Proof/Safety.lean ====
section
/-! DEFINITION. What counts as a sound state, and the terms in which claims speak of a command: that a step answers a state,
and that a host record is taken. -/

namespace Sys2Proof

/-- The memory invariant: the list of bytes is in its canonical form. -/
def MemInv (s : Machine.State) : Prop := Machine.Memory.wf s.mem = true

/-- A step that answers a next state. -/
def StepsTo (s t : Machine.State) : Prop := Machine.step s = .next t

/-- A command takes effect: it answers a next state. -/
def Does (c : Instr) (s t : Machine.State) : Prop := Machine.exec c s = .next t

/-- The record of a host command leaves its queue: it arrives on an empty queue that the processor picks, or stands at the
head of the queue that the processor picks (14_queros_host_link.md R280, R283). -/
def Leaves (s : Machine.State) (c : Sys2Proof.Cmd) (u : Machine.State) : Prop :=
  s.picks c.q.val = true ∧
    (((s.queue c.q.val).fifo = [] ∧ s.linkReady = true ∧ u = (s.linkWoken.useCredit c.q.val).taken c.q.val) ∨
      ((s.queue c.q.val).fifo.head? = some c.r ∧ u = s.taken c.q.val))

/-- The record is taken and passes the checks of R284 and R285; its counter is accepted (16_trust.md R321). The operation
acts on `t`. -/
def Taken (s : Machine.State) (c : Sys2Proof.Cmd) (t : Machine.State) : Prop :=
  ∃ u, Leaves s c u ∧ u.badOpcode c.r = false ∧
    ((c.r.crit = false ∧ Machine.needsCrit c.r = false ∧ t = u) ∨
      (c.r.crit = true ∧ u.critErr c.q.val c.r = none ∧ u.accept c.q.val c.r.ctr c.pok = some t))

/-- An INSTALL, RELEASE or debug record is taken, passes the checks of R285 on its bytes, and its owner record is read as `b`; its
counter is not yet judged (16_trust.md R319). The operation acts on `t`. -/
def TakesRecord (s : Machine.State) (c : Sys2Proof.Cmd) (t : Machine.State) (b : List Byte) : Prop :=
  ∃ u, Leaves s c u ∧ u.badOpcode c.r = false ∧ c.r.crit = true ∧ u.tagErr c.q.val c.r = none ∧
    u.installBytes c.r = (t, .ok b)

/-- A REG_WRITE record of a row is taken and reaches its register `r`, which the write would leave as `v`
(23_register_map.md R406, R407). -/
def Writes (s : Machine.State) (c : Sys2Proof.Cmd) (w : Machine.WriteRow) (t : Machine.State) (r : Machine.Reg) (v : Nat) : Prop :=
  Taken s c t ∧ Machine.isWrite w s c.r = true ∧ Machine.regAt c.r.addr.toNat = some r ∧ t.isOn r.island = true ∧
    Machine.setsReserved r c.r = false ∧ v = t.wouldBe r c.r

/-- A REG_READ record is taken and reaches its register `r` (14_queros_host_link.md R282). -/
def Reads (s : Machine.State) (c : Sys2Proof.Cmd) (t : Machine.State) (r : Machine.Reg) : Prop :=
  Taken s c t ∧ c.r.op = Machine.opRead ∧ Machine.regAt c.r.addr.toNat = some r ∧ t.isOn r.island = true

/-- A memory key lies in the store of a rack that no partition holds (04_trays_racks_partitions.md R84). -/
def IdleStore (s : Machine.State) (k : Nat) : Prop :=
  ∃ n < 48, s.partOf n = none ∧ Machine.rackBase + n * Machine.rackStride ≤ k ∧
    k < Machine.rackBase + n * Machine.rackStride + Machine.rackSize

/-- The rows that write no byte of memory, whatever the state and the operands: heat, clocks, ageing, Queros, registers and
windows, admission of a COMMIT, trust, observation, snapshots' bookkeeping, port words, fences, HBM reads, and the picks of the task
engines. -/
def storesNothing : Instr → Bool
  | .boot | .brownoutResponse _ | .brownoutEnd | .hostWake _ | .thermalThrottle _ | .dutyRise _ | .thermalMax _ | .dutyReturn _ => true
  | .xtalCheckWindow _ | .crystalHandover | .clkLoss .. | .heartbeat | .survey _ | .daily => true
  | .querosTraining _ | .trainingRetry _ | .regRead _ | .regWrite _ | .peelSet _ | .peelClose _ | .nop _ | .flush _ | .eventSend => true
  | .commit _ | .keyInstall .. | .debug .. | .challengeRead _ | .mboxAccess _ | .ageLogRead _ | .inreadyWrite _ | .clkoutWrite _ => true
  | .snpCtlWrite _ | .traceEnable _ | .counterClear _ | .stage .. | .lock _ | .relock _ | .enter _ | .exit _ => true
  | .ageApply _ | .discardProposals _ | .hold _ | .ringSlotRelease _ | .hostack _ | .addEntry _ | .clearList _ | .setArmed _ => true
  | .discardStaged _ | .setrank _ | .cxlRetrain _ | .portTrained _ | .peerTraining _ | .linkId .. | .linkResume _ | .fenced .. => true
  | .flit .. | .fence _ | .drainLimit .. | .hbmRead .. | .readModifyWrite .. | .patrolScrub .. => true
  | .snapAck _ | .snapNak _ | .fillReq _ | .stepOpen _ | .pick _ | .classAgeing .. | .syncIssue .. | .demandRelease .. => true
  | _ => false

/-- The completion of a command with status OK (14_queros_host_link.md R284). -/
def done (s : Machine.State) (c : Sys2Proof.Cmd) : Machine.State := s.complete c.q.val c.r.htag Machine.stOk 0 0

end Sys2Proof
end

