-- ==== Sys2Proof/Certificates/Slice0/Obligations.lean ====
section
/-! DEFINITION. The statements for the provers. -/

open Sys2Proof Sys2Proof.Machine

/-! ## Power, resets and rungs -/

/-- POWER_ON with VDD_AON good leaves every island but 79 Off, counts BOOTS, forgets all but the persistent store and the
expanders' memory (R371, R379; the zero that other bytes read is the model's choice, entry 5), and without it changes nothing. POWER_LOSS switches islands 0
to 78 Off, disarms the brownout monitors, drives every CXL_PERST_N low and keeps the persistent store (R428, R420). -/
def Obligations.PowerRisesAndFalls : Prop :=
  (∀ s : State, ∃ t, Does (.powerOn true) s t ∧ t.pending = s.pending ∧ t.per.boots = satAdd s.per.boots 1 ∧
    t.per.oseq = s.per.oseq ∧ t.per.hq = s.per.hq ∧ t.per.ageLog = s.per.ageLog ∧
    t.hkp.lastReset = 1 ∧ t.hkp.boot = .held ∧
    t = { State.reset with
          pending := s.pending, sent := s.sent, freeCtr := s.freeCtr, mem := t.mem, secded := t.secded, isl := t.isl, per := t.per
          qrs := { queues := s.per.freshQueues }, hkp := { lastReset := 1, resetting := some .powerOn } } ∧
    (∀ n, (t.island n).pow = if n = 79 then .on else .off) ∧
    (∀ a, cellarBase ≤ a → t.byteAt a = s.byteAt a) ∧ (∀ a, a < cellarBase → t.byteAt a = 0)) ∧
  (∀ s : State, Does (.powerOn false) s s) ∧
  (∀ s : State, ∃ t, Does .powerLoss s t ∧ t.per = s.per ∧ t.hkp.pwrok = false ∧ t.hkp.monArmed = false ∧ t.hkp.perstReleased = [] ∧
    t.hkp.timersOn = s.hkp.timersOn ∧ t.island 79 = s.island 79 ∧ (∀ n < 79, (t.island n).pow = .off) ∧
    (∀ a, cellarBase ≤ a → t.byteAt a = s.byteAt a))

/-- BOOT starts island 78 alone and the boot ROM; the valid slot with the higher VERSION starts, and with none the ROM goes
on in recovery mode (R314, R315). -/
def Obligations.BootChoosesFirmware : Prop :=
  (∀ s : State, s.hkp.boot = .held → s.hkp.pwrok = true → s.hkp.wrstLow = false → s.hkp.thermTripLow = false → s.hkp.rung ≠ 4 →
    ∃ t, Does .boot s t ∧ t = { s with isl := t.isl, qrs := t.qrs, hkp := { s.hkp with boot := .rom } } ∧
      (t.island 78).pow = .on ∧ ∀ n, n ≠ 78 → t.island n = s.island n) ∧
  (∀ (s : State) (f g : FwImage), s.hkp.boot = .rom → s.hkp.exiting = none → s.per.fwSlot0 = some f → s.per.fwSlot1 = some g →
    f.pkHash = rootHash → g.pkHash = rootHash → s.per.fwMin.toNat ≤ f.version.toNat → f.version.toNat < g.version.toNat →
    ∃ t, Does (.firmwareStart true true) s t ∧ t.hkp.boot = .firmware ∧ t.cru.fwActive = true ∧ t.cru.fwDigest = g.digest ∧
      t.cru.fwVer = g.version ∧ t.cru.keys = s.cru.keys ∧ t.per = s.per ∧ t.mem = s.mem) ∧
  (∀ s : State, s.hkp.boot = .rom → s.hkp.exiting = none →
    ∃ t, Does (.firmwareStart false false) s t ∧ t.hkp.boot = .recovery ∧ t.cru.fwDigest = 0 ∧ t.per = s.per)

/-- A rail below 93 % halves every running island and counts the response; the end clears the dividers; after 10 ms LONG is
set and BROWNOUT_LONG raised; a rail below 88 % writes cause and rail and resets the device (R351 to R354, R372). -/
def Obligations.BrownoutResponds : Prop :=
  (∀ (s : State) (r : Rail), s.hkp.monArmed = true → s.hkp.boActive = false →
    ∃ t, Does (.brownoutResponse r) s t ∧ t = { s with isl := t.isl, hkp := t.hkp, parts := t.parts } ∧ t.hkp.boActive = true ∧
      t.hkp.boSeq = s.hkp.boSeq + 1 ∧ t.hkp.boCount = satAdd s.hkp.boCount 1 ∧ t.hkp.boRail.toNat = r.val ∧
      (∀ n < 79, (s.island n).pow = .on → (s.island n).coast = false → (t.island n).halved = true) ∧
      t.island 79 = s.island 79) ∧
  (∀ s : State, s.hkp.boActive = true → s.hkp.waitExit = false → ∃ t, Does .brownoutEnd s t ∧ t.hkp.boActive = false ∧
      (∀ n < 79, t.island n = { s.island n with halved := false }) ∧ t.mem = s.mem ∧ t.parts = s.parts ∧ t.racks = s.racks) ∧
  (∀ s : State, s.hkp.boActive = true → s.hkp.boRaised = false → s.isOn 78 = true → s.qrs.evBuf.length < evBufMax →
    ∃ t e, Does .brownoutLong s t ∧ t.hkp.boLong = true ∧ t.qrs.evBuf = s.qrs.evBuf ++ [e] ∧ e.src = 79 ∧ e.code = .brownoutLong ∧
      e.payload = [(s.hkp.boSeq.toNat : Int), (s.hkp.boRail.toNat : Int)] ∧ t.mem = s.mem ∧ t.isl = s.isl) ∧
  (∀ (s : State) (r : Rail), s.hkp.monArmed = true → s.dev.hub79 = false → ∃ t, Does (.brownoutReset r) s t ∧ t.per.brst = satAdd s.per.brst 1 ∧
      t.per.brRail.toNat = r.val ∧ t.per.boots = satAdd s.per.boots 1 ∧ t.hkp.lastReset = 2 ∧ t.parts = [] ∧
      (∀ n < 79, (t.island n).pow = .off))

/-- A low pulse of WRST_N from 1 µs is a warm reset and one below 200 ns is none; one between is taken whole or not at all, for
any free value (R425). The reset keeps HBM and counts WARMS (R374,
R376); its release is the rise of the pin. The RESET command of kind 1 completes before it acts (R373). -/
def Obligations.WarmResetsKeepHbm : Prop :=
  (∀ (s : State) (ns : Nat), ns < 200 → Does (.pinWarmReset ns) s s) ∧
  (∀ (s : State) (ns : Nat), 1000 ≤ ns → s.hkp.pwrok = true → s.coldHeld = false →
    ∃ t, Does (.pinWarmReset ns) s t ∧ t.hkp.wrstLow = true ∧ t.hkp.warms = satAdd s.hkp.warms 1 ∧ t.hkp.lastReset = 3 ∧
      t.hkp.boot = .held ∧ t.cru.keys = s.cru.keys ∧ t.per = s.per ∧ t.parts = [] ∧ t.rcp = {} ∧ (∀ n < 79, (t.island n).pow = .off) ∧
      (∀ k < hbmTop, tget t.mem emptyByte k = tget s.mem emptyByte k)) ∧
  (∀ (s : State) (ns : Nat), 200 ≤ ns → ns < 1000 → s.hkp.pwrok = true → s.coldHeld = false →
    ∃ t, Does (.pinWarmReset ns) s t ∧ t.freeCtr = s.freeCtr + 1 ∧
      (t = { s with freeCtr := s.freeCtr + 1 } ∨
        (t.hkp.wrstLow = true ∧ t.hkp.warms = satAdd s.hkp.warms 1 ∧ t.hkp.lastReset = 3 ∧ t.parts = [] ∧
          (∀ n < 79, (t.island n).pow = .off)))) ∧
  (∀ s : State, Does .wrstNRise s { s with hkp := { s.hkp with wrstLow := false } }) ∧
  (∀ (s : State) (c : Cmd) (t : State), Taken s c t → isReset 1 s c.r = true → resetOk c.r = true →
    ∃ r, Does (.commandWarmReset c) s r ∧ r.sent = t.sent ++ [.completion c.q.val c.r.htag stOk 0 0] ∧
      r.hkp.warms = satAdd t.hkp.warms 1 ∧ r.hkp.lastReset = 4 ∧ r.parts = [] ∧ (∀ n < 79, (r.island n).pow = .off) ∧
      (∀ k < hbmTop, tget r.mem emptyByte k = tget t.mem emptyByte k))

/-- In an interval with a sensor of a die, or of the hub die, at 100 °C and above the duty of that die's racks falls by a
sixteenth, to no less than 4; below 97 °C everywhere both duties rise by one; at 105 °C issue is held whole, HOT105 sets and
THERMAL_MAX is raised; with every sensor below 100 °C issue returns at 4; at 115 °C islands 0 to 78 go Off, the cause is stored
and THERMTRIP_N is driven low (R355, R356). The readings go to their islands, and nothing else changes. -/
def Obligations.HeatThrottlesAndTrips : Prop :=
  (∀ (s : State) (l : List Temp), ∃ u, Does (.thermalThrottle l) s u ∧
    u = { s with isl := (s.readTemps l).isl, hkp := u.hkp, parts := u.parts } ∧
    u.hkp.dutyE = (if (s.readTemps l).hotDie 0 then dutyDown s.hkp.dutyE else s.hkp.dutyE) ∧
    u.hkp.dutyW = (if (s.readTemps l).hotDie 1 then dutyDown s.hkp.dutyW else s.hkp.dutyW)) ∧
  (∀ (s : State) (t : Temp), 100 ≤ t.celsius.toNat → dieOf t.island.val = 2 →
    ∃ u, Does (.thermalThrottle [t]) s u ∧ u = { s with isl := u.isl, hkp := u.hkp, parts := u.parts } ∧
      u.hkp.dutyE = dutyDown s.hkp.dutyE ∧ u.hkp.dutyW = dutyDown s.hkp.dutyW) ∧
  (∀ (s : State) (t : Temp), 100 ≤ t.celsius.toNat → dieOf t.island.val = 0 →
    ∃ u, Does (.thermalThrottle [t]) s u ∧ u.hkp.dutyE = dutyDown s.hkp.dutyE) ∧
  (∀ (s : State) (t : Temp), 100 ≤ t.celsius.toNat → dieOf t.island.val = 1 →
    ∃ u, Does (.thermalThrottle [t]) s u ∧ u.hkp.dutyW = dutyDown s.hkp.dutyW) ∧
  (∀ (s : State) (l : List Temp), (s.readTemps l).coolerThan 97 = true →
    ∃ u, Does (.dutyRise l) s u ∧ u = { s with isl := (s.readTemps l).isl, hkp := u.hkp, parts := u.parts } ∧
      u.hkp.dutyE = dutyUp s.hkp.dutyE ∧ u.hkp.dutyW = dutyUp s.hkp.dutyW) ∧
  (∀ (s : State) (t : Temp), 105 ≤ t.celsius.toNat →
    ∃ u, Does (.thermalMax t) s u ∧ u = { s with isl := u.isl, hkp := u.hkp, parts := u.parts, qrs := u.qrs } ∧
      u.hkp.dutyE = 0 ∧ u.hkp.dutyW = 0 ∧ u.hkp.hot105 = true ∧ (u.island t.island.val).temp = t.celsius ∧
      ((s.readTemps [t]).isOn 78 = true → s.qrs.evBuf.length < evBufMax →
        ∃ e, u.qrs.evBuf = s.qrs.evBuf ++ [e] ∧ e.code = .thermalMax ∧ e.src = t.island.val ∧
          e.payload = [(t.island.val : Int), (t.celsius.toNat : Int)])) ∧
  (∀ (s : State) (l : List Temp), (s.readTemps l).coolerThan 100 = true → s.hkp.dutyE = 0 → s.hkp.dutyW = 0 →
    ∃ u, Does (.dutyReturn l) s u ∧ u = { s with isl := (s.readTemps l).isl, hkp := u.hkp, parts := u.parts } ∧
      u.hkp.dutyE = 4 ∧ u.hkp.dutyW = 4) ∧
  (∀ (s : State) (t : Temp), 115 ≤ t.celsius.toNat → s.hkp.pwrok = true → s.dev.hub79 = false →
    ∃ u, Does (.thermalTrip t) s u ∧ (∀ n < 79, (u.island n).pow = .off) ∧ u.hkp.thermTripLow = true ∧ u.per.tripCause ≠ 0 ∧
      u.per.hq = s.per.hq ∧ u.parts = [])

/-- ENTER is refused with STATUS 1 while a partition is in Run, or in Loading with no commit that loads it, and with 2 during a recovery
command or on a fenced device (R379); during a commit it is accepted and waits (R309); an entry to S1
otherwise starts and TRANS sets, and the end of an entry writes RUNG and takes the rack islands out of On. A wake from S1 takes
the racks back to On; EXIT does the same on command, and with a reserved RUNG leaves STATUS 4 and nothing else (R344 to R346,
R358). -/
def Obligations.RungsAreEnteredAndLeft : Prop :=
  (∀ (s : State) (c : Cmd) (t : State) (v : Nat), Writes s c .enter t .pwrCtl v →
    (t.anyPart (fun x => x == .run || (x == .loading && t.rcp.job.isNone)) = true →
      Does (.enter c) s (done ((t.putReg v .pwrCtl).setPwrStatus 1) c)) ∧
    (t.anyPart (fun x => x == .run || (x == .loading && t.rcp.job.isNone)) = false → t.recovering = true ∨ t.dev.fenced = true →
      Does (.enter c) s (done ((t.putReg v .pwrCtl).setPwrStatus 2) c)) ∧
    (t.anyPart (fun x => x == .run) = false → t.recovering = false → t.dev.fenced = false → t.hkp.rung = 0 → t.hkp.trans = false →
      t.rcp.job.isSome = true →
      ∃ u, Does (.enter c) s (done u c) ∧ u.hkp.waitEnter = some (fieldOf v 7 4) ∧ u.hkp.trans = false ∧ u.hkp.pwrStatus = 0 ∧
        u.mem = t.mem ∧ u.isl = t.isl) ∧
    (t.anyPart (fun x => x == .run || x == .loading) = false → t.recovering = false → t.dev.fenced = false → t.hkp.rung = 0 →
      t.hkp.trans = false →
      t.rcp.job = none → t.hkp.armed = [] → fieldOf v 7 4 = 1 →
      ∃ u, Does (.enter c) s (done u c) ∧ u.hkp.trans = true ∧ u.hkp.entering = 1 ∧ u.hkp.pwrStatus = 0 ∧ u.mem = t.mem ∧ u.isl = t.isl)) ∧
  (∀ s : State, s.hkp.trans = true → s.hkp.exiting = none → s.hkp.entering = 1 → s.hkp.wakeHeld = false → s.hkp.armed = [] →
    ∃ t, Does .rungEntryDone s t ∧ t = { s with isl := t.isl, hkp := { s.hkp with rung := 1, trans := false } } ∧
      (∀ n < 48, (s.island n).pow ≠ .off → t.island n = { s.island n with pow := .retention }) ∧
      (∀ n, 48 ≤ n → t.island n = s.island n)) ∧
  (∀ s : State, s.hkp.trans = true → s.hkp.exiting = none → 2 ≤ s.hkp.entering → s.hkp.entering ≤ 4 → s.hkp.wakeHeld = false →
    s.hkp.armed = [] → s.cxl.ports.all (fun e => e.2.drained) = true →
    ∃ t, Does .rungEntryDone s t ∧ t.hkp.rung = s.hkp.entering ∧ t.hkp.trans = false ∧ t.per = s.per ∧
      (∀ n < 75, (t.island n).pow ≠ .on)) ∧
  (∀ (s : State) (ns : Nat), 1000 ≤ ns → s.hkp.pwrok = true → s.hkp.trans = false → s.hkp.rung = 1 → s.hkp.boActive = false →
    ∃ t, Does (.hostWake ns) s t ∧ t.hkp.rung = 0 ∧ t.mem = s.mem ∧
      (∀ n < 48, (s.island n).pow = .retention → (t.island n).pow = .on)) ∧
  (∀ (s : State) (c : Cmd) (t : State) (v : Nat), Writes s c .exit t .pwrCtl v → fieldOf v 7 4 ≤ 4 → t.hkp.trans = false →
    t.hkp.rung = 1 → t.hkp.boActive = false → ∃ u, Does (.exit c) s (done u c) ∧ u.hkp.rung = 0 ∧ u.hkp.pwrStatus = 0 ∧ u.mem = t.mem ∧
      (∀ n < 48, (t.island n).pow = .retention → (u.island n).pow = .on)) ∧
  (∀ (s : State) (c : Cmd) (t : State) (v : Nat), Writes s c .exit t .pwrCtl v → 4 < fieldOf v 7 4 →
    Does (.exit c) s (done (t.setPwrStatus 4) c))

/-- FABRIC_RESET is refused while a partition is in Run or Loading; otherwise every port that is not unused trains again and
the command waits for the end, at which a port that is still training has failed (R377). PARTITION_RESET and RACK_RESET are
refused in a partition in Run or Loading, else they return a rack's slots to their entries and fence its stream, and the command
waits; after the launched self-test a partition whose racks pass is Ready, and the command completes (R378). -/
def Obligations.PartsAreReset : Prop :=
  (∀ (s : State) (c : Cmd) (t : State), Taken s c t → isReset 2 s c.r = true →
    (t.anyPart (fun x => x == .run || x == .loading) = true →
      Does (.fabricReset c) s (t.complete c.q.val c.r.htag stRejected dPartState 0)) ∧
    (t.anyPart (fun x => x == .run || x == .loading) = false →
      ∃ u, Does (.fabricReset c) s u ∧ u.lnk.fabJob = some (c.q.val, c.r.htag) ∧ (u.queue c.q.val).busy = true ∧ u.mem = t.mem ∧
        ∀ n < 9, (u.port n).state = if (t.port n).state = .unused then .unused else .training)) ∧
  (∀ (s : State) (q : Nat) (h : BitVec 16), s.lnk.fabJob = some (q, h) →
    ∃ t, Does .fabricResetDone s t ∧ t.lnk.fabJob = none ∧ t.sent = s.sent ++ [.completion q h stOk 0 0] ∧ (t.queue q).busy = false ∧
      (∀ n < 9, (s.port n).state = .training → (t.port n).state = .failed) ∧ t.mem = s.mem) ∧
  (∀ (s : State) (c : Cmd) (t : State), Taken s c t → isReset 3 s c.r = true →
    (t.part (resetTarget c.r)).state = .run ∨ (t.part (resetTarget c.r)).state = .loading →
    Does (.partitionReset c) s (t.complete c.q.val c.r.htag stRejected dPartState 0)) ∧
  (∀ (s : State) (c : Cmd) (t : State), Taken s c t → isReset 3 s c.r = true →
    (t.part (resetTarget c.r)).state = .faulted ∨ (t.part (resetTarget c.r)).state = .halted ∨
      (t.part (resetTarget c.r)).state = .ready →
    ∃ u, Does (.partitionReset c) s u ∧ (u.part (resetTarget c.r)).resetting = some (c.q.val, c.r.htag) ∧
      (u.part (resetTarget c.r)).state = (t.part (resetTarget c.r)).state ∧ (u.queue c.q.val).busy = true ∧ u.mem = t.mem ∧
      (∀ n ∈ t.racksOf (resetTarget c.r), (u.rack n).stream.state = .fenced ∧
        ∀ i, (u.slot n i).state = if (tget (t.rack n).entries none i).isSome then .wait else .free)) ∧
  (∀ (s : State) (c : Cmd) (t : State), Taken s c t → isReset 4 s c.r = true →
    (∀ p, t.partOf (resetTarget c.r) = some p →
      (t.part p).state ≠ .run ∧ (t.part p).state ≠ .loading ∧ (t.part p).resetting = none) →
    ∃ u, Does (.rackReset c) s u ∧ (u.rack (resetTarget c.r)).resetting = some (c.q.val, c.r.htag) ∧
      (u.rack (resetTarget c.r)).stream.state = .fenced ∧ (u.queue c.q.val).busy = true ∧ u.mem = t.mem ∧
      ∀ i, (u.slot (resetTarget c.r) i).state = if (tget (t.rack (resetTarget c.r)).entries none i).isSome then .wait else .free) ∧
  (∀ (s : State) (c : Cmd) (t : State) (p : Nat), Taken s c t → isReset 4 s c.r = true → t.partOf (resetTarget c.r) = some p →
    (t.part p).state = .run ∨ (t.part p).state = .loading →
    Does (.rackReset c) s (t.complete c.q.val c.r.htag stRejected dPartState 0)) ∧
  (∀ (s : State) (l : List (Rack × BitVec 32)) (p q : Nat) (h : BitVec 16), s.hkp.selfTest = false → p < 8 →
    (s.part p).resetting = some (q, h) → (∀ x < 8, x ≠ p → (s.part x).resetting = none) → (∀ n < 48, (s.rack n).resetting = none) →
    (∀ n ∈ s.racksOf p, n ∈ s.hkp.testing) → (∀ n ∈ s.racksOf p, failedOf l n &&& ~~~(s.rack n).exclude = 0) →
    ∃ t, Does (.selfTestDone l) s t ∧ (t.part p).state = .ready ∧ (t.part p).cause = 0 ∧ (t.part p).resetting = none ∧
      t.sent = s.sent ++ [.completion q h stOk 0 0] ∧ (t.queue q).busy = false ∧ t.mem = s.mem ∧
      ∀ n ∈ s.racksOf p, (t.rack n).failed = failedOf l n)

/-- The end of a start-up's launched self-test writes FAILED of every rack and island 79's copy (R76, R375); DEVICE_READY sets READY
once training has ended, and names the device reset where one came before (R374, R347). A rack that no partition holds goes Off,
and its store is lost with it (R84, R342); everything else that memory holds stays. -/
def Obligations.SelfTestAndReady : Prop :=
  (∀ (s : State) (l : List (Rack × BitVec 32)), s.hkp.selfTest = true → (∀ n < 48, n ∈ s.hkp.testing) →
    (∀ p < 8, (s.part p).resetting = none) → (∀ n < 48, (s.rack n).resetting = none) →
    ∃ t, Does (.selfTestDone l) s t ∧ t.hkp.selfTest = false ∧ t.hkp.testing = [] ∧
      (∀ k, ¬ IdleStore s k → tget t.mem emptyByte k = tget s.mem emptyByte k) ∧
      (∀ n < 48, s.partOf n = none → (t.island n).pow = .off) ∧
      (∀ n < 48, (t.rack n).failed = failedOf l n ∧ tget t.hkp.failedCopy 0 n = failedOf l n)) ∧
  (∀ (s : State) (k : ResetKind), s.hkp.boot = .firmware → s.hkp.selfTest = false → s.hkp.rung = 0 → s.hkp.trans = false →
    s.isOn 77 = true → s.isOn 78 = true → s.hkp.ready = false → s.cxl.ports.any (fun e => e.2.state == 1) = false →
    s.hkp.resetting = some k → s.qrs.evBuf.length < evBufMax →
    ∃ t e, Does .deviceReady s t ∧ t.hkp.ready = true ∧ t.hkp.resetting = none ∧ t.qrs.evBuf = s.qrs.evBuf ++ [e] ∧
      e.src = 0x200 ∧ e.code = .deviceReset ∧ e.payload = [(resetCode k : Int)] ∧
      (∀ k, ¬ IdleStore s k → tget t.mem emptyByte k = tget s.mem emptyByte k)) ∧
  (∀ s : State, s.hkp.boot = .firmware → s.hkp.selfTest = false → s.hkp.rung = 0 → s.hkp.trans = false →
    s.isOn 77 = true → s.hkp.ready = false → s.cxl.ports.any (fun e => e.2.state == 1) = false → s.hkp.resetting = none →
    ∃ t, Does .deviceReady s t ∧
      t = { s with isl := t.isl, racks := t.racks, mem := t.mem, secded := t.secded, signals := t.signals
                   hkp := { s.hkp with ready := true } } ∧
      (∀ k, ¬ IdleStore s k → tget t.mem emptyByte k = tget s.mem emptyByte k) ∧
      (∀ n < 48, s.partOf n = none → (t.island n).pow = .off ∧ (t.rack n).failed = (s.rack n).failed) ∧
      (∀ n, (s.partOf n).isSome = true → t.rack n = s.rack n ∧ t.island n = s.island n) ∧
      (∀ n, 48 ≤ n → t.island n = s.island n))

/-! ## Clocks and ageing -/

/-- Eight good windows in a row make the crystal stable, and a bad one starts the count again; at the hand-over both counts
start from 0, island 78, which passed the starter through, locks at its plan, and a start-up whose firmware runs already is armed (R328). CLKOUT takes a listed source: a setting that cannot pass 250 MHz stands with STATUS 0, one that could
stands with STATUS 1 and holds the output low, and a reserved SRC leaves every field as it was with STATUS 2 (R339). -/
def Obligations.CrystalIsFoundAndClkoutDriven : Prop :=
  (∀ (s : State) (n : Nat), s.hkp.xtalOk = false → 9600 ≤ n → n ≤ 10400 → s.hkp.goodWin < 7 →
    Does (.xtalCheckWindow n) s { s with hkp := { s.hkp with goodWin := s.hkp.goodWin + 1 } }) ∧
  (∀ (s : State) (n : Nat), s.hkp.xtalOk = false → 9600 ≤ n → n ≤ 10400 → s.hkp.goodWin = 7 →
    Does (.xtalCheckWindow n) s { s with hkp := { s.hkp with goodWin := 0, xtalOk := true } }) ∧
  (∀ (s : State) (n : Nat), s.hkp.xtalOk = false → n < 9600 ∨ 10400 < n →
    Does (.xtalCheckWindow n) s { s with hkp := { s.hkp with goodWin := 0 } }) ∧
  (∀ s : State, s.hkp.xtalOk = true → s.hkp.starter = true → s.hkp.timersOn = false → s.dev.hub79 = false → s.hkp.boot = .held →
    (s.island 78).onStarter = false →
    Does .crystalHandover s { s with hkp := { s.hkp with starter := false, timersOn := true, ltime := 0, count := 0 } }) ∧
  (∀ s : State, s.hkp.xtalOk = true → s.hkp.starter = true → s.hkp.timersOn = false → s.dev.hub79 = false → s.hkp.boot = .rom →
    (s.island 78).onStarter = true →
    ∃ t, Does .crystalHandover s t ∧
      t = { s with isl := t.isl, hkp := { s.hkp with starter := false, timersOn := true, ltime := 0, count := 0 } } ∧
      t.island 78 = { s.island 78 with locking := some ((s.island 78).cur, (s.island 78).trim) } ∧
      (∀ n, n ≠ 78 → t.island n = s.island n)) ∧
  (∀ s : State, s.hkp.xtalOk = true → s.hkp.starter = true → s.hkp.timersOn = false → s.dev.hub79 = false → s.hkp.boot = .firmware →
    (s.island 78).onStarter = false →
    ∃ a, Does .crystalHandover s { s with hkp := { s.hkp with
      starter := false, timersOn := true, ltime := 0, count := 0, armed := s.hkp.armed ++ [a] } } ∧ a.action = .startup ∧
      a.islands = List.range 78) ∧
  (∀ (s : State) (c : Cmd) (t : State) (v : Nat), Writes s c .clkout t .hkpClkout v → clkoutSrcOk (fieldOf v 23 16) = true →
    t.clkoutMax (fieldOf v 23 16) ≤ 250 * (fieldOf v 11 0 + 1) →
    ∃ u, Does (.clkoutWrite c) s (done u c) ∧ u = { t with hkp := { t.hkp with clkoutEn := v.testBit 31, clkoutStatus := 0
                                                                               clkoutSrc := u.hkp.clkoutSrc, clkoutDiv := u.hkp.clkoutDiv } } ∧
      u.hkp.clkoutSrc.toNat = fieldOf v 23 16 ∧ u.hkp.clkoutDiv.toNat = fieldOf v 11 0) ∧
  (∀ (s : State) (c : Cmd) (t : State) (v : Nat), Writes s c .clkout t .hkpClkout v → clkoutSrcOk (fieldOf v 23 16) = true →
    250 * (fieldOf v 11 0 + 1) < t.clkoutMax (fieldOf v 23 16) →
    ∃ u, Does (.clkoutWrite c) s (done u c) ∧ u.hkp.clkoutStatus = 1 ∧ u.hkp.clkoutSrc.toNat = fieldOf v 23 16 ∧
      u.clkoutKhz = none ∧ u.mem = t.mem) ∧
  (∀ (s : State) (c : Cmd) (t : State) (v : Nat), Writes s c .clkout t .hkpClkout v → clkoutSrcOk (fieldOf v 23 16) = false →
    Does (.clkoutWrite c) s (done { t with hkp := { t.hkp with clkoutStatus := 2 } } c))

/-- Two bad windows in a row lose the crystal: every running loop of islands 0 to 78 coasts and island 79 takes the starter
(R332). A loop whose reference fails alone coasts and says so (R333). RELOCK is refused while a partition is in Run, else
arms the switch 10,000 counts ahead; at it coasting ends and the crystal is back (R334). -/
def Obligations.LoopsCoastAndRelock : Prop :=
  (∀ (s : State) (a b : Nat), badWindow a = true → badWindow b = true → s.hkp.timersOn = true → s.hkp.xtalOk = true →
    ∃ t, Does (.clkLoss a b) s t ∧ t.hkp.starter = true ∧ t.hkp.clkLoss = true ∧ t.hkp.xtalOk = false ∧
      t.hkp.losses = satAdd s.hkp.losses 1 ∧ t.mem = s.mem ∧ t.island 79 = s.island 79 ∧
      (∀ n < 79, (s.island n).pow ≠ .off → t.island n = { s.island n with coast := true, halved := false, onStarter := false })) ∧
  (∀ (s : State) (n : Island), 48 ≤ n.val → n.val < 79 → s.hkp.clkLoss = false → (s.island n.val).pow ≠ .off →
    (s.island n.val).coast = false → s.isOn 78 = true → s.qrs.evBuf.length < evBufMax →
    ∃ t e, Does (.islCoast n) s t ∧ t.island n.val = { s.island n.val with coast := true, halved := false } ∧
      (∀ j, j ≠ n.val → t.island j = s.island j) ∧ t.qrs.evBuf = s.qrs.evBuf ++ [e] ∧ e.src = n.val ∧ e.code = .islCoast ∧
      t.mem = s.mem) ∧
  (∀ (s : State) (c : Cmd) (t : State) (v : Nat), Writes s c .relock t .hkpClkCtl v →
    (t.running = true → Does (.relock c) s (done (t.setClkStatus 1) c)) ∧
    (t.running = false → t.hkp.xtalOk = true → t.hkp.timersOn = true → t.dev.hub79 = false → ∀ n < 79, (t.island n).coast = true →
      ∃ u a, Does (.relock c) s (done u c) ∧ u.hkp.clkStatus = 0 ∧ u.hkp.armed = t.hkp.armed ++ [a] ∧
        a.target = t.hkp.ltime + 10000 ∧ a.action = .relock ∧ n ∈ a.islands)) ∧
  (∀ (s : State) (a : Armed), s.hkp.armed = [a] → a.action = .relock → s.hkp.waitEnter = none → s.hkp.xtalOk = true →
    ∃ t, Does (.launch []) s t ∧ t.hkp.starter = false ∧ t.hkp.clkLoss = false ∧ t.hkp.armed = [] ∧
      (∀ n < 79, (t.island n).coast = false) ∧ t.mem = s.mem)

/-- A locked loop takes its plan at the switch (R331). The hub's two islands watch each other's heartbeat: a failure of one, or a
heartbeat that is late, fences the device, and one that is not late fails nothing (R261). A good replay clears a bridge's count, and the eighth failed replay of one flit fails the
bridge and fences the device (R10). -/
def Obligations.HubIsWatched : Prop :=
  (∀ (s : State) (n : Island) (f : BitVec 8) (v : BitVec 4), (s.island n.val).locking = some (f, v) → s.hkp.boActive = false →
    (s.island n.val).coast = false →
    Does (.planSwitch n) s (s.setIsland n.val { s.island n.val with locking := none, cur := f, trim := v, onStarter := false })) ∧
  (∀ s : State, s.dev.hub78 = false → s.dev.hub79 = false →
    Does .heartbeat s { s with hkp := { s.hkp with hb78 := some s.hkp.count, hb79 := some s.hkp.count } }) ∧
  (∀ (s : State) (k : HubCause), (k = .heartbeat → s.heartbeatLate false = true) → s.dev.hub78 = false → s.dev.fenced = false →
    ∃ t, Does (.hubFailure false k) s t ∧ t.dev.hub78 = true ∧ t.dev.fenced = true ∧
      (∀ p < 8, (s.part p).state ≠ .empty → (t.snap p).state = 3 ∧ (t.recov p).state = 7)) ∧
  (∀ (s : State) (k : HubCause), (k = .heartbeat → s.heartbeatLate true = true) → s.dev.fenced = false →
    ∃ t, Does (.hubFailure true k) s t ∧ t.dev.hub79 = true ∧ t.dev.fenced = true ∧ t.hkp.timersOn = false ∧ t.hkp.armed = []) ∧
  (∀ (s : State) (is79 : Bool), s.heartbeatLate is79 = false → Does (.hubFailure is79 .heartbeat) s s) ∧
  (∀ (s : State) (b : Fin 3), b.val ∉ s.dev.bridgeFailed →
    Does (.bridgeReplay b true) s { s with dev := { s.dev with bridgeFails := tset s.dev.bridgeFails 0 b.val 0 } }) ∧
  (∀ (s : State) (b : Fin 3), b.val ∉ s.dev.bridgeFailed → tget s.dev.bridgeFails 0 b.val < 7 →
    Does (.bridgeReplay b false) s
      { s with dev := { s.dev with bridgeFails := tset s.dev.bridgeFails 0 b.val (tget s.dev.bridgeFails 0 b.val + 1) } }) ∧
  (∀ (s : State) (b : Fin 3), b.val ∉ s.dev.bridgeFailed → tget s.dev.bridgeFails 0 b.val = 7 →
    ∃ t, Does (.bridgeReplay b false) s t ∧ b.val ∈ t.dev.bridgeFailed ∧ t.dev.fenced = true)

/-- A survey counts the on-hour and changes no island that it does not measure (R361). A DAILY record takes the next sequence
number and starts each island's worst margin again (R367). AGE_APPLY commits the valid proposals, and with no partition in
Run they take effect at once; a discard drops them (R365, R370). -/
def Obligations.AgeingIsMeasured : Prop :=
  (∀ (s : State) (l : List Meas), s.hkp.rung < 2 → s.dev.hub79 = false → (∀ n, (s.island n).pcommitted = false) →
    ∃ t, Does (.survey l) s t ∧ t.per.onHours = satAdd s.per.onHours 1 ∧ t.hkp.surveyHours = s.hkp.surveyHours + 1 ∧
      t.mem = s.mem ∧ t.parts = s.parts ∧ t.racks = s.racks ∧ (∀ n, s.measurable n = false → t.island n = s.island n)) ∧
  (∀ s : State, 24 ≤ s.hkp.surveyHours → s.dev.hub79 = false →
    ∃ t r, Does .daily s t ∧ t = { s with per := t.per, hkp := t.hkp, isl := t.isl } ∧ t.per.ageSeq = s.per.ageSeq + 1 ∧
      tfind t.per.ageLog ((t.per.ageSeq.toNat - 1) % 4096) = some r ∧ r.kind = 1 ∧ r.seq = t.per.ageSeq ∧ r.hours = s.per.onHours ∧
      t.hkp.surveyHours = s.hkp.surveyHours - 24 ∧ (∀ n < 80, (t.island n).worst = 0xFF)) ∧
  (∀ (s : State) (c : Cmd) (t : State) (v : Nat), Writes s c .ageApply t .ageCtl v → c.pok = true → t.running = false →
    t.hkp.clkLoss = false → t.dev.hub79 = false → ∀ n < 79, (t.island n).pvalid = true →
    ∃ u, Does (.ageApply c) s (done u c) ∧ u.hkp.ageStatus = 0 ∧ u.island n = ({ t.island n with pcommitted := true }).switch ∧
      u.per.ageSeq = t.per.ageSeq + 1 ∧ u.mem = t.mem ∧ u.parts = t.parts) ∧
  (∀ (s : State) (c : Cmd) (t : State) (v : Nat), Writes s c .discardProposals t .ageCtl v → ∀ n < 79, (t.island n).pvalid = true →
    ∃ u, Does (.discardProposals c) s (done u c) ∧ u = { t with isl := u.isl, hkp := { t.hkp with ageStatus := 0 } } ∧
      (u.island n).pvalid = false ∧ (u.island n).pcode = 0 ∧ ∀ j < 79, (u.island j).pvalid = false) ∧
  (∀ (s : State) (c : Cmd) (t : State), Taken s c t → c.r.op = opRead → regAt c.r.addr.toNat = some .ageLogData → t.isOn 79 = true →
    Does (.ageLogRead c) s (State.complete { t with hkp := { t.hkp with
      logWord := t.hkp.logWord + 1, logIndex := if t.hkp.logWord = 31 then t.hkp.logIndex + 1 else t.hkp.logIndex } }
      c.q.val c.r.htag stOk 0 (BitVec.ofNat 64 (t.readReg .ageLogData))))

/-! ## Queros -/

/-- Eight lanes that equalise train at x8, else either half that does trains at x4, else the link is down; the device answers
with HELLO, sends its unacknowledged frames again, and makes the host's credits up to the queues' room. A link that is down trains
again, and an attempt that takes up a link which was up counts a retrain (R278, R279, R280, R293). The next frame in sequence is acknowledged, and its whole command record joins its queue against a
credit (R279, R280); an unsound frame asks for a resend and changes nothing else. An acknowledgement frees the frames that it
covers, and a seventeenth request, after sixteen failed resends, starts a retrain (R279). A credit frame adds byte c of its LEN bytes to channel c's credits (R280). -/
def Obligations.QuerosTrainsAndCarriesFrames : Prop :=
  (∀ s : State, s.isOn 75 = true → s.dev.recordDue = false → ∃ t l, Does (.querosTraining 0xFF) s t ∧ t = { s with qrs := t.qrs, sent := s.sent ++ l } ∧
    t.qrs.state = 2 ∧ t.qrs.width = 8 ∧ t.qrs.helloSent = true ∧ .hello 0x3048 3 8 ∈ l ∧
    (s.qrs.frames ≠ [] → .frameResend s.qrs.frames.length ∈ l) ∧ t.qrs.queues = s.qrs.queues ∧ t.qrs.windows = s.qrs.windows ∧
    t.qrs.evBuf = s.qrs.evBuf ∧ (∀ q < 16, 64 - (s.queue q).fifo.length ≤ tget t.qrs.granted 0 q)) ∧
  (∀ (s : State) (x : BitVec 8), s.isOn 75 = true → s.dev.recordDue = false → s.qrs.state = 0 → x ≠ 0xFF → x.toNat % 16 = 0xF ∨ x.toNat / 16 = 0xF →
    ∃ t l, Does (.trainingRetry x) s t ∧ t = { s with qrs := t.qrs, sent := s.sent ++ l } ∧ t.qrs.state = 2 ∧ t.qrs.width = 4 ∧
      t.qrs.helloSent = true ∧ .hello 0x3048 3 4 ∈ l ∧ t.qrs.queues = s.qrs.queues ∧ t.qrs.windows = s.qrs.windows) ∧
  (∀ (s : State) (x : BitVec 8), s.isOn 75 = true → x.toNat % 16 ≠ 0xF → x.toNat / 16 ≠ 0xF →
    Does (.querosTraining x) s { s with qrs := { s.qrs.countRetrain with state := 0, width := 0 } }) ∧
  (∀ (s : State) (b : List Byte), s.qrs.state = 2 → (frameOf b).crcOk = true → (frameOf b).rsvOk = true → (frameOf b).akind = 0 →
    (frameOf b).type = 1 → (frameOf b).first = true → (frameOf b).last = true → (frameOf b).len = 64 → (frameOf b).chan < 16 →
    (frameOf b).fseq = s.qrs.rxNext → (s.queue (frameOf b).chan).fifo.length < 64 →
    ∃ t, Does (.frame b) s t ∧ t = { s with qrs := t.qrs, sent := s.sent ++ [.frameAck 1 (frameOf b).fseq] } ∧
      t.qrs.rxNext = s.qrs.rxNext + 1 ∧
      (t.queue (frameOf b).chan).fifo = (s.queue (frameOf b).chan).fifo ++ [recOf ((frameOf b).payload.take 64)] ∧
      tget t.qrs.granted 0 (frameOf b).chan = tget s.qrs.granted 0 (frameOf b).chan - 1 ∧
      (∀ q, q ≠ (frameOf b).chan → t.queue q = s.queue q) ∧ t.qrs.windows = s.qrs.windows ∧ t.qrs.evBuf = s.qrs.evBuf) ∧
  (∀ (s : State) (b : List Byte), s.linkReady = true → (frameOf b).crcOk = false →
    Does (.frame b) s { s with sent := s.sent ++ [.frameAck 2 (s.qrs.rxNext - 1)] }) ∧
  (∀ (s : State) (b : List Byte), s.qrs.state = 2 → (frameOf b).crcOk = true → (frameOf b).rsvOk = true → (frameOf b).akind = 1 →
    (frameOf b).type = 0 → ∃ t, Does (.frame b) s t ∧ t = { s with qrs := t.qrs } ∧ t.qrs.queues = s.qrs.queues ∧
      (s.qrs.out = [] → t.qrs.frames = s.qrs.frames.filter (fun e => newer e.seq (frameOf b).ack))) ∧
  (∀ (s : State) (b : List Byte), s.qrs.state = 2 → (frameOf b).crcOk = true → (frameOf b).rsvOk = true → (frameOf b).akind = 2 →
    (frameOf b).type = 0 → (s.qrs.acked (frameOf b).ack).fails = 16 →
    ∃ t, Does (.frame b) s t ∧ t.qrs.state = 1 ∧ t.qrs.retrains = satAdd s.qrs.retrains 1 ∧ t.qrs.queues = s.qrs.queues ∧
      t.mem = s.mem) ∧
  (∀ (s : State) (b : List Byte), s.qrs.state = 2 → (frameOf b).crcOk = true → (frameOf b).rsvOk = true → (frameOf b).akind = 0 →
    (frameOf b).type = 2 → (frameOf b).fseq = s.qrs.rxNext → (∀ w < 8, (s.window w).bursts = [] ∧ (s.window w).change = none) →
    ∃ t l, Does (.credit b) s t ∧ t = { s with qrs := t.qrs, sent := s.sent ++ .frameAck 1 (frameOf b).fseq :: l } ∧
      (∀ o ∈ l, ∃ c n, o = .credit c n) ∧
      t.qrs.evtCredits = s.qrs.evtCredits + (((frameOf b).payload.take (frameOf b).len).getD 24 0).toNat ∧
      (∀ w < 8, tget t.qrs.readCredits 0 w = tget s.qrs.readCredits 0 w +
        (((frameOf b).payload.take (frameOf b).len).getD (16 + w) 0).toNat))

/-- REG_READ answers the register, a masked write leaves the written fields, and NOP completes; an address with no register
ends with BAD_ADDR, an island that is not On with BUS_ERROR and its number, a selected reserved bit that is set with BAD_OPCODE, and
a reserved value with no STATUS to take it with BAD_VALUE (R282, R407, R408, R13). -/
def Obligations.RegistersAreReadAndWritten : Prop :=
  (∀ (s : State) (c : Cmd) (t : State) (r : Reg), Reads s c t r → readActs (some r) = false →
    Does (.regRead c) s (t.complete c.q.val c.r.htag stOk 0 (BitVec.ofNat 64 (t.readReg r)))) ∧
  (∀ (s : State) (c : Cmd) (t : State), Taken s c t → c.r.op = opRead → regAt c.r.addr.toNat = none →
    Does (.regRead c) s (t.complete c.q.val c.r.htag stBadAddr 0 0)) ∧
  (∀ (s : State) (c : Cmd) (t : State), Taken s c t → c.r.op = opWrite → regAt c.r.addr.toNat = none →
    Does (.regWrite c) s (t.complete c.q.val c.r.htag stBadAddr 0 0)) ∧
  (∀ (s : State) (c : Cmd) (t : State) (r : Reg), Taken s c t → c.r.op = opRead → regAt c.r.addr.toNat = some r →
    readActs (some r) = false → t.isOn r.island = false →
    Does (.regRead c) s (t.complete c.q.val c.r.htag stBusError (BitVec.ofNat 32 (3 ||| r.island <<< 8)) 0)) ∧
  (∀ (s : State) (c : Cmd) (t : State) (r : Reg), Taken s c t → isWrite .plain s c.r = true → regAt c.r.addr.toNat = some r →
    (t.isOn r.island = false →
      Does (.regWrite c) s (t.complete c.q.val c.r.htag stBusError (BitVec.ofNat 32 (3 ||| r.island <<< 8)) 0)) ∧
    (t.isOn r.island = true → setsReserved r c.r = true → Does (.regWrite c) s (t.complete c.q.val c.r.htag stBadOpcode 0 0))) ∧
  (∀ (s : State) (c : Cmd) (t : State) (r : Reg) (v : Nat), Writes s c .plain t r v → reservedIn r c.r v = some .reject →
    Does (.regWrite c) s (t.complete c.q.val c.r.htag stRejected dBadValue 0)) ∧
  (∀ (s : State) (c : Cmd) (t : State) (r : Reg) (v : Nat), Writes s c .plain t r v → reservedIn r c.r v = none →
    Does (.regWrite c) s (done (t.putReg v r) c)) ∧
  (∀ (s : State) (c : Cmd) (t : State) (v : Nat), Writes s c .plain t .devScratch v →
    Does (.regWrite c) s (done { t with dev := { t.dev with scratch := (t.dev.scratch &&& ~~~c.r.arg1) ||| (c.r.data &&& c.r.arg1) } } c)) ∧
  (∀ (s : State) (c : Cmd) (t : State), Taken s c t → c.r.op = opNop → Does (.nop c) s (done t c))

/-- PEEL_SET opens a window at CUR 0 with its arguments, or ends with WINDOW_INVALID; PEEL_CLOSE closes it; both take effect behind the
bursts already received, and a burst that comes meanwhile runs after them (R286, R289). A write burst of one line stores its data at the window's next bytes, advances CUR and
is acknowledged; a read burst of one line answers those bytes against a read credit; a burst at a closed window is discarded
with WINDOW_CLOSED (R287, R288, R280). -/
def Obligations.WindowsOpenAndBurstsMoveLines : Prop :=
  (∀ (s : State) (c : Cmd) (t : State), Taken s c t → c.r.op = opPeelSet → (s.window (winOf c.r)).bursts = [] →
    (s.window (winOf c.r)).change = none → (s.window (winOf c.r)).later = [] → (windowOf c.r).valid = true →
    ∃ u, Does (.peelSet c) s (done u c) ∧ u = { t with qrs := u.qrs } ∧ u.window (winOf c.r) = windowOf c.r ∧
      (u.window (winOf c.r)).cur = 0 ∧ (u.window (winOf c.r)).isOpen = true ∧
      (∀ w, w ≠ winOf c.r → u.window w = t.window w) ∧ (∀ q, u.queue q = t.queue q)) ∧
  (∀ (s : State) (c : Cmd) (t : State), Taken s c t → c.r.op = opPeelSet → (s.window (winOf c.r)).change = none →
    (windowOf c.r).valid = false → Does (.peelSet c) s (t.complete c.q.val c.r.htag stWindowInvalid 0 0)) ∧
  (∀ (s : State) (c : Cmd) (t : State), Taken s c t → c.r.op = opPeelClose → (s.window (winOf c.r)).bursts = [] →
    (s.window (winOf c.r)).change = none →
    ∃ u, Does (.peelClose c) s (done u c) ∧ u = { t with qrs := u.qrs } ∧
      u.window (winOf c.r) = { t.window (winOf c.r) with isOpen := false } ∧ (∀ w, w ≠ winOf c.r → u.window w = t.window w)) ∧
  (∀ (s : State) (c : Cmd) (t : State), Taken s c t → (s.window (winOf c.r)).bursts ≠ [] → (s.window (winOf c.r)).change = none →
    (c.r.op = opPeelSet → (windowOf c.r).valid = true →
      ∃ u, Does (.peelSet c) s u ∧ u = { t with qrs := u.qrs } ∧
        u.window (winOf c.r) = { t.window (winOf c.r) with change := some (c.q.val, c.r) } ∧
        (∀ w, w ≠ winOf c.r → u.window w = t.window w) ∧ (u.queue c.q.val).busy = true ∧
        ∀ q, q ≠ c.q.val → u.queue q = t.queue q) ∧
    (c.r.op = opPeelClose →
      ∃ u, Does (.peelClose c) s u ∧ u = { t with qrs := u.qrs } ∧
        u.window (winOf c.r) = { t.window (winOf c.r) with change := some (c.q.val, c.r) } ∧
        (∀ w, w ≠ winOf c.r → u.window w = t.window w) ∧ (u.queue c.q.val).busy = true ∧
        ∀ q, q ≠ c.q.val → u.queue q = t.queue q)) ∧
  (∀ (s : State) (c : Cmd), (s.window (winOf c.r)).change.isSome = true →
    (c.r.op = opPeelSet → (s.queue c.q.val).fifo.head? = some c.r → Does (.peelSet c) s s) ∧
    (c.r.op = opPeelSet → (s.queue c.q.val).fifo.head? ≠ some c.r → Does (.peelSet c) s (s.wait c)) ∧
    (c.r.op = opPeelClose → (s.queue c.q.val).fifo.head? = some c.r → Does (.peelClose c) s s) ∧
    (c.r.op = opPeelClose → (s.queue c.q.val).fifo.head? ≠ some c.r → Does (.peelClose c) s (s.wait c))) ∧
  (∀ (s : State) (w : WinNo) (bid : BitVec 16) (d : List Byte), s.qrs.state = 2 → (s.window w.val).change.isSome = true →
    ∃ t, Does (.writeBurst w bid d.length d) s t ∧ t = { s with qrs := t.qrs } ∧
      t.window w.val = { s.window w.val with later := (s.window w.val).later ++ [(bid, d.length, some d)] } ∧
      (∀ v, v ≠ w.val → t.window v = s.window v) ∧ t.qrs.queues = s.qrs.queues) ∧
  (∀ (s : State) (w : WinNo) (bid : BitVec 16) (d : List Byte), s.qrs.state = 2 → (s.window w.val).isOpen = true →
    (s.window w.val).isRead = false → (s.window w.val).mode = 0 → d.length = 64 → (s.window w.val).cur + 64 ≤ (s.window w.val).len →
    (s.window w.val).bursts = [] → (s.window w.val).change = none → (s.window w.val).base + (s.window w.val).cur + 64 ≤ hbmTop →
    s.accessErr (.peel w.val) true ((s.window w.val).base + (s.window w.val).cur) 64 = none →
    ∃ t, Does (.writeBurst w bid 64 d) s t ∧ t = { s with mem := t.mem, hbm := t.hbm, poison := t.poison, qrs := t.qrs, hkp := t.hkp, sent := t.sent } ∧
      (∃ l, t.sent = s.sent ++ .burst w.val bid 64 0 0 0 [] :: l ∧ ∀ o ∈ l, ∃ n, o = .credit (16 + w.val) n) ∧
      (t.window w.val).cur = (s.window w.val).cur + 64 ∧
      (∀ i < 64, t.byteAt ((s.window w.val).base + (s.window w.val).cur + i) = d.getD i 0) ∧
      (∀ a, a < (s.window w.val).base + (s.window w.val).cur ∨ (s.window w.val).base + (s.window w.val).cur + 64 ≤ a →
        t.byteAt a = s.byteAt a)) ∧
  (∀ (s u : State) (w : WinNo) (bid : BitVec 16) (ue : Option Nat), u = s.markUes ue → u.qrs.state = 2 →
    (u.window w.val).isOpen = true → (u.window w.val).isRead = true →
    (u.window w.val).mode = 0 → (u.window w.val).cur + 64 ≤ (u.window w.val).len → (u.window w.val).bursts = [] →
    (u.window w.val).change = none → (u.window w.val).base + (u.window w.val).cur + 64 ≤ hbmTop → 0 < tget u.qrs.readCredits 0 w.val →
    u.accessErr (.peel w.val) false ((u.window w.val).base + (u.window w.val).cur) 64 = none →
    ∃ t, Does (.readBurst w bid 64 ue) s t ∧ t = { u with qrs := t.qrs, sent := t.sent } ∧
      (∃ l, t.sent = u.sent ++ .burst w.val bid 64 0 0 0 (u.bytesAt ((u.window w.val).base + (u.window w.val).cur) 64) :: l ∧
        ∀ o ∈ l, ∃ n, o = .credit (16 + w.val) n) ∧
      (t.window w.val).cur = (u.window w.val).cur + 64 ∧ tget t.qrs.readCredits 0 w.val + 1 = tget u.qrs.readCredits 0 w.val) ∧
  (∀ (s : State) (w : WinNo) (bid : BitVec 16) (d : List Byte), s.qrs.state = 2 → (s.window w.val).isOpen = false → d.length = 64 →
    (s.window w.val).bursts = [] → (s.window w.val).change = none →
    ∃ t l, Does (.writeBurst w bid 64 d) s t ∧ t = { s with qrs := t.qrs, sent := s.sent ++ .burst w.val bid 64 2 0 0 [] :: l } ∧
      (∀ o ∈ l, ∃ n, o = .credit (16 + w.val) n) ∧ t.window w.val = s.window w.val)

/-- FLUSH completes, and then every unstarted command of its queue completes with FLUSHED, in order (R292). The oldest event
leaves against an event credit, and the first record stored after drops is EVT_LOST with their number (R291). -/
def Obligations.QueuesFlushAndEventsLeave : Prop :=
  (∀ (s : State) (c : Cmd) (t : State) (q v : Nat), Writes s c .flush t (.qrsQcfg q) v →
    ∃ u, Does (.flush c) s u ∧ u = { t with qrs := u.qrs, sent := u.sent } ∧ (u.queue q).fifo = [] ∧
      ∃ l, u.sent = t.sent ++ .completion c.q.val c.r.htag stOk 0 0 ::
          ((t.queue q).fifo.map (fun r => .completion q r.htag stFlushed 0 0) ++ l) ∧ ∀ o ∈ l, ∃ n, o = .credit q n) ∧
  (∀ (s : State) (e : Event) (l : List Event), s.qrs.evBuf = e :: l → 0 < s.qrs.evtCredits → s.qrs.state = 2 → s.isOn 78 = true →
    s.qrs.lostPend = 0 → Does .eventSend s
      (State.emit { s with qrs := { s.qrs with evBuf := l, evtCredits := s.qrs.evtCredits - 1 } } (.event e))) ∧
  (∀ (s : State) (e : Event) (l : List Event), s.qrs.evBuf = e :: l → 0 < s.qrs.evtCredits → s.qrs.state = 2 → s.isOn 78 = true →
    0 < s.qrs.lostPend → l.length < 8192 →
    ∃ t x, Does .eventSend s t ∧ t.sent = s.sent ++ [.event e] ∧ t.qrs.evBuf = l ++ [x] ∧ x.src = 0x200 ∧ x.code = .evtLost ∧
      x.payload = [(s.qrs.lostPend : Int)] ∧ t.qrs.lostPend = 0 ∧ t.mem = s.mem)

/-! ## The Crust -/

/-- A record that passes R318's checks, and whose counter is accepted behind them (R319, R321), acts and moves the owner sequence: INSTALL derives
the keys of its queues from the secret that the device KEM key decapsulates from CT, RELEASE
drops owners and keys, a debug record unlocks and FULL debug drops the keys (R317 to R319, R324); a record that fails a check is
REJECTED with that check's code and changes nothing, not even its counter; a stale counter behind good checks ends with REPLAY; and a slot
in the wrong state is REJECTED after the counter. -/
def Obligations.InstallRecordsAct : Prop :=
  (∀ (s : State) (c : Cmd) (t v : State) (b : List Byte), TakesRecord s c t b → c.r.op = opKeyInstall →
    t.installErr (installOf b) false true = none → t.ctrErr c.q.val c.r = none → t.accept c.q.val c.r.ctr c.pok = some v →
    v.slotErr (installOf b) false = none → (installOf b).op = 1 →
    ∃ u, Does (.keyInstall c true true) s (done u c) ∧ u = { v with per := { v.per with oseq := (installOf b).oseq }, cru := u.cru } ∧
      ∀ q < 16, tget u.cru.keys none q = if (installOf b).qmask.testBit q then
        some { k := deriveKey (Config.decaps v.per.kemPriv (installOf b).ct) v.per.serial q, installer := (installOf b).sslot }
        else tget v.cru.keys none q) ∧
  (∀ (s : State) (c : Cmd) (t v : State) (b : List Byte), TakesRecord s c t b → c.r.op = opKeyInstall →
    t.installErr (installOf b) false true = none → t.ctrErr c.q.val c.r = none → t.accept c.q.val c.r.ctr c.pok = some v →
    v.slotErr (installOf b) false = none → (installOf b).op = 4 →
    Does (.keyInstall c true true) s (done { v with
      per := { v.per with owners := [], oseq := (installOf b).oseq }, cru := { v.cru with keys := [] } } c)) ∧
  (∀ (s : State) (c : Cmd) (t : State) (b : List Byte) (sig st : Bool) (e : BitVec 32), TakesRecord s c t b → c.r.op = opKeyInstall →
    t.installErr (installOf b) false sig = some e →
    Does (.keyInstall c sig st) s (t.complete c.q.val c.r.htag stRejected e 0)) ∧
  (∀ (s : State) (c : Cmd) (t : State) (b : List Byte) (st : Bool), TakesRecord s c t b → c.r.op = opKeyInstall →
    t.installErr (installOf b) false true = none → t.ctrErr c.q.val c.r = some stReplay →
    Does (.keyInstall c true st) s
      (State.complete { t with qrs := { t.qrs with replays := satAdd t.qrs.replays 1 } } c.q.val c.r.htag stReplay 0 0)) ∧
  (∀ (s : State) (c : Cmd) (t v : State) (b : List Byte) (st : Bool) (e : BitVec 32), TakesRecord s c t b → c.r.op = opKeyInstall →
    t.installErr (installOf b) false true = none → t.ctrErr c.q.val c.r = none → t.accept c.q.val c.r.ctr c.pok = some v →
    v.slotErr (installOf b) false = some e →
    Does (.keyInstall c true st) s (v.complete c.q.val c.r.htag stRejected e 0)) ∧
  (∀ (s : State) (c : Cmd) (t v : State) (b : List Byte), TakesRecord s c t b → c.r.op = opDebug → c.pok = true →
    t.installErr (installOf b) true true = none → t.ctrErr c.q.val c.r = none → t.accept c.q.val c.r.ctr true = some v →
    v.slotErr (installOf b) true = none → (installOf b).op = 6 →
    Does (.debug c true) s (done { v with
      per := { v.per with oseq := (installOf b).oseq }, cru := { v.cru with debug := max v.cru.debug 1 } } c)) ∧
  (∀ (s : State) (c : Cmd) (t v : State) (b : List Byte), TakesRecord s c t b → c.r.op = opDebug → c.pok = true →
    t.installErr (installOf b) true true = none → t.ctrErr c.q.val c.r = none → t.accept c.q.val c.r.ctr true = some v →
    v.slotErr (installOf b) true = none → (installOf b).op = 7 →
    Does (.debug c true) s (done { v with
      per := { v.per with oseq := (installOf b).oseq }, cru := { v.cru with debug := 2, keys := [] } } c))

/-- ATTEST writes the report or the certificate at ADDR (R323). Reading the first challenge word makes a fresh challenge, for
any value of the free words (R324, entry 13). A mailbox access reads or writes the indexed word and the index advances
(R326). STAGE puts a verified image into the slot that is not running, with STATUS 0, or leaves both and says why; LOCK
raises the floor of versions to the running one (R316). -/
def Obligations.CrustAnswersAndStagesFirmware : Prop :=
  (∀ (s : State) (c : Cmd) (t : State) (sig b : List Byte), Taken s c t → c.r.op = opAttest → c.r.addr.toNat ≠ 0 →
    b = (if c.r.arg0.getLsbD 0 then certBytes t.per else t.report c.r sig) → c.r.addr.toNat + b.length ≤ hbmTop →
    t.accessErr .processor true c.r.addr.toNat b.length = none →
    ∃ u, Does (.attest c sig) s (done u c) ∧
      u = { t with mem := u.mem, hbm := u.hbm, poison := u.poison, qrs := u.qrs, hkp := u.hkp } ∧
      (∀ i < b.length, u.byteAt (c.r.addr.toNat + i) = b.getD i 0) ∧
      (∀ a, a < c.r.addr.toNat ∨ c.r.addr.toNat + b.length ≤ a → u.byteAt a = t.byteAt a)) ∧
  (∀ (s : State) (c : Cmd) (t : State), Reads s c t (.cruChal 0) →
    ∃ (u : State) (x : Word64), Does (.challengeRead c) s (u.complete c.q.val c.r.htag stOk 0 x) ∧
      u = { t with cru := { t.cru with chal := u.cru.chal, chalValid := true }, freeCtr := u.freeCtr } ∧
      x = BitVec.ofNat 64 u.cru.chal.toNat) ∧
  (∀ (s : State) (c : Cmd) (t : State), Reads s c t .cruMboxData →
    Does (.mboxAccess c) s (State.complete { t with cru := { t.cru with mboxIdx := t.cru.mboxIdx + 1 } }
      c.q.val c.r.htag stOk 0 (tget t.cru.mbox 0 t.cru.mboxIdx.toNat))) ∧
  (∀ (s : State) (c : Cmd) (t : State) (v : Nat), Writes s c .mbox t .cruMboxData v →
    ∃ u, Does (.mboxAccess c) s (done u c) ∧ u = { t with cru := { t.cru with mbox := u.cru.mbox, mboxIdx := t.cru.mboxIdx + 1 } } ∧
      tget u.cru.mbox 0 t.cru.mboxIdx.toNat = BitVec.ofNat 64 v ∧
      ∀ i, i ≠ t.cru.mboxIdx.toNat → tget u.cru.mbox 0 i = tget t.cru.mbox 0 i) ∧
  (∀ (s : State) (c : Cmd) (t : State) (v : Nat) (h b : List Byte), Writes s c .stage t .cruFwctl v → c.pok = true →
    (t.putReg v .cruFwctl).read .processor (fieldOf v 47 0) 4096 = (t.putReg v .cruFwctl, .ok h) →
    4096 ≤ bytesField h 8 8 → bytesField h 8 8 ≤ 2 ^ 20 →
    (t.putReg v .cruFwctl).read .processor (fieldOf v 47 0) (bytesField h 8 8) = (t.putReg v .cruFwctl, .ok b) →
    fwHeadOk b = true → imagePkHash b = rootHash →
    t.per.fwMin.toNat ≤ (BitVec.ofNat 32 (bytesField b 18 4)).toNat → t.cru.fwActive = true →
    ∃ u f, Does (.stage c true) s (done u c) ∧ u.per = { t.per with fwSlot0 := some f } ∧ u.cru.fwStatus = 0 ∧
      f.version = BitVec.ofNat 32 (bytesField b 18 4) ∧ f.digest = imageDigest b ∧ f.image = b ∧ u.mem = t.mem ∧ u.cru.fwActive = true) ∧
  (∀ (s : State) (c : Cmd) (t : State) (v : Nat) (h b : List Byte), Writes s c .stage t .cruFwctl v →
    (t.putReg v .cruFwctl).read .processor (fieldOf v 47 0) 4096 = (t.putReg v .cruFwctl, .ok h) →
    4096 ≤ bytesField h 8 8 → bytesField h 8 8 ≤ 2 ^ 20 →
    (t.putReg v .cruFwctl).read .processor (fieldOf v 47 0) (bytesField h 8 8) = (t.putReg v .cruFwctl, .ok b) →
    (∃ u, Does (.stage c false) s (done u c) ∧ u.per = t.per ∧ u.cru.fwStatus = 1 ∧ u.mem = t.mem) ∧
    (fwHeadOk b = false → ∃ u, Does (.stage c true) s (done u c) ∧ u.per = t.per ∧ u.cru.fwStatus = 1 ∧ u.mem = t.mem)) ∧
  (∀ (s : State) (c : Cmd) (t : State) (v : Nat), Writes s c .lock t .cruFwctl v → c.pok = true →
    ∃ u, Does (.lock c) s (done u c) ∧ u.cru.fwStatus = 0 ∧ u.per = { t.per with fwMin := u.per.fwMin } ∧
      u.per.fwMin.toNat = max t.per.fwMin.toNat t.cru.fwVer.toNat ∧ u.mem = t.mem ∧ u.cru.keys = t.cru.keys)

/-! ## Recipes and observation -/

/-- An admitted COMMIT holds its queue and sets PHASE; one of a slice takes its target to Loading, and one of a full image leaves
every partition as it was until its apply phase. One that R303's phase 1 refuses is REJECTED with the code, which REC_FAIL keeps, and
one with a reserved ARG0 ends with BAD_OPCODE (R301 to R303, R307). A digest pass over an image with nothing to refuse goes on to the
apply phase with the digest of the bytes read; an image with something to refuse, or a bus error in the pass, ends the commit with the
check's code, or with IMAGE_UE, and a slice's target has the state it had (R302). -/
def Obligations.CommitsAreChecked : Prop :=
  (∀ (s : State) (c : Cmd) (t : State), Taken s c t → c.r.op = opCommit → commitArgsOk c.r = true → commitSlice c.r = true →
    t.admitErr c.r = none →
    ∃ u j, Does (.commit c) s u ∧ u = { t with rcp := u.rcp, parts := u.parts, qrs := u.qrs, trc := u.trc } ∧ u.rcp.job = some j ∧
      j.q = c.q.val ∧ j.htag = c.r.htag ∧ j.image = c.r.addr.toNat ∧ j.length = c.r.data.toNat ∧ j.slice = true ∧ u.rcp.phase = 2 ∧
      (u.part (commitPart c.r)).state = .loading ∧ (∀ p, p ≠ commitPart c.r → u.part p = t.part p) ∧
      (u.queue c.q.val).busy = true ∧ u.rcp.digest = t.rcp.digest ∧ u.rcp.slices = t.rcp.slices ∧
      (t.trc.enable = false → u.trc = t.trc)) ∧
  (∀ (s : State) (c : Cmd) (t : State), Taken s c t → c.r.op = opCommit → commitArgsOk c.r = true → commitSlice c.r = false →
    t.admitErr c.r = none →
    ∃ u j, Does (.commit c) s u ∧ u = { t with rcp := u.rcp, qrs := u.qrs, trc := u.trc } ∧ u.rcp.job = some j ∧
      j.q = c.q.val ∧ j.htag = c.r.htag ∧ j.image = c.r.addr.toNat ∧ j.length = c.r.data.toNat ∧ j.slice = false ∧ u.rcp.phase = 2 ∧
      (u.queue c.q.val).busy = true ∧ u.rcp.digest = t.rcp.digest ∧ u.rcp.slices = t.rcp.slices ∧
      (t.trc.enable = false → u.trc = t.trc)) ∧
  (∀ (s : State) (c : Cmd) (t : State) (e : Reject), Taken s c t → c.r.op = opCommit → commitArgsOk c.r = true →
    t.admitErr c.r = some e → t.rcp.failValid = false →
    ∃ u : State, Does (.commit c) s (u.complete c.q.val c.r.htag stRejected e.detail 0) ∧ u = { t with rcp := u.rcp } ∧ u.rcp.failValid = true ∧
      u.rcp.failDetail = e.detail ∧ u.rcp.job = t.rcp.job ∧ u.rcp.slices = t.rcp.slices) ∧
  (∀ (s : State) (c : Cmd) (t : State), Taken s c t → c.r.op = opCommit → commitArgsOk c.r = false →
    Does (.commit c) s (t.complete c.q.val c.r.htag stBadOpcode 0 0)) ∧
  (∀ (s u : State) (j : CommitJob) (lay : ImageLay) (sigOk : Bool) (ue : Option Nat) (b : List Byte), s.rcp.job = some j →
    s.rcp.phase = 2 → s.imageRead j ue = (u, some b) → u.imageErr { j with digest := imageDigest b, img := some (imageOf s.lnk.rank.toNat lay b) }
      (imageOf s.lnk.rank.toNat lay b) sigOk = none →
    Does (.digestPass lay sigOk ue) s { u with rcp := { u.rcp with
      job := some { j with digest := imageDigest b, img := some (imageOf s.lnk.rank.toNat lay b) }
      phase := 4, progress := 0 } }) ∧
  (∀ (s u : State) (j : CommitJob) (lay : ImageLay) (sigOk : Bool) (ue : Option Nat) (r : Option (List Byte)) (e : Reject),
    s.rcp.job = some j → s.rcp.phase = 2 → s.imageRead j ue = (u, r) → s.hkp.waitEnter = none → u.hkp.waitEnter = none →
    u.rcp.failValid = false →
    (r = none ∧ e = { code := dImageUe } ∨ ∃ b, r = some b ∧ u.imageErr { j with digest := imageDigest b, img := some (imageOf s.lnk.rank.toNat lay b) }
      (imageOf s.lnk.rank.toNat lay b) sigOk = some e) →
    ∃ t, Does (.digestPass lay sigOk ue) s t ∧ t = { u with rcp := t.rcp, parts := t.parts, qrs := t.qrs, sent := t.sent } ∧
      t.sent = u.sent ++ [.completion j.q j.htag stRejected e.detail 0] ∧ t.rcp.job = none ∧ t.rcp.phase = 0 ∧
      t.rcp.failDetail = e.detail ∧ (t.part j.part.val).state = (if j.slice then j.prev else (u.part j.part.val).state) ∧
      (∀ p, p ≠ j.part.val → t.part p = u.part p) ∧ (t.queue j.q).busy = false ∧ t.rcp.slices = u.rcp.slices)

/-- The apply pass of a slice whose digest matches leaves the target Ready with the slice, its layers' Ledger entries with empty carried
maxima (R137) and those of the layers that it leaves reset (R136), its racks and REC_PDIGEST, never lowers its epoch, keeps every other partition, and completes; that of a full image
leaves each of its partitions Ready and every other Empty, with REC_DIGEST and LOADED (R304, R307). A digest that differs, or a bus
error, ends a slice's commit with IMAGE_CHANGED and the target Empty (R305). The first two hold where no fence word of the commit meets
a port with no route left (12_links_and_ordering.md R241). -/
def Obligations.CommitsAreApplied : Prop :=
  (∀ (s u : State) (j : CommitJob) (i : Image) (r : PartRec) (ue : Option Nat) (b : List Byte), s.rcp.job = some j → j.img = some i →
    s.rcp.phase = 4 → j.slice = true → i.parts = [r] → r.part = j.part → s.imageRead j ue = (u, some b) → imageDigest b = j.digest →
    u.hkp.waitEnter = none → ((u.applied true i).commitDone j i).lnk.lostAt = [] →
    ∃ t, Does (.applyPass ue) s t ∧ t.rcp.job = none ∧ t.rcp.phase = 0 ∧ t.slice j.part.val = some (imageSlice i r) ∧
      (t.part j.part.val).state = .ready ∧ tget t.rcp.pdigest 0 j.part.val = j.digest ∧ t.rcp.digest = u.rcp.digest ∧
      (t.part j.part.val).epoch = (u.part j.part.val).epoch ∧ (∀ p, p ≠ j.part.val → t.part p = u.part p) ∧
      (t.queue j.q).busy = false ∧ .completion j.q j.htag stOk 0 0 ∈ t.sent ∧
      (∀ n < 48, (t.part j.part.val).racks.toNat.testBit n = r.racks.any (fun k => k.val == n)) ∧
      (∀ k e, inLayers r k = true → i.ledger.filter (fun x => x.1 == k) = [(k, e)] →
        t.ledgerEnt k = { e with camaxO := 0, camaxE := 0 }) ∧
      (∀ k, inLayers r k = false → (u.slice j.part.val).all (fun d => !inLayers d.part k) = true → t.ledgerEnt k = u.ledgerEnt k) ∧
      (∀ k, inLayers r k = false → (u.slice j.part.val).any (fun d => inLayers d.part k) = true → t.ledgerEnt k = {})) ∧
  (∀ (s u : State) (j : CommitJob) (i : Image) (ue : Option Nat) (b : List Byte), s.rcp.job = some j → j.img = some i →
    s.rcp.phase = 4 → j.slice = false → s.imageRead j ue = (u, some b) → imageDigest b = j.digest →
    u.hkp.waitEnter = none → ((u.applied false i).commitDone j i).lnk.lostAt = [] →
    ∃ t, Does (.applyPass ue) s t ∧ t.rcp.job = none ∧ t.rcp.phase = 0 ∧ t.rcp.digest = j.digest ∧ t.rcp.loaded = true ∧
      t.rcp.links = i.links ∧ (t.queue j.q).busy = false ∧ .completion j.q j.htag stOk 0 0 ∈ t.sent ∧
      (∀ r ∈ i.parts, (t.part r.part.val).state = .ready) ∧
      (∀ p < 8, (∀ r ∈ i.parts, r.part.val ≠ p) → (t.part p).state = .empty)) ∧
  (∀ (s u : State) (j : CommitJob) (i : Image) (ue : Option Nat) (x : Option (List Byte)), s.rcp.job = some j → j.img = some i →
    s.rcp.phase = 4 → j.slice = true → s.imageRead j ue = (u, x) → x.map imageDigest ≠ some j.digest → u.hkp.waitEnter = none →
    u.rcp.failValid = false →
    ∃ t, Does (.applyPass ue) s t ∧ t.rcp.job = none ∧ t.rcp.phase = 0 ∧ (t.part j.part.val).state = .empty ∧
      t.rcp.failDetail = 0x10 ∧ t.sent = u.sent ++ [.completion j.q j.htag stRejected 0x10 0] ∧
      ∀ p, p ≠ j.part.val → t.part p = u.part p)

/-- RUN takes a Ready partition to Run with its idle streams Active one step behind S0 (where no fence word of it meets a port with no
route left), and a Halted one back with its slots as they stood; a step that may seal by then seals at once (entry 49). HALT holds issue, and once all is quiet the partition is Halted with its slots Held; HALT_FAULT faults it with
cause HOST and raises its epoch; a state that does not permit an operation sets PART_STATE and stays (R308, R89). -/
def Obligations.PartitionsRunAndHalt : Prop :=
  (∀ (s : State) (c : Cmd) (t : State) (p v : Nat) (d : Slice), Writes s c .run t (.recPctl p) v → (t.part p).state = .ready →
    t.slice p = some d → (∀ n ∈ t.racksOf p, (t.rack n).stream.state = .idle) →
    ((t.setPctl p 0).startPart p).lnk.lostAt = [] →
    ∃ u, Does (.run c) s (done u c).trySeals ∧ (u.part p).state = .run ∧ (u.part p).pctlStatus = 0 ∧ (u.part p).lastSeal = d.part.s0 - 1 ∧
      (u.part p).nextOpen = d.part.s0 ∧ (u.part p).epoch = (t.part p).epoch ∧ u.mem = t.mem ∧
      ∀ n ∈ t.racksOf p, (u.rack n).stream.state = .active ∧ (u.rack n).stream.step = d.part.s0 - 1 ∧
        (u.rack n).stream.seed = (t.rack n).stream.seed ∧ (u.rack n).stream.epoch = (t.rack n).stream.epoch) ∧
  (∀ (s : State) (c : Cmd) (t : State) (p v : Nat), Writes s c .run t (.recPctl p) v → (t.part p).state = .halted →
    ∃ u, Does (.run c) s (done u c).trySeals ∧ u = { t with parts := u.parts, racks := u.racks } ∧ (u.part p).state = .run ∧
      ∀ n ∈ t.racksOf p, ∀ i x, (t.slot n i).frozen = some x → u.slot n i = { t.slot n i with frozen := none, state := x }) ∧
  (∀ (s : State) (c : Cmd) (t : State) (p v : Nat), Writes s c .run t (.recPctl p) v → (t.part p).state ≠ .ready →
    (t.part p).state ≠ .halted →
    ∃ u, Does (.run c) s (done u c).trySeals ∧ u = { t with parts := u.parts } ∧ u.part p = { t.part p with pctlStatus := 1 }) ∧
  (∀ (s : State) (c : Cmd) (t : State) (p v : Nat), Writes s c .halt t (.recPctl p) v → (t.part p).state = .run →
    ∃ u, Does (.halt c) s (done u c) ∧ u = { t with parts := u.parts } ∧ u.part p = { t.part p with pctlStatus := 0, halting := true } ∧
      ∀ q, q ≠ p → u.part q = t.part q) ∧
  (∀ (s : State) (p : Part), (s.part p.val).state = .run → (s.part p.val).halting = true →
    (∀ n ∈ s.racksOf p.val, ∀ e ∈ (s.rack n).slots, e.2.quiet = true) →
    ∃ t, Does (.halted p) s t ∧ (t.part p.val).state = .halted ∧ (t.part p.val).halting = false ∧ t.mem = s.mem ∧
      ∀ n ∈ s.racksOf p.val, ∀ i, tfind (s.rack n).slots i ≠ none → (s.slot n i).frozen = none →
        t.slot n i = { s.slot n i with frozen := some (s.slot n i).state, state := .held }) ∧
  (∀ (s : State) (c : Cmd) (t : State) (p v : Nat), Writes s c .haltFault t (.recPctl p) v →
    (t.part p).state = .run ∨ (t.part p).state = .halted ∨ (t.part p).state = .ready → t.fullCommit = false →
    ∃ u, Does (.haltFault c) s (done u c) ∧ (u.part p).state = .faulted ∧ (u.part p).cause = 7 ∧ (u.part p).faultedMark = true ∧
      (u.part p).epoch = (t.part p).epoch + 1 ∧ u.mem = t.mem ∧
      ∀ n ∈ t.racksOf p, (u.island n).stopped = true ∧ (u.rack n).stream.epoch = (t.rack n).stream.epoch + 1) ∧
  (∀ (s : State) (c : Cmd) (t : State) (p v : Nat), Writes s c .haltFault t (.recPctl p) v →
    (t.part p).state = .run ∨ (t.part p).state = .halted ∨ (t.part p).state = .ready → t.fullCommit = true →
    ∃ u, Does (.haltFault c) s (done u c) ∧ (u.part p).state = .faulted ∧ (u.part p).cause = 7 ∧ u.rcp.job = none) ∧
  (∀ (s : State) (c : Cmd) (t : State) (p v : Nat), Writes s c .haltFault t (.recPctl p) v ∨ Writes s c .halt t (.recPctl p) v →
    (t.part p).state = .empty ∨ (t.part p).state = .loading ∨ (t.part p).state = .faulted →
    (Writes s c .haltFault t (.recPctl p) v → Does (.haltFault c) s (done (t.setPctl p 1) c)) ∧
    (Writes s c .halt t (.recPctl p) v → Does (.halt c) s (done (t.setPctl p 1) c)))

/-- A readable copy takes the live counts unless FREEZE holds it; CLEAR zeroes both (R394). Setting ENABLE with a ring that
breaks R395 leaves it clear with STATUS PLACE. The collector writes a rack's oldest trace record at HEAD (R395, R398). -/
def Obligations.RacksAreObserved : Prop :=
  (∀ (s : State) (n : Rack), s.isOn n.val = true → (s.island n.val).stopped = false → (s.rack n.val).obs.freeze = false →
    ∃ t, Does (.readableCopy n) s t ∧ t = { s with racks := t.racks } ∧
      t.rack n.val = { s.rack n.val with obs := { (s.rack n.val).obs with copy := (s.rack n.val).obs.live } } ∧
      ∀ k, k ≠ n.val → t.rack k = s.rack k) ∧
  (∀ (s : State) (c : Cmd) (t : State) (n v : Nat), Writes s c .counterClear t (.obsCtl n) v →
    ∃ u, Does (.counterClear c) s (done u c) ∧ u = { t with racks := u.racks } ∧ (u.rack n).obs.live = [] ∧ (u.rack n).obs.copy = [] ∧
      (u.rack n).obs.ovf = (t.rack n).obs.ovf ∧ ∀ k, k ≠ n → u.rack k = t.rack k) ∧
  (∀ (s : State) (c : Cmd) (t : State) (v : Nat), Writes s c .traceEnable t .obsTrcCtl v → fieldOf v 7 4 ≤ 8 →
    (t.putReg v .obsTrcCtl).tracePlaced = true →
    ∃ u, Does (.traceEnable c) s (done u c) ∧ u = { t with trc := u.trc } ∧ u.trc.enable = v.testBit 0 ∧ u.trc.status = 0 ∧
      u.trc.stop = v.testBit 1) ∧
  (∀ (s : State) (c : Cmd) (t : State) (v : Nat), Writes s c .traceEnable t .obsTrcCtl v → fieldOf v 7 4 ≤ 8 →
    (t.putReg v .obsTrcCtl).tracePlaced = false →
    ∃ u, Does (.traceEnable c) s (done u c) ∧ u = { t with trc := u.trc } ∧ u.trc.enable = false ∧ u.trc.status = 1) ∧
  (∀ (s : State) (n : Rack) (r : TraceRec) (l : List TraceRec), (s.rack n.val).obs.queue = r :: l → s.trc.enable = true →
    s.isOn 78 = true → s.isOn n.val = true → (s.island n.val).stopped = false →
    s.accessErr .processor true (s.trc.base.toNat + 32 * (s.trc.head.toNat % s.trc.slots)) 32 = none →
    s.trc.full = false → s.traceFaulted = false → s.trc.lostRun = 0 → s.trc.size.toNat ≤ 8 → pantryBase ≤ s.trc.base.toNat →
    s.trc.base.toNat + s.trc.ringBytes ≤ pantryBase + 2 * pantrySize →
    ∃ t, Does (.traceWrite n) s t ∧ t = { s with racks := t.racks, trc := t.trc, mem := t.mem, secded := t.secded } ∧ (t.rack n.val).obs.queue = l ∧
      t.trc.head.toNat = (s.trc.head.toNat % s.trc.slots + 1) % s.trc.slots ∧
      (∀ i < 32, t.byteAt (s.trc.base.toNat + 32 * (s.trc.head.toNat % s.trc.slots) + i) = (traceBytes r).getD i 0) ∧
      ∀ a, a < s.trc.base.toNat + 32 * (s.trc.head.toNat % s.trc.slots) ∨
        s.trc.base.toNat + 32 * (s.trc.head.toNat % s.trc.slots) + 32 ≤ a → t.byteAt a = s.byteAt a)

/-! ## Tasks -/

/-- A step that may open does so in every rack of its partition at once: STEP and OSTEP, the boundary copy, the partition's open step
(R161, R119, R126), and no other partition or rack changes; step 0xFFFFFFFF never opens and raises STEP_LIMIT once (R160). A step that
may not open yet changes nothing. -/
def Obligations.StepsOpenInOrder : Prop :=
  (∀ (s : State) (p : Part), s.mayOpen p.val = true → (s.part p.val).nextOpen ≠ 0xFFFFFFFF →
    ∃ t, Does (.stepOpen p) s t ∧ t = { s with parts := t.parts, racks := t.racks, gov := t.gov } ∧
      (t.part p.val).openReg = (s.part p.val).nextOpen ∧ (t.part p.val).nextOpen = (s.part p.val).nextOpen + 1 ∧
      (t.part p.val).everOpen = true ∧ (t.part p.val).lastSeal = (s.part p.val).lastSeal ∧
      (∀ q, q ≠ p.val → t.part q = s.part q) ∧ (∀ n, n ∉ s.racksOf p.val → t.rack n = s.rack n) ∧ t.gov.ledger = s.gov.ledger ∧
      ∀ n ∈ s.racksOf p.val, (t.rack n).stream.step = (s.part p.val).nextOpen ∧ (t.rack n).stream.ostep = (s.part p.val).lastSeal + 1 ∧
        (t.rack n).stream.bounds = (s.rack n).stream.bounds ++ [(s.rack n).boundary (s.part p.val).nextOpen] ∧
        (t.rack n).slots = (s.rack n).slots ∧ (t.rack n).halves = (s.rack n).halves) ∧
  (∀ (s : State) (p : Part), s.mayOpen p.val = true → (s.part p.val).nextOpen = 0xFFFFFFFF → (s.part p.val).stepLimit = false →
    s.isOn 78 = true → s.qrs.evBuf.length < evBufMax →
    ∃ t e, Does (.stepOpen p) s t ∧ t = { s with parts := t.parts, hkp := t.hkp, qrs := t.qrs } ∧
      t.part p.val = { s.part p.val with stepLimit := true } ∧ t.qrs.evBuf = s.qrs.evBuf ++ [e] ∧ e.src = 0x100 + p.val ∧
      e.code = .stepLimit ∧ e.payload = [(p.val : Int)]) ∧
  (∀ (s : State) (p : Part), s.mayOpen p.val = true → (s.part p.val).nextOpen = 0xFFFFFFFF → (s.part p.val).stepLimit = true →
    Does (.stepOpen p) s s) ∧
  (∀ (s : State) (p : Part), s.mayOpen p.val = false → Does (.stepOpen p) s s)

/-- A fetch takes the 128 bytes at the slot's address as its newer descriptor, with STEP = TSTEP + SREL (R114, R116), or faults the task
with R117's code where it is invalid, and with BUS_ERROR where a word of it reads uncorrectable (R124). LOOP jumps while its count lasts
and counts TSTEP on with STEPINC; END frees the slot once no older descriptor is left (R114); a SYNC whose wait is met and whose task has
no older descriptor issues without a place in the issue order (R118). Each of the first three rows ends with the seals that it
made possible. -/
def Obligations.DescriptorsAreFetched : Prop :=
  (∀ (s : State) (n : Rack) (i : SlotNo) (p : Nat) (b : List Byte), s.active n.val = some p → (s.slot n.val i.val).fetches = true →
    inStore n.val (s.slot n.val i.val).next = true → s.read (.rack n.val) (s.slot n.val i.val).next 128 = (s, .ok b) →
    s.descErr n.val p (descOf (s.slot n.val i.val).next (s.slot n.val i.val).tstep b) = none →
    ∃ t d, Does (.descriptorFetch n i none) s (State.trySeals t) ∧ t = { s with racks := t.racks } ∧ (∀ k, k ≠ n.val → t.rack k = s.rack k) ∧
      (t.slot n.val i.val).newer = some { desc := d } ∧ d = descOf (s.slot n.val i.val).next (s.slot n.val i.val).tstep b ∧
      d.step = (s.slot n.val i.val).tstep + BitVec.ofNat 32 d.srel ∧ (t.slot n.val i.val).state = .wait ∧
      (t.slot n.val i.val).next = (s.slot n.val i.val).next + 128 ∧ (t.slot n.val i.val).older = (s.slot n.val i.val).older ∧
      (t.slot n.val i.val).tstep = (s.slot n.val i.val).tstep ∧
      (t.slot n.val i.val).bounds = ((s.slot n.val i.val).noteBound d).bounds ∧ ∀ j, j ≠ i.val → t.slot n.val j = s.slot n.val j) ∧
  (∀ (s : State) (n : Rack) (i : SlotNo) (p f : Nat) (b : List Byte), s.active n.val = some p → (s.slot n.val i.val).fetches = true →
    inStore n.val (s.slot n.val i.val).next = true → s.read (.rack n.val) (s.slot n.val i.val).next 128 = (s, .ok b) →
    s.descErr n.val p (descOf (s.slot n.val i.val).next (s.slot n.val i.val).tstep b) = some f →
    ∃ t, Does (.descriptorFetch n i none) s (State.trySeals t) ∧ t = { s with racks := t.racks, hkp := t.hkp, qrs := t.qrs } ∧
      (t.slot n.val i.val).state = .faulted ∧ (t.slot n.val i.val).faultCode = f ∧ (t.slot n.val i.val).newer = none ∧
      (t.slot n.val i.val).next = (s.slot n.val i.val).next ∧ (t.slot n.val i.val).older = (s.slot n.val i.val).older ∧
      (t.rack n.val).taskFault.valid = true ∧ ∀ j, j ≠ i.val → (t.slot n.val j).older = (s.slot n.val j).older ∧
        (t.slot n.val j).newer.map (fun o => o.desc) = (s.slot n.val j).newer.map (fun o => o.desc)) ∧
  (∀ (s : State) (n : Rack) (i : SlotNo) (p a : Nat), s.active n.val = some p → (s.slot n.val i.val).fetches = true →
    inStore n.val (s.slot n.val i.val).next = true →
    ∃ t, Does (.descriptorFetch n i (some a)) s (State.trySeals t) ∧ (t.slot n.val i.val).state = .faulted ∧ (t.slot n.val i.val).faultCode = 4 ∧
      (t.slot n.val i.val).newer = none ∧ t.mem = s.mem ∧ t.parts = s.parts) ∧
  (∀ (s : State) (n : Rack) (i : SlotNo) (p : Nat), s.active n.val = some p → (s.slot n.val i.val).fetches = true →
    inStore n.val (s.slot n.val i.val).next = false →
    ∃ t, Does (.descriptorFetch n i none) s (State.trySeals t) ∧ t = { s with racks := t.racks, hkp := t.hkp, qrs := t.qrs } ∧
      (t.slot n.val i.val).state = .faulted ∧ (t.slot n.val i.val).faultCode = 6 ∧ (t.slot n.val i.val).newer = none) ∧
  (∀ (s : State) (n : Rack) (i : SlotNo) (p : Nat) (o : Op), s.active n.val = some p → (s.slot n.val i.val).newer = some o →
    o.desc.kind = 4 →
    ∃ t jump, Does (.loop n i) s (State.trySeals t) ∧ t = { s with racks := t.racks } ∧ (t.slot n.val i.val).newer = none ∧
      (jump = true ↔ o.desc.count = 0 ∨ (if (s.slot n.val i.val).acts.getD o.desc.lid false then
        0 < (s.slot n.val i.val).ctrs.getD o.desc.lid 0 else 1 < o.desc.count)) ∧
      (t.slot n.val i.val).next = (if jump then o.desc.target else (s.slot n.val i.val).next) ∧
      (t.slot n.val i.val).older = (s.slot n.val i.val).older ∧ (t.slot n.val i.val).tstep =
        (if jump && o.desc.stepInc then (s.slot n.val i.val).tstep + 1 else (s.slot n.val i.val).tstep) ∧
      ∀ j, j ≠ i.val → t.slot n.val j = s.slot n.val j) ∧
  (∀ (s : State) (n : Rack) (i : SlotNo) (p : Nat) (o : Op), s.active n.val = some p → (s.slot n.val i.val).newer = some o →
    o.desc.kind = 5 → (s.slot n.val i.val).older = none → (s.slot n.val i.val).state ≠ .faulted →
    ∃ t, Does (.endDesc n i) s (State.trySeals t) ∧ t = { s with racks := t.racks } ∧ (t.slot n.val i.val).state = .free ∧
      (t.slot n.val i.val).newer = none ∧ (t.slot n.val i.val).bounds = (s.slot n.val i.val).bounds ∧
      ∀ j, j ≠ i.val → t.slot n.val j = s.slot n.val j) ∧
  (∀ (s : State) (n : Rack) (i : SlotNo) (p : Nat) (o q : Op), s.active n.val = some p → (s.slot n.val i.val).newer = some o →
    o.desc.kind = 5 → (s.slot n.val i.val).older = some q →
    ∃ t, Does (.endDesc n i) s (State.trySeals t) ∧ t = { s with racks := t.racks } ∧
      t.slot n.val i.val = { s.slot n.val i.val with newer := none, ended := true } ∧ ∀ j, j ≠ i.val → t.slot n.val j = s.slot n.val j) ∧
  (∀ (s : State) (n : Rack) (i : SlotNo) (p : Nat) (o : Op), s.active n.val = some p → (s.slot n.val i.val).newer = some o →
    o.desc.kind = 3 → (s.part p).halting = false → s.stepIsOpen p o.desc.step = true → s.descWait o.desc = true →
    (s.slot n.val i.val).older = none →
    ∃ t u, Does (.syncIssue n i) s t ∧ t = { s with racks := t.racks } ∧ (t.slot n.val i.val).older = some u ∧ u.desc = o.desc ∧
      u.stage = .drained ∧ (t.slot n.val i.val).newer = none ∧ (t.slot n.val i.val).state = .run ∧
      (t.rack n.val).order = (s.rack n.val).order ∧ ∀ j, j ≠ i.val → t.slot n.val j = s.slot n.val j) ∧
  (∀ (s : State) (n : Rack) (i : SlotNo) (p : Nat) (o : Op), s.active n.val = some p → (s.slot n.val i.val).newer = some o →
    o.desc.kind = 3 → s.descWait o.desc = false ∨ (s.slot n.val i.val).older ≠ none ∨ s.stepIsOpen p o.desc.step = false →
    Does (.syncIssue n i) s s)

/-- An operation whose words latch clean enters its feeder, a TILE with the words of its step's parity (R105, R96); an entry that reads
uncorrectable faults it with BUS_ERROR and LEDGER_UE, and words that form no pair with FORMAT_INVALID (R138, R52). The last of its fills
ends its feeding, and a VEC, or a TILE for which a drain half is free, is Ready then (R97); a fused kernel that is issued feeds its internal operations so (R131), and a
seventeenth fill waits (R94); an uncorrectable word of a source faults it. A
cycle without a hold picks the only candidate, and of two the one of the lower effective class (R122); a held cycle picks none. Each
complete AGE_LIMIT in Ready ages an operation by one. -/
def Obligations.OperationsAreFedAndPicked : Prop :=
  (∀ (s r u : State) (n : Rack) (i : SlotNo) (p : Nat) (o q : Op), s.active n.val = some p → (s.slot n.val i.val).newer = some o →
    o.desc.kind < 3 → s.mayLatch n.val p o = true → s.latchAll n.val p o = (r, .ok q) → formatErr q = false →
    r.feedCheck n.val p i.val ((s.rack n.val).sizeOp q) = (u, none) → opFills ((s.rack n.val).sizeOp q) ≠ [] →
    ∃ t x, Does (.latch n i none) s t ∧ t = { u with racks := t.racks } ∧ (t.slot n.val i.val).newer = some x ∧
      x = { (s.rack n.val).sizeOp q with fills := opFills ((s.rack n.val).sizeOp q), feed := (s.rack n.val).feeds } ∧
      (t.slot n.val i.val).state = .feed ∧
      (o.desc.kind = 0 → x.desc = o.desc ∧ x.stage = .latched ∧
        x.cwA = entryCw (s.ledgerEnt (8 * o.desc.aL + o.desc.aR)) o.desc.step ∧
        x.cwB = entryCw (s.ledgerEnt (8 * o.desc.bL + o.desc.bR)) o.desc.step)) ∧
  (∀ (s : State) (n : Rack) (i : SlotNo) (p : Nat) (o q : Op), s.active n.val = some p → (s.slot n.val i.val).newer = some o →
    o.desc.kind < 3 → s.mayLatch n.val p o = true → s.latchAll n.val p o = (s, .ok q) → formatErr q = true →
    ∃ t, Does (.latch n i none) s t ∧ t = { s with racks := t.racks, hkp := t.hkp, qrs := t.qrs } ∧
      (t.slot n.val i.val).state = .faulted ∧ (t.slot n.val i.val).faultCode = 1 ∧ (t.slot n.val i.val).newer = none ∧
      (t.slot n.val i.val).faultOp = some { q with stage := .latched }) ∧
  (∀ (s : State) (n : Rack) (i : SlotNo) (p : Nat) (o : Op), s.active n.val = some p → (s.slot n.val i.val).newer = some o →
    o.desc.kind = 0 → s.mayLatch n.val p o = true →
    ∃ t, Does (.latch n i (some (8 * o.desc.aL + o.desc.aR))) s t ∧ (t.slot n.val i.val).state = .faulted ∧
      (t.slot n.val i.val).faultCode = 4 ∧ 8 * o.desc.aL + o.desc.aR ∈ t.gov.errs ∧ t.gov.ledger = s.gov.ledger ∧ t.mem = s.mem) ∧
  (∀ (s r : State) (n : Rack) (i : SlotNo) (p : Nat) (o : Op) (b : Nat × Nat × Nat), s.working n.val = some p →
    (s.slot n.val i.val).filling .a = some (o, false) → o.fills = [.a] → (s.rack n.val).fillsBefore o .a < 16 →
    s.runFill n.val p o (feedSide o .a) (opConv o .a) = (r, .ok b) → (r.slot n.val i.val).state = .feed →
    ∃ t u, Does (.fillDone n i .a none) s t ∧ t = { r with racks := t.racks } ∧ (t.slot n.val i.val).newer = some u ∧
      u.desc = o.desc ∧ u.fills = [] ∧
      (o.desc.kind = 1 ∨ (o.desc.kind = 0 ∧ o.desc.acc = 0 ∧ (r.rack n.val).halfFree o = true) →
        u.stage = .ready ∧ (t.slot n.val i.val).state = .ready)) ∧
  (∀ (s r : State) (n : Rack) (i : SlotNo) (p : Nat) (o : Op) (b : Nat × Nat × Nat), s.working n.val = some p →
    (s.slot n.val i.val).filling .b = some (o, true) → (s.rack n.val).fillsBefore o .b < 16 →
    s.runFill n.val p o (feedSide o .b) (opConv o .b) = (r, .ok b) →
    ∃ t u, Does (.fillDone n i .b none) s t ∧ t = { r with racks := t.racks } ∧ (t.slot n.val i.val).older = some u ∧
      u.desc = o.desc ∧ u.fills = o.fills.erase .b ∧ (t.slot n.val i.val).newer.map (fun x => x.desc) =
        (r.slot n.val i.val).newer.map (fun x => x.desc)) ∧
  (∀ (s r : State) (n : Rack) (i : SlotNo) (p : Nat) (o : Op) (v : List (BitVec 64)), s.working n.val = some p →
    (s.slot n.val i.val).filling .init = some (o, false) → o.fills = [.init] → o.hasHalf = true ∨ (s.rack n.val).halfFree o = true →
    s.runInit n.val p o (opInit o).1 (opInit o).2 = (r, .ok v) →
    ∃ t u, Does (.fillDone n i .init none) s t ∧ t = { r with racks := t.racks } ∧ (t.slot n.val i.val).newer = some u ∧
      u.desc = o.desc ∧ u.fills = [] ∧ u.inits = v) ∧
  (∀ (s : State) (n : Rack) (i : SlotNo) (p : Nat) (o : Op) (k : FillKind), s.working n.val = some p →
    (s.slot n.val i.val).filling k = some (o, false) → k ≠ .init → 16 ≤ (s.rack n.val).fillsBefore o k →
    Does (.fillDone n i k none) s s) ∧
  (∀ (s : State) (n : Rack) (i : SlotNo) (p : Nat) (o : Op) (k : FillKind) (older : Bool) (a : Nat), s.working n.val = some p →
    (s.slot n.val i.val).filling k = some (o, older) → k = .init ∨ (s.rack n.val).fillsBefore o k < 16 →
    ∃ t, Does (.fillDone n i k (some a)) s t ∧ (t.slot n.val i.val).state = .faulted ∧ (t.slot n.val i.val).faultCode = 4 ∧
      (t.slot n.val i.val).newer = none ∧ (t.slot n.val i.val).faultOp = some o ∧ t.mem = s.mem) ∧
  (∀ (s : State) (n : Rack) (p j : Nat) (o : Op), s.active n.val = some p →
    s.holdCode n.val p ((s.rack n.val).cycle + 1) = 0 → (s.rack n.val).obs.enable = false → (s.rack n.val).obs.queue.length < 8 →
    (s.rack n.val).readyOps = [(j, o)] → (s.rack n.val).gangReady o = true → (s.rack n.val).fits o = true →
    ∃ t, Does (.pick n) s t ∧ t = { s with racks := t.racks } ∧ (∀ k, k ≠ n.val → t.rack k = s.rack k) ∧
      (t.rack n.val).cycle = (s.rack n.val).cycle + 1 ∧
      ((s.slot n.val j).older = none → (t.slot n.val j).newer = some { o with stage := .primed, starved := 0 } ∧
        (t.slot n.val j).state = .primed) ∧
      ((s.slot n.val j).older ≠ none → (t.slot n.val j).older = some { o with stage := .primed, starved := 0 })) ∧
  (∀ (s : State) (n : Rack) (p j k : Nat) (o q : Op), s.active n.val = some p →
    s.holdCode n.val p ((s.rack n.val).cycle + 1) = 0 → (s.rack n.val).obs.enable = false → (s.rack n.val).obs.queue.length < 8 →
    (s.rack n.val).readyOps = [(j, o), (k, q)] ∨ (s.rack n.val).readyOps = [(k, q), (j, o)] →
    (s.rack n.val).gangReady o = true → (s.rack n.val).fits o = true → (s.rack n.val).gangReady q = true →
    (s.rack n.val).fits q = true → RackSt.effClass { s.rack n.val with cycle := (s.rack n.val).cycle + 1 } o <
      RackSt.effClass { s.rack n.val with cycle := (s.rack n.val).cycle + 1 } q → (s.slot n.val j).older = none →
    ∃ t, Does (.pick n) s t ∧ (t.slot n.val j).newer = some { o with stage := .primed, starved := 0 }) ∧
  (∀ (s : State) (n : Rack) (p c : Nat), s.active n.val = some p → s.holdCode n.val p ((s.rack n.val).cycle + 1) = c → c ≠ 0 →
    ∃ t, Does (.pick n) s t ∧ t = { s with racks := t.racks } ∧ (t.rack n.val).slots = (s.rack n.val).slots ∧
      (t.rack n.val).heldNow = c) ∧
  (∀ (s : State) (n : Rack) (i : SlotNo) (p : Nat) (o : Op), s.active n.val = some p → (s.slot n.val i.val).competing = some o →
    o.desc.proof = false → (s.rack n.val).ageLimit ≠ 0 →
    (o.aged + 1) * (s.rack n.val).ageLimit.toNat ≤ (s.rack n.val).cycle - o.readyAt →
    ∃ t, Does (.classAgeing n i) s t ∧ t = { s with racks := t.racks } ∧
      t.slot n.val i.val = (s.slot n.val i.val).putCompeting { o with aged := o.aged + 1 } (s.slot n.val i.val).state ∧
      ∀ j, j ≠ i.val → t.slot n.val j = s.slot n.val j)

/-- A primed operation issues in its stream's order, an internal one of a fused kernel in the place of its kernel and a proof task with
none; a held cycle issues none (R97, R122, R131). Its last broadcast frees its gang (R98), its results stand, the Whisk drains it, and it
completes once every write is accepted and every operation that issued before has completed; only then does its signal leave (R118, R120,
R130), and a write's error or a poisoned operand faults it in place of that (R124). A poisoned operation writes nothing (R100). -/
def Obligations.OperationsIssueAndComplete : Prop :=
  (∀ (s : State) (n : Rack) (i : SlotNo) (p : Nat) (o : Op), s.active n.val = some p → (s.slot n.val i.val).primedOp = some o →
    s.holdCode n.val p (s.rack n.val).cycle = 0 → o.unordered = false →
    ∃ t u, Does (.issue n i) s t ∧ t = { s with racks := t.racks, parts := t.parts } ∧ (t.slot n.val i.val).older = some u ∧
      u.desc = o.desc ∧ u.stage = (if o.desc.kind = 1 then .result else .issued) ∧ u.order = (s.rack n.val).order ∧
      (t.slot n.val i.val).newer = none ∧ (t.slot n.val i.val).state = .run ∧ (t.rack n.val).order = (s.rack n.val).order + 1 ∧
      (t.rack n.val).stream.issue = (s.rack n.val).stream.issue + 1 ∧ ∀ j, j ≠ i.val → t.slot n.val j = s.slot n.val j) ∧
  (∀ (s : State) (n : Rack) (i : SlotNo) (p : Nat) (o : Op), s.active n.val = some p → (s.slot n.val i.val).primedOp = some o →
    s.holdCode n.val p (s.rack n.val).cycle = 0 → o.unordered = true →
    ∃ t u, Does (.issue n i) s t ∧ t = { s with racks := t.racks } ∧ (t.slot n.val i.val).older = some u ∧ u.desc = o.desc ∧
      (o.inGang = true → u.order = o.order ∧ (t.slot n.val i.val).newer = (s.slot n.val i.val).newer) ∧
      (t.rack n.val).order = (s.rack n.val).order ∧ (t.rack n.val).stream.issue = (s.rack n.val).stream.issue) ∧
  (∀ (s : State) (n : Rack) (i : SlotNo) (p : Nat), s.active n.val = some p → s.holdCode n.val p (s.rack n.val).cycle ≠ 0 →
    Does (.issue n i) s s) ∧
  (∀ (s : State) (n : Rack) (i : SlotNo) (p : Nat) (o : Op), s.working n.val = some p → (s.slot n.val i.val).older = some o →
    o.stage = .issued →
    ∃ t, Does (.demandRelease n i) s t ∧ t = { s with racks := t.racks } ∧
      t.slot n.val i.val = { s.slot n.val i.val with older := some { o with stage := .released } } ∧
      ∀ j, j ≠ i.val → t.slot n.val j = s.slot n.val j) ∧
  (∀ (s r : State) (n : Rack) (i : SlotNo) (p : Nat) (o : Op) (v : List (BitVec 64)), s.working n.val = some p →
    (s.slot n.val i.val).older = some o → o.stage = .released → o.desc.proof = false → s.tileValues n.val p o = (r, .ok v) →
    ∃ t, Does (.resultReady n i none) s t ∧ t = { r with racks := t.racks } ∧ (t.slot n.val i.val).older =
      some { o with results := v, poisoned := false, writeErr := 0
                    stage := if o.desc.isFinal || o.fused.isSome then .result else .drained }) ∧
  (∀ (s r : State) (n : Rack) (i : SlotNo) (p : Nat) (o : Op) (e : BusErr), s.working n.val = some p →
    (s.slot n.val i.val).older = some o → o.stage = .released → o.desc.proof = false → s.tileValues n.val p o = (r, .error e) →
    e.code ≠ 0 →
    ∃ t, Does (.resultReady n i none) s t ∧ t = { r with racks := t.racks } ∧ (t.slot n.val i.val).older =
      some { o with results := [], poisoned := true, writeErr := e.code
                    stage := if o.desc.isFinal || o.fused.isSome then .result else .drained }) ∧
  (∀ (s : State) (n : Rack) (i : SlotNo) (p a : Nat) (o : Op), s.working n.val = some p →
    (s.slot n.val i.val).older = some o → o.stage = .released → o.desc.proof = false →
    ∃ t, Does (.resultReady n i (some a)) s t ∧ (t.slot n.val i.val).older =
      some { o with results := [], poisoned := true, writeErr := eUE
                    stage := if o.desc.isFinal || o.fused.isSome then .result else .drained }) ∧
  (∀ (s : State) (n : Rack) (i : SlotNo) (p : Nat) (o : Op), s.working n.val = some p → (s.slot n.val i.val).older = some o →
    o.stage = .released → o.fused = none → o.desc.proof = true →
    ∃ t, Does (.resultReady n i none) s t ∧ t = { s with racks := t.racks } ∧
      (t.slot n.val i.val).older = some { o with stage := .result }) ∧
  (∀ (s a b r : State) (n : Rack) (i : SlotNo) (p : Nat) (o : Op) (l : List (OutSide × Prog)) (v : List (BitVec 64)) (q : List Nat),
    s.working n.val = some p → (s.slot n.val i.val).older = some o → o.stage = .result → (s.rack n.val).whiskTurn o = true →
    o.poisoned = false → o.fused = none → o.desc.proof = false →
    s.outProgs n.val p o o.desc.m (opRow o) (opOuts o) = (a, .ok l) → l.any (s.outHeld n.val i.val p o) = false →
    a.runWhisk n.val p o = (b, .ok v) →
    b.writeSampled n.val p i.val o o.desc.m (opRow o) (v.map (fun x => (if opWide o then fp64 else fp32).decode x.toNat)) l = (r, .ok q) →
    ∃ t, Does (.whiskPass n i) s t ∧ t = { r with racks := t.racks } ∧
      (t.slot n.val i.val).older = some { o with stage := .drained, results := [], reqs := q }) ∧
  (∀ (s a b r u : State) (n : Rack) (i : SlotNo) (p : Nat) (o : Op) (f g : Fused) (l : List (PassShape × List (OutSide × Prog)))
    (read : List (List (List Nat))) (v : List (List Sys2Proof.Machine.Num)) (q : List Nat), s.working n.val = some p →
    (s.slot n.val i.val).older = some o → o.stage = .result →
    (s.rack n.val).whiskTurn o = true → o.poisoned = false → o.fused = some f → o.desc.proof = false →
    s.passProgs n.val p o (f.shapes o) = (a, .ok l) → l.any (fun x => x.2.any (s.outHeld n.val i.val p o)) = false →
    a.fusedReads n.val p o f (f.reads o.desc.m) = (b, .ok read) → b.passValues n.val o f read = (r, g, v) →
    r.passWrites n.val p i.val o (List.zip l v) = (u, .ok q) →
    ∃ t x, Does (.whiskPass n i) s t ∧ t = { u with racks := t.racks } ∧ (t.slot n.val i.val).older = some x ∧ x.desc = o.desc ∧
      x.reqs = o.reqs ++ q ∧ (g.more o.desc.m = false → x.stage = .drained ∧ x.fused = some g) ∧
      ((o.nextRound g (s.rack n.val).feeds q).fills ≠ [] → x = o.nextRound g (s.rack n.val).feeds q)) ∧
  (∀ (s a : State) (n : Rack) (i : SlotNo) (p : Nat) (o : Op) (f : Fused) (l : List (PassShape × List (OutSide × Prog))),
    s.working n.val = some p → (s.slot n.val i.val).older = some o → o.stage = .result →
    (s.rack n.val).whiskTurn o = true → o.poisoned = false → o.fused = some f → o.desc.proof = false →
    s.passProgs n.val p o (f.shapes o) = (a, .ok l) → l.any (fun x => x.2.any (s.outHeld n.val i.val p o)) = true →
    Does (.whiskPass n i) s s) ∧
  (∀ (s : State) (n : Rack) (i : SlotNo) (p : Nat) (o : Op), s.working n.val = some p → (s.slot n.val i.val).older = some o →
    o.stage = .result → o.desc.proof = false → (s.rack n.val).whiskTurn o = true → o.poisoned = true →
    ∃ t, Does (.whiskPass n i) s t ∧ t = { s with racks := t.racks } ∧
      (t.slot n.val i.val).older = some { o with stage := .drained }) ∧
  (∀ (s : State) (n : Rack) (i : SlotNo) (p : Nat) (o : Op), s.working n.val = some p → (s.slot n.val i.val).older = some o →
    o.stage = .drained → o.reqs = [] → (s.rack n.val).outstanding o.order = false → o.writeErr = 0 → o.poisoned = false →
    o.desc.brel = false →
    ∃ t, Does (.operationComplete n i) s (State.trySeals t) ∧ t = { s with racks := t.racks, parts := t.parts, signals := t.signals } ∧
      (t.slot n.val i.val).older = none ∧ t.signals = s.signals ++ (if o.desc.sigEn then
        [(o.desc.srack, o.desc.sctr, BitVec.ofNat 16 o.desc.sinc, o.desc.step)] else [])) ∧
  (∀ (s : State) (n : Rack) (i : SlotNo) (p : Nat) (o : Op), s.working n.val = some p → (s.slot n.val i.val).older = some o →
    o.stage = .drained → o.reqs = [] → (s.rack n.val).outstanding o.order = false → o.writeErr = 0 → o.poisoned = false →
    o.desc.brel = true → o.desc.kind ≠ 3 →
    ∃ t, Does (.operationComplete n i) s (State.trySeals t) ∧
      t = { s with racks := t.racks, parts := t.parts, signals := t.signals, knd := t.knd } ∧ (t.slot n.val i.val).older = none ∧
      (t.bkt o.desc.bucket o.desc.step).count = (s.bkt o.desc.bucket o.desc.step).count + 1) ∧
  (∀ (s : State) (n : Rack) (i : SlotNo) (p : Nat) (o : Op), s.working n.val = some p → (s.slot n.val i.val).older = some o →
    o.stage = .drained → o.reqs = [] → (s.rack n.val).outstanding o.order = false → o.writeErr ≠ 0 ∨ o.poisoned = true →
    ∃ t, Does (.operationComplete n i) s (State.trySeals t) ∧
      t = { s with racks := t.racks, parts := t.parts, hkp := t.hkp, qrs := t.qrs } ∧ (t.slot n.val i.val).state = .faulted ∧
      (t.slot n.val i.val).faultCode = 4 ∧ (t.slot n.val i.val).faultOp = some o ∧ (t.slot n.val i.val).older = none) ∧
  (∀ (s : State) (n : Rack) (i : SlotNo) (p : Nat) (o : Op), s.working n.val = some p → (s.slot n.val i.val).older = some o →
    o.stage ≠ .drained ∨ o.reqs ≠ [] ∨ (s.rack n.val).outstanding o.order = true →
    Does (.operationComplete n i) s s.trySeals)

/-- A signal of a counter that clears no bucket adds to the half that its step's parity selects: a newer step restarts the half, the same
step adds, and an older one is discarded and counted (R118). Each row ends with the seals that it made possible. -/
def Obligations.SignalsReachTheirHalf : Prop :=
  (∀ (s : State) (n : Rack) (c : Fin 64) (k : BitVec 16) (e : Step), s.clearsOf n.val c.val = [] →
    (tget (s.rack n.val).halves {} (2 * c.val + e.toNat % 2)).tag = e →
    ∃ t, Does (.signal n c k e) s (State.trySeals t) ∧ t = { s with racks := t.racks, signals := s.signals.erase (n.val, c.val, k, e) } ∧
      tget (t.rack n.val).halves {} (2 * c.val + e.toNat % 2) =
        { count := (tget (s.rack n.val).halves {} (2 * c.val + e.toNat % 2)).count + BitVec.ofNat 32 k.toNat, tag := e } ∧
      (∀ j, j ≠ 2 * c.val + e.toNat % 2 → tget (t.rack n.val).halves {} j = tget (s.rack n.val).halves {} j) ∧
      ∀ j, j ≠ n.val → t.rack j = s.rack j) ∧
  (∀ (s : State) (n : Rack) (c : Fin 64) (k : BitVec 16) (e : Step), s.clearsOf n.val c.val = [] →
    newer e (tget (s.rack n.val).halves {} (2 * c.val + e.toNat % 2)).tag = true →
    ∃ t, Does (.signal n c k e) s (State.trySeals t) ∧ t = { s with racks := t.racks, signals := s.signals.erase (n.val, c.val, k, e) } ∧
      tget (t.rack n.val).halves {} (2 * c.val + e.toNat % 2) = { count := BitVec.ofNat 32 k.toNat, tag := e }) ∧
  (∀ (s : State) (n : Rack) (c : Fin 64) (k : BitVec 16) (e : Step), s.clearsOf n.val c.val = [] →
    (tget (s.rack n.val).halves {} (2 * c.val + e.toNat % 2)).tag ≠ e →
    newer e (tget (s.rack n.val).halves {} (2 * c.val + e.toNat % 2)).tag = false →
    ∃ t, Does (.signal n c k e) s (State.trySeals t) ∧ t = { s with racks := t.racks, signals := s.signals.erase (n.val, c.val, k, e) } ∧
      (t.rack n.val).halves = (s.rack n.val).halves ∧ (t.rack n.val).late = (s.rack n.val).late + 1)

/-- RETRY runs the faulted descriptor of a slot in Faulted with BUS_ERROR again: from feeder entry, by its fetch where that failed, or, of
a proof task, from Ready; it is REJECTED for any other slot (R125). A watchdog period that passes, or a cause that is detected under its
condition, faults the partition while no full commit runs: the first cause is kept, streams and partition take the next epoch, its racks
stop, and a later cause changes nothing of it (R88, R89, R92). A shared resource faults a partition that depends on it (R91); a
cause without its condition, and the host's, which is the row HALT_FAULT's, change nothing. -/
def Obligations.FaultsStopTasksAndPartitions : Prop :=
  (∀ (s : State) (c : Cmd) (t : State) (n v : Nat) (o : Op), Writes s c .retry t (.tskCmd n) v →
    (t.slot n (fieldOf v 6 0)).state = .faulted → (t.slot n (fieldOf v 6 0)).faultCode = 4 →
    (t.slot n (fieldOf v 6 0)).faultOp = some o → o.desc.proof = false →
    ∃ u, Does (.retry c) s (done u c) ∧ u = { t with racks := u.racks } ∧ u.slot n (fieldOf v 6 0) =
        { t.slot n (fieldOf v 6 0) with state := .wait, faultCode := 0, faultOp := none, dropped := none
                                        newer := if o.stage = .fetched then none else some { desc := o.desc } } ∧
      ∀ j, j ≠ fieldOf v 6 0 → u.slot n j = t.slot n j) ∧
  (∀ (s : State) (c : Cmd) (t : State) (n v : Nat) (o : Op), Writes s c .retry t (.tskCmd n) v →
    (t.slot n (fieldOf v 6 0)).state = .faulted → (t.slot n (fieldOf v 6 0)).faultCode = 4 →
    (t.slot n (fieldOf v 6 0)).faultOp = some o → o.desc.proof = true →
    ∃ u, Does (.retry c) s (done u c) ∧ u = { t with racks := u.racks } ∧ u.slot n (fieldOf v 6 0) =
        { t.slot n (fieldOf v 6 0) with state := .ready, faultCode := 0, faultOp := none, newer := some { o with stage := .ready } } ∧
      ∀ j, j ≠ fieldOf v 6 0 → u.slot n j = t.slot n j) ∧
  (∀ (s : State) (c : Cmd) (t : State) (n v : Nat), Writes s c .retry t (.tskCmd n) v →
    (t.slot n (fieldOf v 6 0)).state ≠ .faulted ∨ (t.slot n (fieldOf v 6 0)).faultCode ≠ 4 →
    Does (.retry c) s (t.complete c.q.val c.r.htag stRejected 0x21 0)) ∧
  (∀ (s : State) (p : Part) (d : Slice), (s.part p.val).state = .run → s.slice p.val = some d → d.part.watchdog ≠ 0 →
    s.fullCommit = false →
    ∃ t, Does (.watchdog p) s t ∧ (t.part p.val).state = .faulted ∧ (t.part p.val).cause = 6 ∧ t.mem = s.mem ∧
      (∀ q, q ≠ p.val → t.part q = s.part q)) ∧
  (∀ (s : State) (p : Part), (s.part p.val).state ≠ .run → Does (.watchdog p) s s) ∧
  (∀ (s : State) (p : Part) (k : FaultCause) (n : Island), (s.part p.val).state = .run ∨ (s.part p.val).state = .halted ∨
    (s.part p.val).state = .ready → s.fullCommit = false →
    (((k = .island ∨ k = .engine ∨ k = .stateUe) ∧ n.val ∈ s.racksOf p.val) ∨ (k = .tray ∧ s.trayFails p.val = true)) →
    ∃ t, Does (.partitionFault p k n) s t ∧ (t.part p.val).state = .faulted ∧ (t.part p.val).cause = causeCode k ∧
      (t.part p.val).faultedMark = true ∧ (t.part p.val).epoch = (s.part p.val).epoch + 1 ∧ t.mem = s.mem ∧
      ∀ r ∈ s.racksOf p.val, (t.island r).stopped = true ∧ (t.rack r).stream.epoch = (s.rack r).stream.epoch + 1) ∧
  (∀ (s : State) (p : Part) (n : Island), (s.part p.val).state = .run ∨ (s.part p.val).state = .halted ∨
    (s.part p.val).state = .ready → (∀ q, (s.part q).state ≠ .loading) →
    s.fullCommit = false → 48 ≤ n.val → p.val ∈ s.dependents n.val →
    ∃ t, Does (.partitionFault p .shared n) s t ∧ (t.part p.val).state = .faulted ∧ (t.part p.val).cause = causeCode .shared ∧
      (t.part p.val).faultedMark = true ∧ ∀ q, q ∉ s.dependents n.val → t.part q = s.part q) ∧
  (∀ (s : State) (p : Part) (n : Island), p.val ∉ s.dependents n.val ∨ n.val < 48 → Does (.partitionFault p .shared n) s s) ∧
  (∀ (s : State) (p : Part) (k : FaultCause) (n : Island), k = .island ∨ k = .engine ∨ k = .stateUe → n.val ∉ s.racksOf p.val →
    Does (.partitionFault p k n) s s) ∧
  (∀ (s : State) (p : Part) (n : Island), s.trayFails p.val = false → Does (.partitionFault p .tray n) s s) ∧
  (∀ (s : State) (p : Part) (n : Island), (s.part p.val).state ≠ .run → Does (.partitionFault p .watchdog n) s s) ∧
  (∀ (s : State) (p : Part) (n : Island), Does (.partitionFault p .host n) s s) ∧
  (∀ (s : State) (p : Part) (k : FaultCause) (n : Island), (s.part p.val).state = .faulted → k ≠ .shared →
    ∃ t, Does (.partitionFault p k n) s t ∧ t = { s with hkp := t.hkp, qrs := t.qrs } ∧ t.part p.val = s.part p.val)

/-! ## Precision steering -/

/-- An accepted host steering command waits for its seal with CMDST ACCEPTED and changes no Ledger entry before it; one that
is refused leaves its status and nothing else (R157). The list names PIN, UNPIN, CLEAR_CEIL, FREEZE and THAW with their OP
codes. -/
def Obligations.HostSteeringWaits : Prop :=
  ∀ x ∈ ([(Instr.pin, WriteRow.pin, 1), (Instr.unpin, .unpin, 2), (Instr.clearCeil, .clearCeil, 3), (Instr.freeze, .freeze, 4),
      (Instr.thaw, .thaw, 5)] : List ((Cmd → Instr) × WriteRow × Nat)),
    ∀ (s : State) (c : Cmd) (t : State) (v : Nat), Writes s c x.2.1 t .govCmd v →
      ∃ u, Does (x.1 c) s (done u c) ∧ u = { t with gov := u.gov } ∧ u.gov.cmd = BitVec.ofNat 64 v ∧
        u.gov.cmdst = (t.putReg v .govCmd).steerStatus (steerOf x.2.2 v) ∧ u.gov.ledger = t.gov.ledger ∧ u.gov.groups = t.gov.groups ∧
        u.gov.cmds = if u.gov.cmdst = 0 then t.gov.cmds ++ [steerOf x.2.2 v] else t.gov.cmds

/-- The sums that a finished proof task forms join the line of its step's window with one more in PCOUNT, or, where that window has closed,
the line of the oldest open one, marked late, and its ring slot loses the entry (R143 to R145); a ring that reads an error faults the task
(R124), and with no window open no line changes, which is the model's choice (entry 25). A merged line leaves the cache, and its record in
memory is the old one joined with it (R141). -/
def Obligations.StatisticsJoinTheirRecord : Prop :=
  (∀ (s : State) (n : Rack) (i : SlotNo) (p slot index a : Nat) (o : Op) (x : ProofSlot) (c : ProofCopy) (v : BitVec 64 × BitVec 64),
    s.working n.val = some p → (s.slot n.val i.val).older = some o → o.stage = .result → o.probe = some (slot, index) →
    (s.rack n.val).proofs.find? (fun y => y.slot == slot) = some x → x.copies.find? (fun y => y.index == index) = some c →
    s.prove n.val p x c o.g = (s, .ok v) → s.proofWindow p x.step = some (x.step, false) →
    s.statAddr p index (x.step.toNat % 2) = some a → tfind (s.rack n.val).sieve (lineKey index x.step) = none →
    (s.rack n.val).sieve.length < 512 →
    ∃ t l, Does (.proofTaskComplete n i) s t ∧ t = { s with racks := t.racks } ∧ (∀ k, k ≠ n.val → t.rack k = s.rack k) ∧
      tfind (t.rack n.val).sieve (lineKey index x.step) = some l ∧ l.step = x.step ∧ l.hasData = true ∧ l.late = false ∧
      l.pcount = 1 ∧ l.pdiff = fp64Add 0 v.1 ∧ l.pref = fp64Add 0 v.2 ∧ l.elems = 0 ∧
      (t.rack n.val).proofs = proofDone slot index (s.rack n.val).proofs) ∧
  (∀ (s : State) (n : Rack) (i : SlotNo) (p slot index a : Nat) (o : Op) (x : ProofSlot) (c : ProofCopy) (v : BitVec 64 × BitVec 64)
    (w : Step) (late : Bool) (r : StatRec),
    s.working n.val = some p → (s.slot n.val i.val).older = some o → o.stage = .result → o.probe = some (slot, index) →
    (s.rack n.val).proofs.find? (fun y => y.slot == slot) = some x → x.copies.find? (fun y => y.index == index) = some c →
    s.prove n.val p x c o.g = (s, .ok v) → s.proofWindow p x.step = some (w, late) →
    s.statAddr p index (w.toNat % 2) = some a → tfind (s.rack n.val).sieve (lineKey index w) = some r → r.step = w → r.hasData = true →
    ∃ t l, Does (.proofTaskComplete n i) s t ∧ t = { s with racks := t.racks } ∧
      tfind (t.rack n.val).sieve (lineKey index w) = some l ∧ l.step = w ∧ l.late = (r.late || late) ∧ l.elems = min r.elems (2 ^ 64 - 1) ∧
      l.pcount = min (r.pcount + 1) 65535 ∧ l.pdiff = fp64Add r.pdiff v.1 ∧ l.pref = fp64Add r.pref v.2 ∧
      (t.rack n.val).proofs = proofDone slot index (s.rack n.val).proofs) ∧
  (∀ (s : State) (n : Rack) (i : SlotNo) (p slot index : Nat) (o : Op) (x : ProofSlot) (c : ProofCopy) (v : BitVec 64 × BitVec 64),
    s.working n.val = some p → (s.slot n.val i.val).older = some o → o.stage = .result → o.probe = some (slot, index) →
    (s.rack n.val).proofs.find? (fun y => y.slot == slot) = some x → x.copies.find? (fun y => y.index == index) = some c →
    s.prove n.val p x c o.g = (s, .ok v) → s.proofWindow p x.step = none →
    ∃ t, Does (.proofTaskComplete n i) s t ∧ t = { s with racks := t.racks } ∧ (t.rack n.val).sieve = (s.rack n.val).sieve ∧
      (t.rack n.val).proofs = proofDone slot index (s.rack n.val).proofs) ∧
  (∀ (s : State) (n : Rack) (i : SlotNo) (p slot index : Nat) (o : Op) (x : ProofSlot) (c : ProofCopy) (e : BusErr),
    s.working n.val = some p → (s.slot n.val i.val).older = some o → o.stage = .result → o.probe = some (slot, index) →
    (s.rack n.val).proofs.find? (fun y => y.slot == slot) = some x → x.copies.find? (fun y => y.index == index) = some c →
    s.prove n.val p x c o.g = (s, .error e) →
    ∃ t, Does (.proofTaskComplete n i) s t ∧ (t.slot n.val i.val).state = .faulted ∧ (t.slot n.val i.val).faultCode = 4 ∧
      (t.rack n.val).proofs = (s.rack n.val).proofs ∧ (t.rack n.val).sieve = (s.rack n.val).sieve) ∧
  (∀ (s : State) (n : Rack) (p index a : Nat) (odd : Bool) (l : StatRec), s.isOn n.val = true → s.partOf n.val = some p →
    tfind (s.rack n.val).sieve (2 * index + (if odd then 1 else 0)) = some l → s.statAddr p index (l.step.toNat % 2) = some a →
    a + 128 ≤ hbmTop → s.accessErr (.agent .mergeUnit 0 p) false a 128 = none →
    s.accessErr (.agent .mergeUnit 0 p) true a 128 = none →
    ∃ t, Does (.statsMerge n index odd) s t ∧
      t = { s with racks := t.racks, mem := t.mem, hbm := t.hbm, poison := t.poison, hkp := t.hkp, qrs := t.qrs } ∧
      tfind (t.rack n.val).sieve (2 * index + (if odd then 1 else 0)) = none ∧
      (∀ i < 128, t.byteAt (a + i) = (statBytes ((statOf (s.bytesAt a 128)).merge l)).getD i 0) ∧
      ∀ b, b < a ∨ a + 128 ≤ b → t.byteAt b = s.byteAt b) ∧
  (∀ (s : State) (n : Rack) (index : Nat) (odd : Bool), tfind (s.rack n.val).sieve (2 * index + (if odd then 1 else 0)) = none →
    Does (.statsMerge n index odd) s s)

/-- The window of a step closes once its work and the conversions that give its parameters are done, and the device's votes of a group
leave with its policy tag (R149, R150); a window whose conditions do not hold stays open. A child's votes join, and go up once this device
and every child have given their own; the combined record is taken once and answered with ADOPTED (R151). A row of a word whose packet has
not come in its order changes nothing (12_links_and_ordering.md R247). -/
def Obligations.VotesAreCombined : Prop :=
  (∀ (s : State) (p : Part) (n : Step) (l : List Step) (c : Slice), s.openWindows p.val = n :: l → s.isOn 78 = true →
    s.stepDone p.val n = true → s.conversionsDone p.val n = true → s.slice p.val = some c → c.groups = [] →
    ∃ t, Does (.windowClose p) s (State.trySeals t) ∧ (p.val, n) ∈ t.gov.closed ∧ t.parts = s.parts ∧ t.gov.votes = s.gov.votes ∧
      ∀ r ∈ s.racksOf p.val, ∀ k, k % 2 = n.toNat % 2 → tfind (t.rack r).sieve k = none) ∧
  (∀ (s : State) (p : Part) (n : Step) (l : List Step) (c : Slice) (g : GroupRec) (up : Nat), s.openWindows p.val = n :: l →
    s.isOn 78 = true → s.stepDone p.val n = true → s.conversionsDone p.val n = true → s.slice p.val = some c → c.groups = [g] →
    s.steerRoute c g = (some up, []) → s.vote g.group.val n = { group := g.group.val, step := n } →
    ∃ t x w, Does (.windowClose p) s (State.trySeals t) ∧ (p.val, n) ∈ t.gov.closed ∧ (t.vote g.group.val n).forwarded = true ∧
      x ∈ t.lnk.latest ∧ x.step = n ∧ x.dst = BitVec.ofNat 14 up ∧ x.bucket = g.bucket ∧ x.body = .votes (s.groupTag g n) w false) ∧
  (∀ (s : State) (p : Part) (n : Step) (l : List Step), s.openWindows p.val = n :: l →
    s.isOn 78 = false ∨ s.stepDone p.val n = false ∨ s.conversionsDone p.val n = false →
    Does (.windowClose p) s s.trySeals) ∧
  (∀ (s : State) (k : Packet) (tag : BitVec 32) (w : List (BitVec 64)) (m : Bool) (p r : Nat) (c : Slice) (g : GroupRec),
    s.takes k = true → k.body = .votes tag w m → s.steerBucket k.bucket = some (p, c, g) → newer k.step (s.part p).lastSeal = true →
    (s.vote g.group.val k.step).forwarded = false → r ∈ s.lnk.rank.toNat :: (s.steerRoute c g).2 → r ≠ k.src.toNat →
    (∀ a ∈ (s.vote g.group.val k.step).words, a.1 ≠ r) →
    ∃ t, Does (.voteRecord k) s (State.trySeals t) ∧ t = { s with inbox := s.inbox.erase k, gov := t.gov } ∧
      t.gov.ledger = s.gov.ledger ∧ (t.vote g.group.val k.step).words =
        (s.vote g.group.val k.step).words.filter (fun a => a.1 != k.src.toNat) ++ [(k.src.toNat, tag, w, m)]) ∧
  (∀ (s : State) (k : Packet) (tag : BitVec 32) (w : List (BitVec 64)) (m : Bool) (p up : Nat) (c : Slice) (g : GroupRec),
    s.takes k = true → k.body = .votes tag w m → s.steerBucket k.bucket = some (p, c, g) → newer k.step (s.part p).lastSeal = true →
    (s.vote g.group.val k.step).forwarded = false → (s.steerRoute c g).1 = some up →
    (∀ r ∈ s.lnk.rank.toNat :: (s.steerRoute c g).2, r = k.src.toNat ∨ ∃ a ∈ (s.vote g.group.val k.step).words, a.1 = r) →
    ∃ t x, ∃ (tag2 : BitVec 32) (w2 : List (BitVec 64)) (mm : Bool), Does (.voteRecord k) s (State.trySeals t) ∧ (t.vote g.group.val k.step).forwarded = true ∧ x ∈ t.lnk.latest ∧
      x.body = .votes tag2 w2 mm ∧ x.dst = BitVec.ofNat 14 up ∧ x.step = k.step ∧ x.bucket = g.bucket ∧
      w2 = ((s.vote g.group.val k.step).words.filter (fun a => a.1 != k.src.toNat) ++ [(k.src.toNat, tag, w, m)]).foldl
        (fun l a => orWords l a.2.2.1) []) ∧
  (∀ (s : State) (k : Packet) (w : List (BitVec 64)) (m : Bool) (p up : Nat) (c : Slice) (g : GroupRec),
    s.takes k = true → k.body = .combined w m → s.steerBucket k.bucket = some (p, c, g) → newer k.step (s.part p).lastSeal = true →
    (s.vote g.group.val k.step).result = none → (s.vote g.group.val k.step).adoptedBy = [] →
    (s.vote g.group.val k.step).acked = false → s.steerRoute c g = (some up, []) →
    ∃ t x, Does (.steeringRecord k) s (State.trySeals t) ∧ (t.vote g.group.val k.step).result = some (w, m) ∧ t.mem = s.mem ∧
      x ∈ t.lnk.latest ∧ x.body = .adopted 1 ∧ x.dst = BitVec.ofNat 14 up ∧ x.step = k.step ∧ x.bucket = g.bucket) ∧
  (∀ (s : State) (k : Packet), s.takes k = false → Does (.voteRecord k) s s ∧ Does (.steeringRecord k) s s)

/-! ## The training step -/

/-- TRN_INREADY rises to the written step and ignores one below it (R175). A child's SEAL_READY is kept; once this device's own work of
the oldest unsealed step is done, its buckets have committed and every child has been heard, SEAL_READY goes up (R170). The parent's SEAL
moves SEALED by one, in Run and in Halted alike, and any other SEAL changes nothing (R161, R170). A word whose packet has not come in its
order changes nothing (12_links_and_ordering.md R247), and where nothing may be sealed no row seals. -/
def Obligations.StepsAreSealed : Prop :=
  (∀ (s : State) (c : Cmd) (t : State) (p v : Nat), Writes s c .inready t (.trnInready p) v → (t.part p).inready.toNat ≤ v % 2 ^ 32 →
    ∃ u, Does (.inreadyWrite c) s (done u c) ∧ u = { t with parts := u.parts } ∧ (u.part p).inready.toNat = v % 2 ^ 32 ∧
      (u.part p).state = (t.part p).state ∧ ∀ q, q ≠ p → u.part q = t.part q) ∧
  (∀ (s : State) (c : Cmd) (t : State) (p v : Nat), Writes s c .inready t (.trnInready p) v → v % 2 ^ 32 < (t.part p).inready.toNat →
    Does (.inreadyWrite c) s (done t c)) ∧
  (∀ (s : State) (k : Packet), s.takes k = true → k.body = .sealReady → newer k.step (s.part k.part.val).lastSeal = true →
    k.src.toNat ∈ s.sealChildren k.part.val → s.sealHeard k.part.val k.step k.src.toNat = false →
    (k.step ≠ (s.part k.part.val).lastSeal + 1 → s.sealable k.part.val = false) →
    (k.step = (s.part k.part.val).lastSeal + 1 → s.stepDone k.part.val k.step = false) →
    ∃ t, Does (.sealReady k) s t ∧ t = { s with inbox := s.inbox.erase k, knd := t.knd } ∧
      t.knd.sealWords = s.knd.sealWords ++ [(k.part.val, k.step, k.src.toNat)]) ∧
  (∀ (s : State) (k : Packet) (up : Nat), s.takes k = true → k.body = .sealReady → k.step = (s.part k.part.val).lastSeal + 1 →
    k.src.toNat ∈ s.sealChildren k.part.val → k.src.toNat ≠ s.lnk.rank.toNat →
    (s.part k.part.val).state = .run → s.dev.fenced = false → s.stepDone k.part.val k.step = true →
    s.allCommitted k.part.val k.step = true →
    (∀ r ∈ s.sealChildren k.part.val, r = k.src.toNat ∨ s.sealHeard k.part.val k.step r = true) →
    s.sealHeard k.part.val k.step s.lnk.rank.toNat = false → s.sealParent k.part.val s.lnk.rank.toNat = some up →
    ∃ t x, Does (.sealReady k) s t ∧ t.parts = s.parts ∧ t.mem = s.mem ∧ t.sealHeard k.part.val k.step s.lnk.rank.toNat = true ∧
      x ∈ t.lnk.latest ∧ x.body = .sealReady ∧ x.dst = BitVec.ofNat 14 up ∧ x.step = k.step) ∧
  (∀ (s : State) (k : Packet), s.takes k = true → k.body = .seal → k.step = (s.part k.part.val).lastSeal + 1 →
    (s.part k.part.val).state = .run ∨ (s.part k.part.val).state = .halted →
    s.sealParent k.part.val s.lnk.rank.toNat = some k.src.toNat →
    ∃ t, Does (.seal k) s t ∧ (t.part k.part.val).lastSeal = k.step ∧ (t.part k.part.val).sealedReg = k.step ∧
      (t.part k.part.val).state = (s.part k.part.val).state ∧ (t.part k.part.val).epoch = (s.part k.part.val).epoch ∧
      ∀ q, q ≠ k.part.val → t.part q = s.part q) ∧
  (∀ (s : State) (k : Packet), s.takes k = true → k.body = .seal → k.step ≠ (s.part k.part.val).lastSeal + 1 ∨
      s.sealParent k.part.val s.lnk.rank.toNat ≠ some k.src.toNat →
    Does (.seal k) s { s with inbox := s.inbox.erase k }) ∧
  (∀ (s : State) (k : Packet), s.takes k = false → Does (.sealReady k) s s ∧ Does (.seal k) s s) ∧
  (∀ s : State, (∀ p < 8, s.sealable p = false) → s.trySeals = s)

/-- ROLLBACK of the present recovery epoch and the oldest unsealed step takes the partition back to it: its streams take the
next epoch, the step opens again, and the partition's state stays; where no step has opened yet the partition starts afresh under the next
epoch. One of a sealed step changes nothing and raises SEAL_CONFLICT, even one that was done before the seal, and one of another recovery
epoch, one that has been done already, or a word whose packet has not come in its order changes nothing (R171, R173, R174). -/
def Obligations.RollbackReopensTheStep : Prop :=
  (∀ (s : State) (k : Packet) (e : BitVec 16), s.takes k = true → k.body = .rollback e → e = (s.recov k.part.val).repoch →
    s.dev.fenced = false → (s.recov k.part.val).rolled ≠ some (e, k.step) →
    k.step = (s.part k.part.val).lastSeal + 1 → (s.part k.part.val).state = .run ∨ (s.part k.part.val).state = .halted ∨
      (s.part k.part.val).state = .ready → (s.part k.part.val).everOpen = true → (s.recov k.part.val).migration = none →
    ∃ t, Does (.rollbackWord k) s t ∧ (t.part k.part.val).nextOpen = k.step ∧ (t.part k.part.val).rewound = true ∧
      (t.part k.part.val).epoch = (s.part k.part.val).epoch + 1 ∧ (t.part k.part.val).lastSeal = (s.part k.part.val).lastSeal ∧
      (t.part k.part.val).state = (s.part k.part.val).state ∧ (t.recov k.part.val).rolled = some (e, k.step) ∧
      ∀ n ∈ s.racksOf k.part.val, (t.rack n).stream.epoch = (s.rack n).stream.epoch + 1 ∧ (t.rack n).stream.state = .active) ∧
  (∀ (s : State) (k : Packet) (e : BitVec 16), s.takes k = true → k.body = .rollback e → e = (s.recov k.part.val).repoch →
    s.dev.fenced = false → (s.recov k.part.val).rolled ≠ some (e, k.step) →
    k.step = (s.part k.part.val).lastSeal + 1 → (s.part k.part.val).state = .run ∨ (s.part k.part.val).state = .halted ∨
      (s.part k.part.val).state = .ready → (s.part k.part.val).everOpen = false → (s.recov k.part.val).migration = none →
    ∃ t, Does (.rollbackWord k) s t ∧ (t.part k.part.val).everOpen = false ∧
      (t.part k.part.val).epoch = (s.part k.part.val).epoch + 1 ∧ (t.part k.part.val).state = (s.part k.part.val).state ∧
      (t.recov k.part.val).rolled = some (e, k.step)) ∧
  (∀ (s : State) (k : Packet) (e : BitVec 16), s.takes k = true → k.body = .rollback e → e = (s.recov k.part.val).repoch →
    s.dev.fenced = false → newer k.step (s.part k.part.val).lastSeal = false → s.isOn 78 = true → s.qrs.evBuf.length < evBufMax →
    ∃ t x, Does (.rollbackWord k) s t ∧ t = { s with inbox := s.inbox.erase k, hkp := t.hkp, qrs := t.qrs } ∧
      t.qrs.evBuf = s.qrs.evBuf ++ [x] ∧ x.code = .sealConflict ∧ x.src = 0x100 + k.part.val) ∧
  (∀ (s : State) (k : Packet) (e : BitVec 16), s.takes k = true → k.body = .rollback e →
    e ≠ (s.recov k.part.val).repoch ∨ ((s.recov k.part.val).rolled = some (e, k.step) ∧
      newer k.step (s.part k.part.val).lastSeal = true) →
    Does (.rollbackWord k) s { s with inbox := s.inbox.erase k }) ∧
  (∀ (s : State) (k : Packet), s.takes k = false → Does (.rollbackWord k) s s)

/-! ## Buckets, sums, updates and parameters -/

/-- A complete bucket takes an admission slot, and its AMAX word goes to the parent once every child has given its own; the
owner agrees s under R183 and sends SCALE of attempt 0 to every child (R181 to R183). A bucket that may not be admitted
changes nothing. A device that SCALE or REPLAY reaches releases the bucket under the word's s: the output converter writes
its codes, which are summed per segment for the checks; the current attempt rises to that of a REPLAY (R184, R187, R190). A
word of an attempt that is released already, and a word whose packet has not come in its order, change nothing; one of a lower attempt is
copied to every child and changes nothing else (R181). -/
def Obligations.ScalesAreAgreedAndBucketsReleased : Prop :=
  (∀ (s : State) (bid : BitVec 20) (n : Step) (c : KndCtx), s.openCtx bid n = some c → s.mayAdmit c n = true →
    s.childWords c 1 n = none →
    ∃ t, Does (.admission bid n) s t ∧ t = { s with knd := t.knd } ∧ (t.bkt bid n).admitted = true ∧
      (t.bkt bid n).amax = (s.bkt bid n).amax ∧ (t.bkt bid n).amaxSent = (s.bkt bid n).amaxSent) ∧
  (∀ (s : State) (bid : BitVec 20) (n : Step) (c : KndCtx), s.openCtx bid n = some c → s.mayAdmit c n = false →
    Does (.admission bid n) s s) ∧
  (∀ (s : State) (bid : BitVec 20) (n : Step) (c : KndCtx), s.openCtx bid n = some c → s.mayAdmit c n = true →
    childPorts (routeOf c.r 0) = [] → s.isOwner c = false → (s.bkt bid n).amaxSent = false →
    ∃ t x, Does (.admission bid n) s t ∧ t.mem = s.mem ∧ (t.bkt bid n).admitted = true ∧ (t.bkt bid n).amaxSent = true ∧
      x ∈ t.lnk.latest ∧ x.bucket = bid ∧ x.step = n ∧ x.dst = BitVec.ofNat 14 (routeOf c.r 0).parentRank ∧
      x.body = .amax (s.bkt bid n).amax (widen64 (s.bkt bid n).amax) 1) ∧
  (∀ (s : State) (k : Packet) (a : BitVec 32) (b : BitVec 64) (m : Nat) (c : KndCtx), s.takes k = true → k.body = .amax a b m →
    s.openCtx k.bucket k.step = some c → s.kneads c = true → (s.keepChild k).childWords c 1 k.step = none →
    ∃ t, Does (.amax k) s t ∧ t = { s with inbox := s.inbox.erase k, knd := t.knd } ∧ k ∈ t.knd.words ∧ t.knd.bkts = s.knd.bkts) ∧
  (∀ (s : State) (k : Packet) (a : BitVec 32) (b : BitVec 64) (m : Nat) (c : KndCtx) (l : List Body), s.takes k = true →
    k.body = .amax a b m → s.openCtx k.bucket k.step = some c → s.kneads c = true → s.isOwner c = false →
    (s.keepChild k).childWords c 1 k.step = some l → (s.bkt k.bucket k.step).admitted = true →
    (s.bkt k.bucket k.step).amaxSent = false →
    ∃ t x z, Does (.amax k) s t ∧ z = l.foldl joinAmax ((s.bkt k.bucket k.step).amax, widen64 (s.bkt k.bucket k.step).amax, 1) ∧
      x ∈ t.lnk.latest ∧ x.bucket = k.bucket ∧ x.step = k.step ∧ x.dst = BitVec.ofNat 14 (routeOf c.r 0).parentRank ∧
      x.body = .amax z.1 z.2.1 z.2.2 ∧ (t.bkt k.bucket k.step).amaxSent = true ∧ t.mem = s.mem) ∧
  (∀ (s : State) (k : Packet) (a : BitVec 32) (b : BitVec 64) (m : Nat) (c : KndCtx) (l : List Body) (o : OwnerRec), s.takes k = true →
    k.body = .amax a b m → s.openCtx k.bucket k.step = some c → s.kneads c = true → s.isOwner c = true →
    s.ownerRec c.p c.b.bid = some o → (s.keepChild k).childWords c 1 k.step = some l → (s.bkt k.bucket k.step).admitted = true →
    (s.bkt k.bucket k.step).amaxSent = false →
    ∃ t z, Does (.amax k) s t ∧
      z = l.foldl joinAmax ((s.bkt k.bucket k.step).amax, widen64 (s.bkt k.bucket k.step).amax, 1) ∧
      (t.bkt k.bucket k.step).amax0 = some z ∧
      ∀ y ∈ childPorts (routeOf c.r 0), ∃ x ∈ t.lnk.latest, x.bucket = k.bucket ∧ x.step = k.step ∧ x.dst = BitVec.ofNat 14 y.2 ∧
        x.body = .scale 0 (if o.bound then scaleBound z.2.1 z.2.2 else scaleTight z.1 o.guardBits) o.bound) ∧
  (∀ (s : State) (k : Packet) (a : Nat) (sc : Int) (b : Bool) (c : KndCtx) (u r : State) (codes : List (BitVec 16)), s.takes k = true →
    k.body = .scale a sc b → s.openCtx k.bucket k.step = some c → s.kneads c = true → s.isOwner c = false →
    childPorts (routeOf c.r 0) = [] → (s.bkt k.bucket k.step).admitted = true → (s.bkt k.bucket k.step).committed = false →
    (s.bkt k.bucket k.step).attempt = a → (s.bkt k.bucket k.step).released = false →
    u = State.modBkt { s with inbox := s.inbox.erase k } k.bucket k.step (fun y => { y with s := sc, bound := b }) →
    u.convertG16 c k.step sc = (r, some codes) →
    (∀ j < c.b.nseg, ∀ port, r.accessErr (.agent .receiveGen port c.p) false (c.b.gret + 4096 * j) 4096 = none) →
    ∃ t, Does (.scale k) s t ∧ (t.bkt k.bucket k.step).s = sc ∧ (t.bkt k.bucket k.step).released = true ∧
      (t.bkt k.bucket k.step).relAttempt = a ∧
      (t.bkt k.bucket k.step).checks = (chunks segElems c.b.nseg codes).map checksum ∧ t.mem = r.mem) ∧
  (∀ (s : State) (k : Packet) (a : Nat) (sc : Int) (b : Bool) (c : KndCtx) (u r : State) (codes : List (BitVec 16)), s.takes k = true →
    k.body = .replay a sc b → s.openCtx k.bucket k.step = some c → s.kneads c = true → s.isOwner c = false →
    childPorts (routeOf c.r 0) = [] → (s.bkt k.bucket k.step).admitted = true → (s.bkt k.bucket k.step).committed = false →
    (s.bkt k.bucket k.step).attempt < a → (s.bkt k.bucket k.step).relAttempt ≠ a →
    u = (State.raiseAttempt { s with inbox := s.inbox.erase k } c k.step a).modBkt k.bucket k.step
      (fun y => { y with s := sc, bound := b }) →
    u.convertG16 c k.step sc = (r, some codes) →
    (∀ j < c.b.nseg, ∀ port, r.accessErr (.agent .receiveGen port c.p) false (c.b.gret + 4096 * j) 4096 = none) →
    ∃ t, Does (.replay k) s t ∧ (t.bkt k.bucket k.step).s = sc ∧ (t.bkt k.bucket k.step).attempt = a ∧
      (t.bkt k.bucket k.step).released = true ∧ (t.bkt k.bucket k.step).relAttempt = a ∧
      (t.bkt k.bucket k.step).checks = (chunks segElems c.b.nseg codes).map checksum ∧ t.mem = r.mem) ∧
  (∀ (s : State) (k : Packet) (a : Nat) (sc : Int) (b : Bool) (c : KndCtx), s.takes k = true →
    s.openCtx k.bucket k.step = some c → s.kneads c = true → (s.bkt k.bucket k.step).released = true →
    (s.bkt k.bucket k.step).relAttempt = a →
    (k.body = .scale a sc b → Does (.scale k) s { s with inbox := s.inbox.erase k }) ∧
    (k.body = .replay a sc b → Does (.replay k) s { s with inbox := s.inbox.erase k })) ∧
  (∀ (s : State) (k : Packet) (a : Nat) (sc : Int) (b : Bool) (c : KndCtx), s.takes k = true →
    s.openCtx k.bucket k.step = some c → s.kneads c = true → s.isOwner c = false → (s.bkt k.bucket k.step).admitted = true →
    (s.bkt k.bucket k.step).committed = false → a < (s.bkt k.bucket k.step).attempt →
    ((s.bkt k.bucket k.step).released = false ∨ (s.bkt k.bucket k.step).relAttempt ≠ a) →
    (k.body = .scale a sc b → ∃ t, Does (.scale k) s t ∧ t.knd = s.knd ∧ t.mem = s.mem ∧
      ∀ y ∈ childPorts (routeOf c.r 0), ∃ x ∈ t.lnk.latest, x.bucket = k.bucket ∧ x.step = k.step ∧ x.dst = BitVec.ofNat 14 y.2 ∧
        x.body = k.body) ∧
    (k.body = .replay a sc b → ∃ t, Does (.replay k) s t ∧ t.knd = s.knd ∧ t.mem = s.mem ∧
      ∀ y ∈ childPorts (routeOf c.r 0), ∃ x ∈ t.lnk.latest, x.bucket = k.bucket ∧ x.step = k.step ∧ x.dst = BitVec.ofNat 14 y.2 ∧
        x.body = k.body)) ∧
  (∀ (s : State) (k : Packet), s.takes k = false → Does (.amax k) s s ∧ Does (.scale k) s s ∧ Does (.replay k) s s)

/-- A segment waits in its adder slot until this device has released the bucket, one of a higher attempt raises the current one, and
one for which its port has no slot left stays where it is (R185, R186; the wait is the model's choice, entry 48); one of a lower attempt
or of a sealed or rolled-back step is discarded and counted at its port (R186). The running sum takes the child's port, clamped element by
element (R179), and the owner keeps it. -/
def Obligations.SegmentsAreSummed : Prop :=
  (∀ (s : State) (k : Packet) (seg a route port : Nat) (codes : List (BitVec 16)) (c : KndCtx), s.takes k = true →
    k.body = .gseg seg a route codes → s.kndCtx k.bucket = some c → childPort c route k.src = some port →
    s.stepGone c.p k.step = false → s.kneads c = true → s.isOwner c = false → (s.bkt k.bucket k.step).attempt = a →
    (s.bkt k.bucket k.step).released = false → (s.bkt k.bucket k.step).verified.contains seg = false →
    (s.addSlot k.bucket k.step seg a).done = none → s.slotsUsed k.bucket k.step port < 4 →
    ∃ t, Does (.gseg k) s t ∧ t = { s with inbox := s.inbox.erase k, knd := t.knd } ∧ t.knd.bkts = s.knd.bkts ∧
      tget (t.addSlot k.bucket k.step seg a).arrived [] port = codes) ∧
  (∀ (s : State) (k : Packet) (seg a route port : Nat) (codes : List (BitVec 16)) (c : KndCtx), s.takes k = true →
    k.body = .gseg seg a route codes → s.kndCtx k.bucket = some c → childPort c route k.src = some port →
    s.stepGone c.p k.step = false → s.kneads c = true → s.isOwner c = false → (s.bkt k.bucket k.step).attempt < a →
    (s.bkt k.bucket k.step).relAttempt ≠ a → (s.addSlot k.bucket k.step seg a).done = none →
    ∃ t, Does (.gseg k) s t ∧ t = { s with inbox := s.inbox.erase k, knd := t.knd } ∧ (t.bkt k.bucket k.step).attempt = a ∧
      (t.bkt k.bucket k.step).verified = [] ∧ tget (t.addSlot k.bucket k.step seg a).arrived [] port = codes) ∧
  (∀ (s : State) (k : Packet) (seg a route port : Nat) (codes : List (BitVec 16)) (c : KndCtx),
    k.body = .gseg seg a route codes → s.kndCtx k.bucket = some c → childPort c route k.src = some port →
    s.stepGone c.p k.step = false → (s.bkt k.bucket k.step).attempt = a → (s.bkt k.bucket k.step).verified.contains seg = false →
    4 ≤ s.slotsUsed k.bucket k.step port → Does (.gseg k) s s) ∧
  (∀ (s : State) (k : Packet) (seg a route port : Nat) (codes : List (BitVec 16)) (c : KndCtx), s.takes k = true →
    k.body = .gseg seg a route codes → s.kndCtx k.bucket = some c → childPort c route k.src = some port →
    s.stepGone c.p k.step = true ∨ a < (s.bkt k.bucket k.step).attempt →
    ∃ t, Does (.gseg k) s t ∧ t = { s with inbox := s.inbox.erase k, knd := t.knd } ∧ t.knd.bkts = s.knd.bkts ∧
      t.knd.adders = s.knd.adders ∧ (t.kndPort port).disc = satAdd (s.kndPort port).disc 1) ∧
  (∀ (s : State) (k : Packet) (seg a route port rank : Nat) (codes : List (BitVec 16)) (c : KndCtx) (b : List Byte)
    (z : List (BitVec 16) × Bool), s.takes k = true →
    k.body = .gseg seg a route codes → s.kndCtx k.bucket = some c → childPort c route k.src = some port →
    childPorts (routeOf c.r seg) = [(port, rank)] → s.stepGone c.p k.step = false →
    s.kneads c = true → s.isOwner c = true → (s.bkt k.bucket k.step).attempt = a → (s.bkt k.bucket k.step).released = true →
    (s.bkt k.bucket k.step).relAttempt = a → (s.bkt k.bucket k.step).verified.contains seg = false → seg < c.b.nseg →
    (s.bkt k.bucket k.step).verified.length < c.b.nseg → s.slotsUsed k.bucket k.step port < 4 →
    (s.addSlot k.bucket k.step seg a).done = none → tfind (s.addSlot k.bucket k.step seg a).csums port = none →
    s.read (.agent .receiveGen (((routeOf c.r seg).parent).getD 0) c.p) (c.b.gret + 4096 * seg) 4096 = (s, .ok b) →
    z = segAdd (segCodes b) codes →
    ∃ t, Does (.gseg k) s t ∧ t = { s with inbox := s.inbox.erase k, knd := t.knd } ∧
      tget (t.bkt k.bucket k.step).sums [] seg = z.1 ∧ (t.addSlot k.bucket k.step seg a).done = some z.2 ∧
      (t.kndPort port).segs = (s.kndPort port).segs + 1 ∧
      (t.kndPort port).sats = if z.2 then satAdd (s.kndPort port).sats 1 else (s.kndPort port).sats)

/-- The owner checks each segment's sum against its checksum (R187, R188): the last that agrees starts the update, which reads its schedule
entry and constants once (R194). One that does not agree, or a void one, is replayed with attempt + 1, a void one under s + 2 at first and in
bound mode after that; REPLAY goes to every child (R189). The third checksum failure and one past attempt 7 fail the bucket with KND_ERR
codes 2 and 1 (R191). A changed route replays a bucket in exchange under its present scale (R189, R199). -/
def Obligations.SumsAreCheckedAndReplayed : Prop :=
  (∀ (s : State) (k : Packet) (seg a port rank x : Nat) (sum : BitVec 32) (v : Bool) (c : KndCtx) (b : Bkt) (o : OwnerRec)
    (e g : List Byte), s.takes k = true → k.body = .csum seg a sum v →
    s.kndCtx k.bucket = some c → b = s.bkt k.bucket k.step → childPorts (routeOf c.r seg) = [(port, rank)] → rank = k.src.toNat →
    s.stepGone c.p k.step = false → s.kneads c = true → s.isOwner c = true → b.attempt = a → b.released = true →
    b.relAttempt = a → b.verified.contains seg = false → seg < c.b.nseg → c.b.nseg ≤ b.verified.length + 1 → b.own = .summing →
    (s.addSlot k.bucket k.step seg a).done = some false → v = false →
    checksum (tget b.sums [] seg) = b.checks.getD seg 0 + sum → s.ownerRec c.p k.bucket = some o →
    s.schedAddr c.p o k.step = some x → s.read (engWho c.p o) x 64 = (s, .ok e) → s.read (engWho c.p o) o.const 64 = (s, .ok g) →
    ∃ t, Does (.csum k) s t ∧ t = { s with inbox := s.inbox.erase k, knd := t.knd, parts := t.parts } ∧
      (t.bkt k.bucket k.step).verified = b.verified ++ [seg] ∧ (t.bkt k.bucket k.step).own = .updating ∧
      (t.bkt k.bucket k.step).sched = unpackBits 32 16 e ∧ (t.bkt k.bucket k.step).consts = unpackBits 32 16 g) ∧
  (∀ (s : State) (k : Packet) (seg a port rank : Nat) (sum : BitVec 32) (v : Bool) (c : KndCtx) (b : Bkt), s.takes k = true →
    k.body = .csum seg a sum v →
    s.kndCtx k.bucket = some c → b = s.bkt k.bucket k.step → childPorts (routeOf c.r seg) = [(port, rank)] → rank = k.src.toNat →
    s.stepGone c.p k.step = false → s.kneads c = true → s.isOwner c = true → b.attempt = a → b.released = true →
    b.relAttempt = a → b.verified.contains seg = false → seg < c.b.nseg → a < 7 → (∀ j, childPorts (routeOf c.r j) ≠ []) →
    (∀ y ∈ s.knd.adders, y.bid = k.bucket → y.step = k.step → y.attempt ≠ a + 1) →
    (s.addSlot k.bucket k.step seg a).done = some false →
    v = true ∨ (v = false ∧ b.csReplays < 2 ∧ checksum (tget b.sums [] seg) ≠ b.checks.getD seg 0 + sum) →
    ∃ t, ∃ (sc : Int) (bd : Bool), Does (.csum k) s t ∧ (t.bkt k.bucket k.step).attempt = a + 1 ∧
      (t.bkt k.bucket k.step).own = .replaying ∧ (t.bkt k.bucket k.step).s = sc ∧ (t.bkt k.bucket k.step).bound = bd ∧
      (t.bkt k.bucket k.step).verified = [] ∧ (v = false → sc = b.s ∧ bd = b.bound) ∧
      (v = true → b.bound = false → a < 3 → sc = clampScale (b.s + 2) ∧ bd = false) ∧
      (∀ z, v = true → b.bound = true ∨ 3 ≤ a → b.amax0 = some z → sc = scaleBound z.2.1 z.2.2 ∧ bd = true) ∧
      ∀ y ∈ childPorts (routeOf c.r 0), ∃ x ∈ t.lnk.latest, x.bucket = k.bucket ∧ x.step = k.step ∧ x.dst = BitVec.ofNat 14 y.2 ∧
        x.body = .replay (a + 1) sc bd) ∧
  (∀ (s : State) (k : Packet) (seg a port rank : Nat) (sum : BitVec 32) (v : Bool) (c : KndCtx) (b : Bkt), s.takes k = true →
    k.body = .csum seg a sum v →
    s.kndCtx k.bucket = some c → b = s.bkt k.bucket k.step → childPorts (routeOf c.r seg) = [(port, rank)] → rank = k.src.toNat →
    s.stepGone c.p k.step = false → s.kneads c = true → s.isOwner c = true → b.attempt = a → b.released = true →
    b.relAttempt = a → b.verified.contains seg = false → seg < c.b.nseg → s.knd.errValid = false →
    (s.addSlot k.bucket k.step seg a).done = some false →
    (v = true ∧ 7 ≤ a) ∨ (v = false ∧ 2 ≤ b.csReplays ∧ checksum (tget b.sums [] seg) ≠ b.checks.getD seg 0 + sum) →
    ∃ t, Does (.csum k) s t ∧ (t.bkt k.bucket k.step).own = .failed ∧ t.knd.errValid = true ∧
      t.knd.errCode = (if v then 1 else 2) ∧ t.knd.errStep = k.step ∧ t.knd.errBid = k.bucket ∧ t.mem = s.mem) ∧
  (∀ (s : State) (k : Packet) (seg a port : Nat) (sum : BitVec 32) (v : Bool) (c : KndCtx), s.takes k = true →
    k.body = .csum seg a sum v → s.kndCtx k.bucket = some c → childPort c seg k.src = some port →
    s.stepGone c.p k.step = true ∨ a < (s.bkt k.bucket k.step).attempt →
    ∃ t, Does (.csum k) s t ∧ t = { s with inbox := s.inbox.erase k, knd := t.knd } ∧ t.knd.bkts = s.knd.bkts ∧
      (t.kndPort port).disc = satAdd (s.kndPort port).disc 1) ∧
  (∀ (s : State) (k : Packet) (c : KndCtx) (b : Bkt), s.takes k = true → k.body = .routeChanged →
    s.openCtx k.bucket k.step = some c →
    b = s.bkt k.bucket k.step → s.kneads c = true → s.isOwner c = true → b.own = .summing ∨ b.own = .replaying → b.attempt < 7 →
    0 < c.b.nseg → (∀ j, childPorts (routeOf c.r j) ≠ []) →
    (∀ y ∈ s.knd.adders, y.bid = k.bucket → y.step = k.step → y.attempt ≠ b.attempt + 1) →
    ∃ t, Does (.routeChanged k) s t ∧ (t.bkt k.bucket k.step).attempt = b.attempt + 1 ∧ (t.bkt k.bucket k.step).s = b.s ∧
      ∀ y ∈ childPorts (routeOf c.r 0), ∃ x ∈ t.lnk.latest, x.bucket = k.bucket ∧ x.step = k.step ∧ x.dst = BitVec.ofNat 14 y.2 ∧
        x.body = .replay (b.attempt + 1) b.s b.bound) ∧
  (∀ (s : State) (k : Packet) (c : KndCtx), s.takes k = true → k.body = .routeChanged → s.openCtx k.bucket k.step = some c →
    s.isOwner c = false ∨ ((s.bkt k.bucket k.step).own ≠ .summing ∧ (s.bkt k.bucket k.step).own ≠ .replaying) →
    Does (.routeChanged k) s { s with inbox := s.inbox.erase k }) ∧
  (∀ (s : State) (k : Packet), s.takes k = false → Does (.csum k) s s ∧ Does (.gseg k) s s ∧ Does (.routeChanged k) s s)

/-- An update engine reads generation A and its state words, runs the bucket's program on every element with the schedule entry and the
constants that it has read, and writes generation B; the Governor gets each layer's sums of the change (R193 to R196, R146). After an
uncorrectable read the bucket fails with KND_ERR code 3 and memory stands as it was (R201). The row ends with the seals that it made
possible; while a full tap buffer stops the write-back it changes nothing else (13_recovery.md R253). -/
def Obligations.UpdatesRunOrFail : Prop :=
  (∀ (s : State) (bid : BitVec 20) (n : Step) (c : KndCtx) (o : OwnerRec) (a : Nat), s.openCtx bid n = some c →
    s.ownerRec c.p bid = some o → (s.bkt bid n).own = .updating → s.kneads c = true → s.engineRuns o = true →
    s.tapWaits c.p n = false → s.knd.errValid = false →
    ∃ t, Does (.updateDone bid n (some a)) s (State.trySeals t) ∧ (t.bkt bid n).own = .failed ∧ t.mem = s.mem ∧
      t.knd.errValid = true ∧ t.knd.errCode = 3 ∧ t.knd.errStep = n ∧ t.knd.errBid = bid) ∧
  (∀ (s : State) (bid : BitVec 20) (n : Step) (c : KndCtx) (o : OwnerRec) (m : LayerMap) (q r w : State) (prog : List (BitVec 32))
    (l : List (List Byte)) (old : List Nat) (res : List (Nat × List Nat)), s.openCtx bid n = some c → s.ownerRec c.p bid = some o →
    (s.bkt bid n).own = .updating → s.kneads c = true → s.engineRuns o = true → s.tapWaits c.p n = false →
    s.readAll (engWho c.p o) ((List.range o.nstate).map (fun j => (stateAt o (n.toNat % 2) j, 4 * bktElems c.b))) = (q, some l) →
    q.readMaster c.p o (n.toNat % 2) (bktElems c.b) = (r, some old) →
    prog = ((s.slice c.p).bind (fun x => tfind x.uprogs o.uprog)).getD [] →
    res = (List.range (bktElems c.b)).map (fun i => updElem (mastFmt o) prog (s.bkt bid n).consts (s.bkt bid n).sched (s.bkt bid n).s
      (((List.range c.b.nseg).flatMap (fun j => tget (s.bkt bid n).sums [] j)).getD i 0) (old.getD i 0)
      (l.map (fun y => (unpackBits 32 (bktElems c.b) y).getD i 0))) →
    r.writeAll (engWho c.p o) (genArrays o (n.toNat % 2 + 1) (bktElems c.b) (res.map (fun x => x.1))
      ((List.range o.nstate).map (fun j => res.map (fun x => x.2.getD j 0)))) = (w, true) →
    c.b.paired = false → (w.bkt bid n).clearDone = false → w.snapStep c.p n = false → w.drainOf c.p n = none →
    w.layersOf c.p c.b.bid = [m] → (∀ z, tfind w.gov.uwr (2 * m.layer + n.toNat % 2) = some z → z.1 ≠ n) →
    ∃ t, Does (.updateDone bid n none) s (State.trySeals t) ∧ (t.bkt bid n).own = .sending ∧ (t.bkt bid n).sums = [] ∧ t.mem = w.mem ∧
      tfind t.gov.uwr (2 * m.layer + n.toNat % 2) =
        some (n, updateSum (mastFmt o) (((List.zip old (res.map (fun x => x.1))).drop m.moff).take (m.o * m.i)))) ∧
  (∀ (s : State) (bid : BitVec 20) (n : Step) (c : KndCtx) (o : OwnerRec), s.openCtx bid n = some c → s.ownerRec c.p bid = some o →
    (s.bkt bid n).own ≠ .updating ∨ s.engineRuns o = false ∨ s.tapWaits c.p n = true →
    Does (.updateDone bid n none) s s.trySeals)

/-- The parts of a tile are kept until its form is whole, and then written through the receive program (R198). A bucket is
adopted once PARAM_END has come on every route with the count of the tiles accepted on it; its adoption counter counts, and ADOPTED goes
toward the owner (R198, R167). A word whose packet has not come in its order changes nothing. -/
def Obligations.ParametersAreAdopted : Prop :=
  (∀ (s : State) (k : Packet) (tile part form route : Nat) (d : List Byte) (c : KndCtx) (b : Bkt), s.takes k = true →
    k.body = .ptile tile part form route d → s.openCtx k.bucket k.step = some c → b = s.bkt k.bucket (keyStep k.step) →
    s.kneads c = true → b.solo = false → b.adoptedHere = false → (routeOf c.r route).parent.isSome = true →
    (routeOf c.r route).parentRank = k.src.toNat → childPorts (routeOf c.r route) = [] →
    wholeForm (heldParts { b with heldTiles := b.heldTiles ++ [k] } tile form) (s.formParts c tile form k.step) = none →
    ∃ t, Does (.ptile k) s (State.trySeals t) ∧ t = { s with inbox := s.inbox.erase k, knd := t.knd } ∧
      t.bkt k.bucket (keyStep k.step) = { b with heldTiles := b.heldTiles ++ [k] }) ∧
  (∀ (s : State) (k : Packet) (tile form route i : Nat) (m : LayerMap) (d : List Byte) (c : KndCtx) (b : Bkt) (u w : State),
    s.takes k = true → k.body = .ptile tile 0 form route d → s.openCtx k.bucket k.step = some c →
    b = s.bkt k.bucket (keyStep k.step) →
    s.kneads c = true → b.solo = false → b.adoptedHere = false → b.heldTiles = [] → (routeOf c.r route).parent.isSome = true →
    (routeOf c.r route).parentRank = k.src.toNat → childPorts (routeOf c.r route) = [] → s.formParts c tile form k.step = 1 →
    (bucketTiles (s.layersOf c.p c.b.bid))[tile]? = some (m, i) → b.parts.contains (tile, form, 0) = false →
    u = State.modBkt { s with inbox := s.inbox.erase k } k.bucket (keyStep k.step) (fun y => { y with heldTiles := [] }) →
    u.writeTile c ((routeOf c.r route).parent.getD 0) k.step m i form d = (w, true) →
    tfind (w.bkt k.bucket (keyStep k.step)).ends 0 = none →
    ∃ t, Does (.ptile k) s (State.trySeals t) ∧ t.mem = w.mem ∧
      (t.bkt k.bucket (keyStep k.step)).parts = (w.bkt k.bucket (keyStep k.step)).parts ++ [(tile, form, 0)] ∧
      (t.bkt k.bucket (keyStep k.step)).adoptedHere = (w.bkt k.bucket (keyStep k.step)).adoptedHere) ∧
  (∀ (s : State) (k : Packet) (j n : Nat) (c : KndCtx) (b : Bkt), s.takes k = true → k.body = .paramEnd j n →
    s.openCtx k.bucket k.step = some c →
    b = s.bkt k.bucket (keyStep k.step) → s.kneads c = true → b.solo = false → b.adoptedHere = false → j < max 1 c.r.routes.length →
    (routeOf c.r j).parent.isSome = true → (routeOf c.r j).parentRank = k.src.toNat → childPorts (routeOf c.r j) = [] →
    n ≠ tget b.tiles 0 j →
    ∃ t, Does (.paramEnd k) s (State.trySeals t) ∧ t = { s with inbox := s.inbox.erase k, knd := t.knd } ∧
      tfind (t.bkt k.bucket (keyStep k.step)).ends j = some n ∧ (t.bkt k.bucket (keyStep k.step)).adoptedHere = false) ∧
  (∀ (s : State) (k : Packet) (j n : Nat) (c : KndCtx) (b : Bkt), s.takes k = true → k.body = .paramEnd j n →
    s.openCtx k.bucket k.step = some c →
    b = s.bkt k.bucket (keyStep k.step) → s.kneads c = true → s.isOwner c = false → b.solo = false → b.adoptedHere = false →
    b.adoptSent = false → (routeOf c.r j).parent.isSome = true → (routeOf c.r j).parentRank = k.src.toNat →
    childPorts (routeOf c.r j) = [] → childPorts (routeOf c.r 0) = [] → j < max 1 c.r.routes.length → n = tget b.tiles 0 j →
    (∀ i < max 1 c.r.routes.length, i ≠ j → tfind b.ends i = some (tget b.tiles 0 i)) →
    ∃ t x, Does (.paramEnd k) s (State.trySeals t) ∧ t.mem = s.mem ∧ (t.bkt k.bucket (keyStep k.step)).adoptedHere = true ∧
      (t.bkt k.bucket (keyStep k.step)).adoptSent = true ∧
      (t.rack c.b.arack.val).halves = ((s.addHalf c.b.arack.val c.b.actr 1 k.step).rack c.b.arack.val).halves ∧
      x ∈ t.lnk.latest ∧ x.bucket = k.bucket ∧ x.step = k.step ∧ x.dst = BitVec.ofNat 14 (routeOf c.r 0).parentRank ∧
      x.body = .adopted 1) ∧
  (∀ (s : State) (k : Packet), s.takes k = false → Does (.ptile k) s s ∧ Does (.paramEnd k) s s)

/-- A complete count of ADOPTED at the owner commits the bucket, and COMMIT goes down; whoever commits frees what it kept and
clears the accumulation region (R168, R169); ADOPTED and COMMIT of a steering bucket count for its group (07_precision_steering.md R151). A
holder whose counter has reached a bucket's clearance count gives CLEAR toward
the owner, which lets the parameters of a single-mode bucket go once its count is complete (08_training_step.md R166, R181).
PARAM_RESEND brings the parameters again to the named rank alone, ended by PARAM_END (13_recovery.md R262). -/
def Obligations.BucketsClearAndCommit : Prop :=
  (∀ (s : State) (k : Packet) (m : Nat) (c : KndCtx), s.takes k = true → k.body = .adopted m → s.steerBucket k.bucket = none →
    s.openCtx k.bucket k.step = some c → s.kneads c = true → (s.keepChild k).childWords c 6 k.step = none →
    ∃ t, Does (.adopted k) s (State.trySeals t) ∧ t = { s with inbox := s.inbox.erase k, knd := t.knd } ∧ k ∈ t.knd.words ∧
      t.knd.bkts = s.knd.bkts) ∧
  (∀ (s : State) (k : Packet) (m port : Nat) (c : KndCtx) (o : OwnerRec), s.takes k = true → k.body = .adopted m →
    s.steerBucket k.bucket = none →
    s.openCtx k.bucket k.step = some c → s.kneads c = true → s.isOwner c = true → s.ownerRec c.p c.b.bid = some o →
    childPorts (routeOf c.r 0) = [(port, k.src.toNat)] → (s.keepChild k).childWords c 6 k.step = some [.adopted m] →
    o.holders = m → (s.bkt k.bucket (keyStep k.step)).adoptedHere = true →
    (s.bkt k.bucket (keyStep k.step)).adoptSent = false → (s.bkt k.bucket (keyStep k.step)).committed = false →
    ∃ t x, Does (.adopted k) s (State.trySeals t) ∧ (t.bkt k.bucket (keyStep k.step)).committed = true ∧
      (t.bkt k.bucket (keyStep k.step)).sums = [] ∧ x ∈ t.lnk.latest ∧ x.body = .commit ∧ x.dst = k.src ∧ x.bucket = k.bucket ∧
      x.step = keyStep k.step) ∧
  (∀ (s : State) (k : Packet) (m p r : Nat) (c : Slice) (g : GroupRec), s.takes k = true → k.body = .adopted m →
    s.steerBucket k.bucket = some (p, c, g) → newer k.step (s.part p).lastSeal = true →
    r ∈ s.lnk.rank.toNat :: (s.steerRoute c g).2 → r ≠ k.src.toNat → (∀ a ∈ (s.vote g.group.val k.step).adoptedBy, a.1 ≠ r) →
    ∃ t, Does (.adopted k) s (State.trySeals t) ∧ t = { s with inbox := s.inbox.erase k, gov := t.gov } ∧
      (t.vote g.group.val k.step).adoptedBy =
        (s.vote g.group.val k.step).adoptedBy.filter (fun a => a.1 != k.src.toNat) ++ [(k.src.toNat, m)]) ∧
  (∀ (s : State) (k : Packet) (p : Nat) (c : Slice) (g : GroupRec), s.takes k = true → k.body = .commit →
    s.steerBucket k.bucket = some (p, c, g) → newer k.step (s.part p).lastSeal = true →
    ∃ t, Does (.commitWord k) s (State.trySeals t) ∧ (t.vote g.group.val k.step).committed = true ∧ t.mem = s.mem ∧
      t.parts = s.parts) ∧
  (∀ (s : State) (k : Packet) (c : KndCtx), s.takes k = true → k.body = .commit → s.steerBucket k.bucket = none →
    s.openCtx k.bucket k.step = some c →
    s.kneads c = true → (s.bkt k.bucket k.step).committed = false → childPorts (routeOf c.r 0) = [] →
    ∃ t, Does (.commitWord k) s (State.trySeals t) ∧
      t = { s with inbox := s.inbox.erase k, knd := t.knd, mem := t.mem, poison := t.poison, secded := t.secded } ∧
      (t.bkt k.bucket k.step).committed = true ∧
      t.mem = s.mem.filter (fun e => !(c.b.acc ≤ s.addrOf e.1 && s.addrOf e.1 < c.b.acc + 4 * bktElems c.b))) ∧
  (∀ (s : State) (n : Rack) (ctr : Fin 64) (inc : BitVec 16) (step : Step) (b : BucketRec) (c : KndCtx) (u : State),
    s.clearsOf n.val ctr.val = [b] → s.openCtx b.bid step = some c → (s.bkt b.bid step).cleared = false →
    (s.bkt b.bid step).clearSent = false → s.isOwner c = false → childPorts (routeOf c.r 0) = [] →
    u = State.addHalf { s with signals := s.signals.erase (n.val, ctr.val, inc, step) } n.val ctr.val (BitVec.ofNat 32 inc.toNat) step →
    u.waitMet n.val ctr.val b.cval step = true →
    ∃ t x, Does (.signal n ctr inc step) s (State.trySeals t) ∧ (t.bkt b.bid step).cleared = true ∧ (t.bkt b.bid step).clearSent = true ∧
      x ∈ t.lnk.latest ∧ x.body = .clear 1 ∧ x.dst = BitVec.ofNat 14 (routeOf c.r 0).parentRank ∧ x.bucket = b.bid ∧ x.step = step) ∧
  (∀ (s : State) (k : Packet) (m : Nat) (c : KndCtx) (o : OwnerRec), s.takes k = true → k.body = .clear m →
    s.openCtx k.bucket k.step = some c →
    s.kneads c = true → s.isOwner c = true → s.ownerRec c.p c.b.bid = some o → (s.keepChild k).childWords c 5 k.step = some [.clear m] →
    o.holders = m → (s.bkt k.bucket k.step).cleared = true → (s.bkt k.bucket k.step).clearSent = false →
    (s.bkt k.bucket k.step).own ≠ .sending →
    ∃ t, Does (.clear k) s (State.trySeals t) ∧ t = { s with inbox := s.inbox.erase k, knd := t.knd } ∧
      (t.bkt k.bucket k.step).clearDone = true ∧ (t.bkt k.bucket k.step).own = (s.bkt k.bucket k.step).own) ∧
  (∀ (s : State) (k : Packet) (m : Nat) (c : KndCtx) (o : OwnerRec) (codes : List Nat), s.takes k = true → k.body = .clear m →
    s.openCtx k.bucket k.step = some c →
    s.kneads c = true → s.isOwner c = true → s.ownerRec c.p c.b.bid = some o → (s.keepChild k).childWords c 5 k.step = some [.clear m] →
    o.holders = m → (s.bkt k.bucket k.step).cleared = true → (s.bkt k.bucket k.step).clearSent = false →
    (s.bkt k.bucket k.step).own = .sending →
    (∀ l ∈ s.layersOf c.p c.b.bid, s.paramWordOk l.layer 0 (k.step + 1) = true ∧ s.paramWordOk l.layer 1 (k.step + 1) = true) →
    s.readMaster c.p o ((k.step + 1).toNat % 2) (bktElems c.b) = (s, some codes) →
    ∃ t, Does (.clear k) s (State.trySeals t) ∧ (t.bkt k.bucket k.step).paramsSent = true ∧
      ∀ y ∈ childPorts (routeOf c.r 0), ∃ x ∈ t.lnk.latest, x.bucket = k.bucket ∧ x.step = k.step + 1 ∧ x.dst = BitVec.ofNat 14 y.2 ∧
        x.body = .paramEnd 0 (routeTiles (bucketTiles (s.layersOf c.p c.b.bid)).length (max 1 c.r.routes.length) 0)) ∧
  (∀ (s : State) (k : Packet) (r : BitVec 14) (c : KndCtx) (o : OwnerRec) (u : State) (codes : List Nat), s.takes k = true →
    k.body = .paramResend r →
    s.kndCtx k.bucket = some c → s.ownerRec c.p k.bucket = some o → s.isOwner c = true → s.engineRuns o = true →
    (s.recov c.p).migration = none →
    (∀ m ∈ s.layersOf c.p c.b.bid, s.paramWordOk m.layer 0 k.step = true ∧ s.paramWordOk m.layer 1 k.step = true) →
    State.readMaster { s with inbox := s.inbox.erase k } c.p o (k.step.toNat % 2) (bktElems c.b) = (u, some codes) →
    ∃ t x, Does (.paramResend k) s t ∧ x ∈ t.lnk.latest ∧ x.body = .paramEnd 0 (bucketTiles (s.layersOf c.p c.b.bid)).length ∧
      x.dst = r ∧ x.bucket = k.bucket ∧ x.step = k.step) ∧
  (∀ (s : State) (k : Packet), s.takes k = false →
    Does (.adopted k) s s ∧ Does (.commitWord k) s s ∧ Does (.clear k) s s ∧ Does (.paramResend k) s s)

/-! ## Links -/

/-- A trained port sends LINK_ID and is up; one in standby stays there (R233). A peer that R232 predicts is recorded, another
makes the port miswired, which hands its packets back and carries none, and a port that left use in place resumes after its LINK_ID (R234, R349). Host order retrains a port, with
LINK_STANDBY where it was up, or takes it down until a retrain; a peer's training brings back a port that is down but for host order
(R236, R249). -/
def Obligations.PortsTrainAndIdentify : Prop :=
  (∀ (s : State) (n : Port), (s.port n.val).state = .training ∨ (s.port n.val).state = .standby → (s.port n.val).ctl = [] →
    (s.port n.val).pay = [] → (s.port n.val).flits.length < replayMax →
    ∃ t x, Does (.portTrained n) s t ∧ t = { s with lnk := t.lnk, sent := s.sent ++ [.packet n.val x] } ∧
      x.body = .linkId s.ownCoord n.val ∧ x.dcoord = s.predicted n.val ∧
      (t.port n.val).state = (if (s.port n.val).state = .training then .up else .standby) ∧ (t.port n.val).rxSeq = 0 ∧
      (t.port n.val).txSeq = 1 ∧ (t.port n.val).flits = (s.port n.val).flits ++ [{ seq := 0, pkt := x, idx := 0 }]) ∧
  (∀ (s : State) (n : Port) (k : Packet) (c : BitVec 14) (m : Nat), s.hears n.val = true → (s.port n.val).words.head? = some k →
    k.body = .linkId c m → (s.port n.val).state = .up ∨ (s.port n.val).state = .miswired → (s.port n.val).inPlace = false →
    s.rcp.links = none ∨ (c = s.predicted n.val ∧ m = peerPortOf n.val) →
    Does (.linkId n k) s (s.modPort n.val (fun x =>
      { x with words := x.words.tail, peer := c, peerPort := BitVec.ofNat 4 m, state := .up }))) ∧
  (∀ (s : State) (n : Port) (k : Packet) (c : BitVec 14) (m : Nat), s.hears n.val = true → (s.port n.val).words.head? = some k →
    k.body = .linkId c m → s.rcp.links.isSome = true → c ≠ s.predicted n.val ∨ m ≠ peerPortOf n.val →
    (∃ t, Does (.linkId n k) s t ∧ (t.port n.val).state = .miswired ∧ (t.port n.val).peer = c ∧
      (t.port n.val).peerPort = BitVec.ofNat 4 m ∧ (t.port n.val).ctl = [] ∧ (t.port n.val).pay = [] ∧ (t.port n.val).flits = []) ∧
    ((s.port n.val).ctl = [] → (s.port n.val).pay = [] → (s.port n.val).flits = [] → s.lnk.lostAt = [] →
      Does (.linkId n k) s (s.modPort n.val (fun x => { x with
        words := x.words.tail, peer := c, peerPort := BitVec.ofNat 4 m, state := .miswired, content := [], fails := 0 })))) ∧
  (∀ (s : State) (n : Port) (k : Packet) (c : BitVec 14) (m : Nat), (s.port n.val).words.head? = some k →
    k.body = .linkId c m → (s.port n.val).state = .up → (s.port n.val).inPlace = true → c = s.predicted n.val → m = peerPortOf n.val →
    (s.port n.val).ctl = [] → (s.port n.val).pay = [] → (s.port n.val).flits.length < replayMax →
    ∃ t x, Does (.linkId n k) s t ∧ t = { s with lnk := t.lnk, sent := s.sent ++ [.packet n.val x] } ∧ x.body = .linkResume ∧
      (t.port n.val).state = .up ∧ (t.port n.val).inPlace = false ∧ (t.port n.val).peer = c) ∧
  (∀ (s : State) (n : Port) (k : Packet), (s.port n.val).words.head? ≠ some k → Does (.linkId n k) s s) ∧
  (∀ (s : State) (n : Port), (s.port n.val).state = .down ∨ (s.port n.val).state = .failed →
    ((s.port n.val).hostDown = false → ∃ t, Does (.peerTraining n) s t ∧ t = s.modPort n.val (fun x => x.train x.inPlace) ∧
      (t.port n.val).state = .training) ∧
    ((s.port n.val).hostDown = true → Does (.peerTraining n) s s)) ∧
  (∀ (s : State) (c : Cmd) (t : State) (n v : Nat), Writes s c .linkRetrain t (.lnkCtl n) v →
    (t.port n).state = .down ∨ (t.port n).state = .failed ∨ (t.port n).state = .standby ∨ (t.port n).state = .miswired →
    Does (.linkRetrain c) s (done ((t.putReg v (.lnkCtl n)).modPort n (fun x => x.train false)) c)) ∧
  (∀ (s : State) (c : Cmd) (t : State) (n v : Nat), Writes s c .linkRetrain t (.lnkCtl n) v → (t.port n).state = .up →
    (t.port n).ctl = [] → (t.port n).flits.length < replayMax →
    ∃ u x, Does (.linkRetrain c) s (done u c) ∧ (u.port n).state = .training ∧ (u.port n).inPlace = true ∧ (u.port n).ctl = [] ∧
      (u.port n).pay = [] ∧ (u.port n).flits = [] ∧ u.lnk.gen = t.lnk.gen + 1 ∧ .packet n x ∈ u.sent ∧ x.body = .linkStandby) ∧
  (∀ (s : State) (c : Cmd) (t : State) (n v : Nat), Writes s c .linkTakeDown t (.lnkCtl n) v → (t.port n).state = .up →
    ∃ u, Does (.linkTakeDown c) s (done u c) ∧ (u.port n).state = .down ∧ (u.port n).hostDown = true ∧ u.lnk.gen = t.lnk.gen + 1) ∧
  (∀ (s : State) (c : Cmd) (t : State) (n v : Nat), Writes s c .linkTakeDown t (.lnkCtl n) v →
    (t.port n).state = .down ∨ (t.port n).state = .failed →
    Does (.linkTakeDown c) s (done ((t.putReg v (.lnkCtl n)).modPort n (fun x => { x with hostDown := true })) c))

/-- A flit that fails its check asks for a resend of everything after the last one in sequence; one in sequence is
acknowledged and counted, and the packets that its content completes have arrived; a duplicate is acknowledged again and changes
nothing (R235, R236). Corrected and uncorrectable codewords count (R249). ACK takes the flits up to the outstanding one that it names off the replay buffer,
and a request sends the rest again. A port that goes down or into standby hands its packets back, a standby port returns to use
with LINK_RESUME (R236, R241, R349), and a neighbour's FENCED raises PEER_FENCED with its coordinate (R260). A port that goes
down for one of R236's reasons is named in LINK_DOWN and raises the route generation (R242). -/
def Obligations.FlitsAreCheckedAndPortsLeaveUse : Prop :=
  (∀ (s : State) (n : Port) (b : List Byte) (r : List CtrlRead), s.hears n.val = false → ∀ f, Does (.flit n b f r) s s) ∧
  (∀ (s : State) (n : Port) (b : List Byte) (r : List CtrlRead), s.hears n.val = true → ∃ t, Does (.flit n b none r) s t ∧
    t = { s with lnk := t.lnk, sent := s.sent ++ [.flitAck n.val 2 ((s.port n.val).rxSeq - 1)] } ∧
    (t.port n.val).fecUnc = satAdd (s.port n.val).fecUnc 1 ∧ (t.port n.val).rxSeq = (s.port n.val).rxSeq ∧
    (t.port n.val).flits = (s.port n.val).flits ∧ (t.port n.val).arrived = (s.port n.val).arrived) ∧
  (∀ (s : State) (n : Port) (b : List Byte) (c : Nat) (r : List CtrlRead), s.hears n.val = true → (flitOf b).crcOk = false →
    Does (.flit n b (some c) r) s { s.modPort n.val (fun p => { p with fecCor := satAdd p.fecCor c }) with
      sent := s.sent ++ [.flitAck n.val 2 ((s.port n.val).rxSeq - 1)] }) ∧
  (∀ (s : State) (n : Port) (b : List Byte) (c : Nat) (r : List CtrlRead), s.hears n.val = true → (flitOf b).crcOk = true →
    (flitOf b).akind = 0 → (flitOf b).type = 2 → (flitOf b).fseq = (s.port n.val).rxSeq →
    Does (.flit n b (some c) r) s { (s.modPort n.val (fun p => { p with
        fecCor := satAdd p.fecCor c, rxSeq := p.rxSeq + 1, arrived := p.arrived ++ unpackedCtl r (flitOf b).content })) with
      sent := s.sent ++ [.flitAck n.val 1 (flitOf b).fseq] }) ∧
  (∀ (s : State) (n : Port) (b : List Byte) (c : Nat) (r : List CtrlRead) (x : List Packet × List Byte), s.hears n.val = true →
    (flitOf b).crcOk = true → (flitOf b).akind = 0 → (flitOf b).type = 1 → (flitOf b).fseq = (s.port n.val).rxSeq →
    x = unpacked 64 ((s.port n.val).content ++ (flitOf b).content) →
    Does (.flit n b (some c) r) s { (s.modPort n.val (fun p => { p with
        fecCor := satAdd p.fecCor c, rxSeq := p.rxSeq + 1, content := x.2, arrived := p.arrived ++ x.1 })) with
      sent := s.sent ++ [.flitAck n.val 1 (flitOf b).fseq] }) ∧
  (∀ (s : State) (n : Port) (b : List Byte) (c : Nat) (r : List CtrlRead), s.hears n.val = true → (flitOf b).crcOk = true →
    (flitOf b).akind = 0 → (flitOf b).type = 1 ∨ (flitOf b).type = 2 → (flitOf b).fseq ≠ (s.port n.val).rxSeq →
    Does (.flit n b (some c) r) s { s.modPort n.val (fun p => { p with fecCor := satAdd p.fecCor c }) with
      sent := s.sent ++ [.flitAck n.val (if newer (s.port n.val).rxSeq (flitOf b).fseq then 1 else 2) ((s.port n.val).rxSeq - 1)] }) ∧
  (∀ (s : State) (n : Port) (b : List Byte) (c : Nat) (r : List CtrlRead), s.hears n.val = true → (flitOf b).crcOk = true →
    (flitOf b).akind = 1 → (flitOf b).type = 0 → (s.port n.val).ctl = [] → (s.port n.val).pay = [] →
    ∃ t, Does (.flit n b (some c) r) s t ∧ t = { s with lnk := t.lnk } ∧
      (∀ i, (s.port n.val).flits.findIdx? (fun e => e.seq == (flitOf b).ack) = some i →
        (t.port n.val).flits = (s.port n.val).flits.drop (i + 1) ∧ (t.port n.val).fails = 0) ∧
      ((s.port n.val).flits.findIdx? (fun e => e.seq == (flitOf b).ack) = none → (t.port n.val).flits = (s.port n.val).flits) ∧
      (t.port n.val).rxSeq = (s.port n.val).rxSeq) ∧
  (∀ (s : State) (n : Port) (b : List Byte) (c m : Nat) (r : List CtrlRead) (l : List Flit), s.hears n.val = true →
    (flitOf b).crcOk = true → (flitOf b).akind = 2 → (flitOf b).type = 0 → (s.port n.val).ctl = [] → (s.port n.val).pay = [] →
    ((∃ i, (s.port n.val).flits.findIdx? (fun e => e.seq == (flitOf b).ack) = some i ∧
        l = (s.port n.val).flits.drop (i + 1) ∧ m = 0) ∨
      ((s.port n.val).flits.findIdx? (fun e => e.seq == (flitOf b).ack) = none ∧ l = (s.port n.val).flits ∧
        m = (s.port n.val).fails)) →
    ∃ t, Does (.flit n b (some c) r) s t ∧ t = { s with lnk := t.lnk, sent := s.sent ++ [.flitResend n.val l.length] } ∧
      (t.port n.val).flits = l ∧ (t.port n.val).replay = satAdd (s.port n.val).replay l.length ∧
      (t.port n.val).fails = m + 1) ∧
  (∀ (s : State) (n : Port) (y : DownReason), (s.port n.val).state = .up ∨ (s.port n.val).state = .miswired →
    (s.port n.val).downFor y = true → s.isOn 78 = true → s.qrs.evBuf.length < evBufMax →
    ∃ t x, Does (.linkDown n y) s t ∧ (t.port n.val).state = .down ∧ (t.port n.val).ctl = [] ∧ (t.port n.val).pay = [] ∧
      (t.port n.val).flits = [] ∧ t.lnk.gen = s.lnk.gen + 1 ∧ x ∈ t.qrs.evBuf ∧ x.code = .linkDown ∧ x.payload = [(n.val : Int)]) ∧
  (∀ (s : State) (n : Port) (y : DownReason), (s.port n.val).state = .standby ∨ (s.port n.val).downFor y = false →
    Does (.linkDown n y) s s) ∧
  (∀ (s : State) (n : Port), (s.port n.val).downFor .laneLock = true ∧
    ((s.port n.val).downFor .resends = true ↔ 16 < (s.port n.val).fails)) ∧
  (∀ (s : State) (n : Port) (k : Packet), (s.port n.val).words.head? = some k → k.body = .linkStandby → (s.port n.val).state = .up →
    (s.port n.val).ctl = [] → (s.port n.val).pay = [] → (s.port n.val).flits = [] → s.lnk.lostAt = [] →
    Does (.linkStandby n) s
      (s.modPort n.val (fun p => { p with words := p.words.tail, state := .standby, content := [], fails := 0 }))) ∧
  (∀ (s : State) (n : Port) (k : Packet), (s.port n.val).words.head? = some k → k.body = .linkResume →
    (s.port n.val).state = .standby →
    Does (.linkResume n) s (s.modPort n.val (fun p => { p with words := p.words.tail, state := .up, kept := false }))) ∧
  (∀ (s : State) (n : Port) (k : Packet) (c : BitVec 14), (s.port n.val).words.head? = some k → k.body = .fenced c →
    s.hears n.val = true → s.isOn 78 = true → s.qrs.evBuf.length < evBufMax →
    ∃ t x, Does (.fenced n k) s t ∧ t = { s with lnk := t.lnk, hkp := t.hkp, qrs := t.qrs } ∧ t.qrs.evBuf = s.qrs.evBuf ++ [x] ∧
      (t.port n.val).words = (s.port n.val).words.tail ∧
      x.code = .peerFenced ∧ x.src = 62 + n.val ∧ x.payload = [(c.toNat : Int)]) ∧
  (∀ (s : State) (n : Port) (k : Packet), (s.port n.val).words = [] →
    Does (.linkStandby n) s s ∧ Does (.linkResume n) s s ∧ Does (.fenced n k) s s)

/-- A packet at its coordinate is accepted where its epoch is the entry's and its number is newer, and its entry moves on; a
stale one or one with no entry is discarded and counted (R245). One that goes on leaves on the port of its first differing
dimension, the short way round, or on the detour with its bit set where that port is down; one with no way left is counted, and the
partitions that have no route left fault (R240, R241, R91). A control word that waits behind payload is taken before it (R17). A port word waits at its port, a control word whose CRC-64 fails is
discarded and counted (R18, R239, R248), and so is a packet with a reserved bit set or on a port that its kind may not use (R238). -/
def Obligations.PacketsAreRoutedAndAccepted : Prop :=
  (∀ (s : State) (n : Port) (k : Packet) (e : SeqEnt), (s.port n.val).state = .up → (s.port n.val).arrived.head? = some k →
    s.lnk.lostAt = [] → k.kind = bodyCode k.body → k.rsvOk = true →
    kindUses k n.val = true → portWord k = false → (∀ a b c d f g, k.body ≠ .fence a b c d f g) → k.crcOk = true →
    s.hop (some n.val) k.dcoord k.detour = .deliver → k.dst = s.lnk.rank → s.dev.fenced = false →
    s.seqEnt (seqKey k.src k.stream) = some e → e.pend = none → k.epoch = e.epoch →
    (newer k.seq e.last = true → ∃ t, Does (.packet n k) s t ∧ t = { s with lnk := t.lnk, inbox := s.inbox ++ [k] } ∧
      t.seqEnt (seqKey k.src k.stream) = some { e with last := k.seq } ∧ t.lnk.disc = s.lnk.disc ∧
      (t.port n.val).arrived = (s.port n.val).arrived.tail) ∧
    (newer k.seq e.last = false → Does (.packet n k) s
      ((s.modPort n.val (fun p => { p with arrived := p.arrived.tail })).modDisc (fun d => { d with stale := satAdd d.stale 1 })))) ∧
  (∀ (s : State) (n : Port) (k : Packet), (s.port n.val).state = .up → (s.port n.val).arrived.head? = some k → s.lnk.lostAt = [] →
    k.kind = bodyCode k.body → k.rsvOk = true →
    kindUses k n.val = true → portWord k = false → (∀ a b c d f g, k.body ≠ .fence a b c d f g) → k.crcOk = true →
    s.hop (some n.val) k.dcoord k.detour = .deliver → k.dst = s.lnk.rank → s.dev.fenced = false →
    s.seqEnt (seqKey k.src k.stream) = none →
    Does (.packet n k) s
      ((s.modPort n.val (fun p => { p with arrived := p.arrived.tail })).modDisc (fun d => { d with noent := satAdd d.noent 1 }))) ∧
  (∀ (s : State) (n : Port) (k : Packet) (m i : Nat), (s.port n.val).state = .up → (s.port n.val).arrived.head? = some k →
    s.lnk.lostAt = [] → k.kind = bodyCode k.body → k.rsvOk = true →
    kindUses k n.val = true → portWord k = false → s.hop (some n.val) k.dcoord k.detour = .out m (some i) →
    ((s.port m).state = .up → (s.port m).ctl = [] → (s.port m).pay = [] →
      (s.port m).flits.length + packetFlits k ≤ replayMax →
      ∃ t, Does (.packet n k) s t ∧ t = { s with lnk := t.lnk, sent := s.sent ++ [.packet m k] } ∧
        (t.port m).flits = (s.port m).flits ++ flitsOf k (s.port m).txSeq ∧
        (t.port m).txSeq = (s.port m).txSeq + BitVec.ofNat 12 (packetFlits k)) ∧
    ((s.port m).state ≠ .up → (s.port (peerPortOf m)).state = .up → k.detour.toNat.testBit i = false →
      (s.port (peerPortOf m)).ctl = [] → (s.port (peerPortOf m)).pay = [] →
      (s.port (peerPortOf m)).flits.length + packetFlits k ≤ replayMax →
      ∃ t x, Does (.packet n k) s t ∧ x = { k with detour := k.detour ||| (1 <<< i : BitVec 4) } ∧
        t = { s with lnk := t.lnk, sent := s.sent ++ [.packet (peerPortOf m) x] }) ∧
    ((s.port m).state ≠ .up → (s.port (peerPortOf m)).state ≠ .up ∨ k.detour.toNat.testBit i = true →
      s.dependents (62 + m) = [] →
      ∃ t, Does (.packet n k) s t ∧ t = { s with lnk := t.lnk, hkp := t.hkp, qrs := t.qrs } ∧
        t.lnk.disc = { s.lnk.disc with unroutable := satAdd s.lnk.disc.unroutable 1 } ∧
        (s.isOn 78 = true → s.qrs.evBuf.length < evBufMax → ∃ x, t.qrs.evBuf = s.qrs.evBuf ++ [x] ∧ x.code = .linkUnroutable ∧
          x.src = 62 + m ∧ x.payload = [(k.dst.toNat : Int)])) ∧
    ((s.port m).state ≠ .up → (s.port (peerPortOf m)).state ≠ .up ∨ k.detour.toNat.testBit i = true → s.rcp.job = none →
      ∃ t, Does (.packet n k) s t ∧ ∀ p ∈ s.dependents (62 + m), (t.part p).state = .faulted)) ∧
  (∀ (s : State) (n : Port) (k : Packet), s.hears n.val = true → (s.port n.val).arrived.head? = some k → s.lnk.lostAt = [] →
    k.kind = 0x3 → k.kind = bodyCode k.body → k.rsvOk = true → portWord k = true →
    Does (.packet n k) s (if k.crcOk then
        s.modPort n.val (fun p => { p with arrived := p.arrived.tail, words := p.words ++ [k] })
      else (s.modPort n.val (fun p => { p with arrived := p.arrived.tail })).modDisc (fun d => { d with crc64 := satAdd d.crc64 1 }))) ∧
  (∀ (s : State) (n : Port) (k : Packet), (s.port n.val).state = .up → (s.port n.val).arrived.head? = some k → s.lnk.lostAt = [] →
    k.kind ≠ bodyCode k.body ∨ k.rsvOk = false ∨ kindUses k n.val = false →
    Does (.packet n k) s
      ((s.modPort n.val (fun p => { p with arrived := p.arrived.tail })).modDisc (fun d => { d with noroute := satAdd d.noroute 1 }))) ∧
  (∀ (s : State) (n : Port) (k : Packet), (s.port n.val).state = .miswired → (s.port n.val).arrived.head? = some k →
    s.lnk.lostAt = [] → portWord k = false → Does (.packet n k) s (s.modPort n.val (fun p => { p with arrived := p.arrived.tail }))) ∧
  (∀ (s : State) (n : Port) (k : Packet) (l r : List Packet), s.hears n.val = true → (s.port n.val).arrived = l ++ k :: r →
    (∀ x ∈ l, x.kind ≠ 0x3) → s.lnk.lostAt = [] → k.kind = 0x3 → k.kind = bodyCode k.body → k.rsvOk = true → portWord k = true →
    k.crcOk = true →
    Does (.packet n k) s (s.modPort n.val (fun p => { p with arrived := l ++ r, words := p.words ++ [k] }))) ∧
  (∀ (s : State) (n : Port) (k : Packet), s.hears n.val = false ∨ (s.port n.val).offers k = false → Does (.packet n k) s s)

/-- A FENCE makes the entry of a pair that has none; a newer one waits until LIMIT has come and then takes EPOCH and LASTSEQ
to its own; a drain time that runs out closes it (R246). APPLY puts every staged entry into the routing table at once and
raises the route generation; DISCARD_STAGED drops them; SETRANK gives the device its new rank (R249). -/
def Obligations.FencesMoveEpochsAndRoutesAreStaged : Prop :=
  (∀ (s : State) (k : Packet) (stream old new : BitVec 16) (d : Bool) (limit base : BitVec 32), k.body = .fence stream old new d limit base →
    s.takes k = true → s.seqEnt (seqKey k.src stream) = none → s.lnk.seqs.length < seqMax →
    ∃ t, Does (.fence k) s t ∧ t = { s with inbox := s.inbox.erase k, lnk := t.lnk } ∧
      t.seqEnt (seqKey k.src stream) = some { epoch := new, last := base - 1, pend := none }) ∧
  (∀ (s : State) (k : Packet) (stream old new : BitVec 16) (limit base : BitVec 32) (e : SeqEnt),
    s.takes k = true → k.body = .fence stream old new false limit base → s.seqEnt (seqKey k.src stream) = some e → e.pend = none → new ≠ e.epoch →
    newer new e.epoch = true → e.last ≠ limit → newer e.last limit = false →
    ∃ t, Does (.fence k) s t ∧ t = { s with inbox := s.inbox.erase k, lnk := t.lnk } ∧
      t.seqEnt (seqKey k.src stream) = some { e with pend := some { newEpoch := new, limit := limit, base := base } }) ∧
  (∀ (s : State) (k : Packet) (stream old new : BitVec 16) (d : Bool) (limit base : BitVec 32) (e : SeqEnt),
    s.takes k = true → k.body = .fence stream old new d limit base → s.seqEnt (seqKey k.src stream) = some e → e.pend = none → new ≠ e.epoch →
    newer new e.epoch = true → d = true ∨ e.last = limit ∨ newer e.last limit = true → (∀ n < 9, (s.port n).hold = []) →
    ∃ t, Does (.fence k) s t ∧ t = { s with inbox := s.inbox.erase k, lnk := t.lnk } ∧
      t.seqEnt (seqKey k.src stream) = some { epoch := new, last := base - 1, pend := none }) ∧
  (∀ (s : State) (k : Packet), s.takes k = false → Does (.fence k) s s) ∧
  (∀ (s : State) (src : BitVec 14) (stream : BitVec 16) (e : SeqEnt), s.seqEnt (seqKey src stream) = some e → e.pend = none →
    Does (.drainLimit src stream) s s) ∧
  (∀ (s : State) (src : BitVec 14) (stream : BitVec 16) (e : SeqEnt) (f : PendFence), s.seqEnt (seqKey src stream) = some e →
    e.pend = some f → (∀ n < 9, (s.port n).hold = []) →
    ∃ t, Does (.drainLimit src stream) s t ∧ t = { s with lnk := t.lnk } ∧
      t.seqEnt (seqKey src stream) = some { epoch := f.newEpoch, last := f.base - 1, pend := none }) ∧
  (∀ (s : State) (c : Cmd) (t : State) (v : Nat), Writes s c .apply t .lnkRtCmd v → (∀ p < 8, (t.recov p).migration = none) →
    ∃ u, Does (.apply c) s (done u c) ∧ u.lnk.staged = [] ∧ u.lnk.gen = t.lnk.gen + 1 ∧
      u.lnk.table = t.lnk.staged.foldl (fun m e => tset m rtEmpty e.1 e.2) t.lnk.table ∧ (t.rcp.job = none → u.mem = t.mem)) ∧
  (∀ (s : State) (c : Cmd) (t : State) (v : Nat), Writes s c .discardStaged t .lnkRtCmd v →
    ∃ u, Does (.discardStaged c) s (done u c) ∧ u = { t with lnk := u.lnk } ∧ u.lnk.staged = [] ∧ u.lnk.table = t.lnk.table ∧
      u.lnk.gen = t.lnk.gen ∧ u.lnk.rank = t.lnk.rank) ∧
  (∀ (s : State) (c : Cmd) (t : State) (v : Nat), Writes s c .setrank t .lnkRtCmd v →
    ∃ u, Does (.setrank c) s (done u c) ∧ u = { t with lnk := u.lnk } ∧ u.lnk.rank = BitVec.ofNat 14 (fieldOf v 29 16) ∧
      u.lnk.table = t.lnk.table ∧ u.lnk.staged = t.lnk.staged)

/-! ## HBM -/

/-- A sector that reads clean goes to its requester and changes nothing; a corrected symbol counts in CE and is logged, and the data goes
on; an uncorrectable sector counts in UE, is logged, raises MEM_UE and gives its requester a bus error, as a failed stack and a retired
page do (R206, R211 to R214). No read changes memory. A write stores its enabled bytes and no others; one
that covers its sector makes it sound, and a partial one waits in the merge buffer for its read-modify-write, which poisons
the sector where that read is uncorrectable (R207, R209). -/
def Obligations.SectorsAreReadWrittenAndLogged : Prop :=
  (∀ (s : State) (k : Stack) (sec rid : Nat) (who : Requester), s.isOn (48 + k.val) = true → sec < sectorsPerStack →
    (s.stack k.val).failed = false → (s.stack k.val).isRetired (32 * sec) = false → s.isPoison (sectorOf k.val sec) = false →
    Does (.hbmRead k sec who rid .none) s { s with sent := s.sent ++
      [Out.sector k.val sec who rid 0 ((List.range 32).map (fun i => tget s.mem emptyByte (32 * sectorOf k.val sec + i)))] }) ∧
  (∀ (s : State) (k : Stack) (sec rid y w : Nat) (who : Requester), s.isOn (48 + k.val) = true → sec < sectorsPerStack →
    (s.stack k.val).failed = false → (s.stack k.val).isRetired (32 * sec) = false → s.isPoison (sectorOf k.val sec) = false →
    (s.stack k.val).mergeMask sec ≠ BitVec.allOnes 32 →
    w = logWord (tget s.hkp.memSeq 0 k.val).toNat s.hkp.count 1 (32 * sec) y (reqCode who) (if who = .hubControl then 0 else rid) →
    ∃ t, Does (.hbmRead k sec who rid (.one y)) s t ∧ t = { s with hbm := t.hbm, hkp := t.hkp, qrs := t.qrs, sent := s.sent ++
        [Out.sector k.val sec who rid 0 ((List.range 32).map (fun i => tget s.mem emptyByte (32 * sectorOf k.val sec + i)))] } ∧
      t.stack k.val = { (s.stack k.val).logged w with ce := satAdd (s.stack k.val).ce 1 } ∧
      tget (t.stack k.val).log 0 (s.stack k.val).head.toNat = BitVec.ofNat 128 w ∧ (∀ j, j ≠ k.val → t.stack j = s.stack j) ∧
      tget t.hkp.memSeq 0 k.val = tget s.hkp.memSeq 0 k.val + 1) ∧
  (∀ (s : State) (k : Stack) (sec rid w n : Nat) (who : Requester), s.isOn (48 + k.val) = true → sec < sectorsPerStack →
    (s.stack k.val).failed = false → (s.stack k.val).isRetired (32 * sec) = false →
    (s.stack k.val).mergeMask sec ≠ BitVec.allOnes 32 → s.isOn 78 = true → s.qrs.evBuf.length < evBufMax →
    w = logWord (tget s.hkp.memSeq 0 k.val).toNat s.hkp.count 2 (32 * sec) 63 (reqCode who) (if who = .hubControl then 0 else rid) →
    ∃ t x, Does (.hbmRead k sec who rid (.many n)) s t ∧ t = { s with
        hbm := t.hbm, hkp := t.hkp, qrs := t.qrs, poison := t.poison, sent := s.sent ++ [.sector k.val sec who rid eUE []] } ∧ t.isPoison (sectorOf k.val sec) = true ∧
      t.stack k.val = { (s.stack k.val).logged w with ue := satAdd (s.stack k.val).ue 1 } ∧
      t.qrs.evBuf = s.qrs.evBuf ++ [x] ∧ x.code = .memUe ∧ x.src = 48 + k.val ∧ x.payload = [(w : Int)]) ∧
  (∀ (s : State) (k : Stack) (sec rid w : Nat) (who : Requester) (e : ErrPat), s.isOn (48 + k.val) = true → sec < sectorsPerStack →
    (s.stack k.val).failed = false → (s.stack k.val).isRetired (32 * sec) = true →
    w = logWord (tget s.hkp.memSeq 0 k.val).toNat s.hkp.count 7 (32 * sec) 63 (reqCode who) (if who = .hubControl then 0 else rid) →
    ∃ t, Does (.hbmRead k sec who rid e) s t ∧ t = { s with
        hbm := t.hbm, hkp := t.hkp, sent := s.sent ++ [.sector k.val sec who rid eUnmapped []] } ∧ t.stack k.val = (s.stack k.val).logged w) ∧
  (∀ (s : State) (k : Stack) (sec rid : Nat) (who : Requester) (e : ErrPat), s.isOn (48 + k.val) = true → sec < sectorsPerStack →
    (s.stack k.val).failed = true →
    ∃ t, Does (.hbmRead k sec who rid e) s t ∧ t = { s with
        hbm := t.hbm, hkp := t.hkp, qrs := t.qrs, sent := s.sent ++ [.sector k.val sec who rid eUE []] } ∧ (t.stack k.val).ue = satAdd (s.stack k.val).ue 1) ∧
  (∀ (s : State) (k : Stack) (sec rid : Nat) (who : Requester) (b : List (Option Byte)) (m : BitVec 32),
    s.isOn (48 + k.val) = true → sec < sectorsPerStack → b.length = 32 → (s.stack k.val).failed = false →
    (s.stack k.val).isRetired (32 * sec) = false → m = (s.stack k.val).mergeMask sec ||| enableMask b →
    (s.stack k.val).merge.any (fun e => e.sector == sec) = true ∨
      ((s.stack k.val).mergeOf (hbmCell (32 * sec)).1).length < mergeMax →
    ∃ t, Does (.hbmWrite k sec who rid b) s t ∧ t = { s with mem := t.mem, hbm := t.hbm, poison := t.poison } ∧
      (∀ i < 32, tget t.mem emptyByte (32 * sectorOf k.val sec + i) =
        (b.getD i none).getD (tget s.mem emptyByte (32 * sectorOf k.val sec + i))) ∧
      (∀ x, x < 32 * sectorOf k.val sec ∨ 32 * sectorOf k.val sec + 32 ≤ x → tget t.mem emptyByte x = tget s.mem emptyByte x) ∧
      (m = BitVec.allOnes 32 → t.isPoison (sectorOf k.val sec) = false ∧ (t.stack k.val).mergeMask sec = 0) ∧
      (m ≠ BitVec.allOnes 32 → t.poison = s.poison ∧ (t.stack k.val).mergeMask sec = m) ∧
      ∀ j, j ≠ k.val → t.stack j = s.stack j) ∧
  (∀ (s : State) (k : Stack) (sec rid : Nat) (who : Requester) (b : List (Option Byte)), s.isOn (48 + k.val) = true →
    sec < sectorsPerStack → b.length = 32 → (s.stack k.val).failed = true ∨ (s.stack k.val).isRetired (32 * sec) = true →
    ∃ t, Does (.hbmWrite k sec who rid b) s t ∧ t = { s with hbm := t.hbm, hkp := t.hkp, qrs := t.qrs, sent := s.sent ++
      [.sector k.val sec who rid (if (s.stack k.val).failed then eUE else eUnmapped) []] }) ∧
  (∀ (s : State) (k : Stack) (sec rid : Nat) (who : Requester) (e : ErrPat) (b : List (Option Byte)), s.isOn (48 + k.val) = false →
    sec < sectorsPerStack → b.length = 32 →
    Does (.hbmRead k sec who rid e) s { s with sent := s.sent ++ [.sector k.val sec who rid eIslandOff []] } ∧
    Does (.hbmWrite k sec who rid b) s { s with sent := s.sent ++ [.sector k.val sec who rid eIslandOff []] }) ∧
  (∀ (s : State) (k : Stack) (sec : Nat) (e : MergeEnt), (s.stack k.val).merge.find? (fun x => x.sector == sec) = some e →
    (s.stack k.val).failed = false → s.isPoison (sectorOf k.val sec) = false →
    (∃ t, Does (.readModifyWrite k sec .none) s t ∧ t = { s with hbm := t.hbm } ∧ (t.stack k.val).mergeMask sec = 0) ∧
    (∀ n, ∃ t, Does (.readModifyWrite k sec (.many n)) s t ∧ t.mem = s.mem ∧ t.isPoison (sectorOf k.val sec) = true ∧
      (t.stack k.val).mergeMask sec = 0 ∧ (t.stack k.val).ue = satAdd (s.stack k.val).ue 1)) ∧
  (∀ (s : State) (k : Stack) (sec : Nat) (e : ErrPat), (s.stack k.val).merge.find? (fun x => x.sector == sec) = none →
    Does (.readModifyWrite k sec e) s s)

/-- Patrol scrub reads the sector at SCRUBPOS in rung R0 and moves on, around at the last; a correctable one counts in CE,
an uncorrectable one stays so for its next reader,
and a stack that has failed is not scrubbed (R210). STACK_FAIL declares a stack failed, raises MEM_STACK_FAIL and faults the partitions
that depend on it (R212, R91). The
list of retired rows takes an entry while it has room and sets FULL past it, refuses a row above 24,575, is cleared and armed
(R214, R215, R218). -/
def Obligations.StacksAreScrubbedAndRetired : Prop :=
  (∀ (s : State) (k : Stack), s.isOn (48 + k.val) = true → s.hkp.rung = 0 → (s.stack k.val).period ≠ 0 →
    (s.stack k.val).failed = false → s.isPoison (sectorOf k.val (s.stack k.val).scrubPos.toNat) = false →
    ∃ t, Does (.patrolScrub k .none) s t ∧ t = { s with hbm := t.hbm } ∧
      t.stack k.val = { s.stack k.val with scrubPos := nextScrub (s.stack k.val).scrubPos } ∧ ∀ j, j ≠ k.val → t.stack j = s.stack j) ∧
  (∀ (s : State) (k : Stack) (y : Nat), s.isOn (48 + k.val) = true → s.hkp.rung = 0 → (s.stack k.val).period ≠ 0 →
    (s.stack k.val).failed = false → s.isPoison (sectorOf k.val (s.stack k.val).scrubPos.toNat) = false →
    (s.stack k.val).isRetired (32 * (s.stack k.val).scrubPos.toNat) = false →
    ∃ t, Does (.patrolScrub k (.one y)) s t ∧ t.mem = s.mem ∧ (t.stack k.val).scrubPos = nextScrub (s.stack k.val).scrubPos ∧
      (t.stack k.val).ce = satAdd (s.stack k.val).ce 1) ∧
  (∀ (s : State) (k : Stack) (y : Nat), s.isOn (48 + k.val) = true → s.hkp.rung = 0 → (s.stack k.val).period ≠ 0 →
    (s.stack k.val).failed = false → (s.stack k.val).isRetired (32 * (s.stack k.val).scrubPos.toNat) = false →
    ∃ t, Does (.patrolScrub k (.many y)) s t ∧ t.mem = s.mem ∧ (t.stack k.val).scrubPos = nextScrub (s.stack k.val).scrubPos ∧
      (t.stack k.val).ue = satAdd (s.stack k.val).ue 1 ∧ t.isPoison (sectorOf k.val (s.stack k.val).scrubPos.toNat) = true) ∧
  (∀ (s : State) (k : Stack) (e : ErrPat), (s.stack k.val).failed = true ∨ (s.stack k.val).period = 0 ∨ s.hkp.rung ≠ 0 →
    Does (.patrolScrub k e) s s) ∧
  (∀ (s : State) (k : Stack), (s.stack k.val).failed = false → s.isOn 78 = true → s.qrs.evBuf.length < evBufMax →
    ∃ t x, Does (.stackFail k) s t ∧ (t.stack k.val).failed = true ∧ x ∈ t.qrs.evBuf ∧ x.code = .memStackFail ∧
      x.payload = [(k.val : Int)] ∧ (s.rcp.job = none → ∀ p ∈ s.dependents (48 + k.val), (t.part p).state = .faulted)) ∧
  (∀ (s : State) (k : Stack), (s.stack k.val).failed = true → Does (.stackFail k) s s) ∧
  (∀ (s : State) (c : Cmd) (t : State) (n v : Nat), Writes s c .addEntry t (.memRetire n) v →
    (retireEntry v).bank = true ∨ (retireEntry v).row.toNat < 24576 → (t.stack n).retire.length < retireMax →
    Does (.addEntry c) s (done (t.modStack n (fun k => { k with retire := k.retire ++ [retireEntry v] })) c)) ∧
  (∀ (s : State) (c : Cmd) (t : State) (n v : Nat), Writes s c .addEntry t (.memRetire n) v →
    (retireEntry v).bank = true ∨ (retireEntry v).row.toNat < 24576 → retireMax ≤ (t.stack n).retire.length →
    Does (.addEntry c) s (done (t.modStack n (fun k => { k with full := true })) c)) ∧
  (∀ (s : State) (c : Cmd) (t : State) (n v : Nat), Writes s c .addEntry t (.memRetire n) v → (retireEntry v).bank = false →
    24576 ≤ (retireEntry v).row.toNat → Does (.addEntry c) s (t.complete c.q.val c.r.htag stRejected dBadValue 0)) ∧
  (∀ (s : State) (c : Cmd) (t : State) (n v : Nat), Writes s c .clearList t (.memRetire n) v →
    Does (.clearList c) s (done (t.modStack n (fun k => { k with retire := [], full := false })) c)) ∧
  (∀ (s : State) (c : Cmd) (t : State) (n v : Nat), Writes s c .setArmed t (.memRetire n) v →
    Does (.setArmed c) s (done (t.modStack n (fun k => { k with armed := true })) c))

/-! ## The Cellar -/

/-- A port trains on host order and is up once it has found a link of x8 or x16 at 32 or 64 GT/s, with what stands behind it
(R219, R224). A port that goes down loses the decoders that target it and raises CXL_DOWN, and the first error is kept (R228,
R230). A write that completes is in the expander and acknowledges its burst, a read's bytes go into the burst that asked for
them, and poison gives that line UE (R225, R227). A request waits while an earlier one of its port names the same 64-byte
line; one that times out declares its expander failed and completes with UE, and so does a fatal error of an expander; an IDE check that
fails takes the port down where the recipe asks for IDE (R219, R228). An operation's write that completes leaves its requests (06 R118). -/
def Obligations.CellarPortsComeAndRequestsComplete : Prop :=
  (∀ (s : State) (c : Cmd) (t : State) (n v : Nat), Writes s c .cxlRetrain t (.cxlCtl n) v →
    Does (.cxlRetrain c) s (done ((t.putReg v (.cxlCtl n)).modCxlPort n (fun x => { x with state := 1, retrain := true })) c)) ∧
  (∀ (s : State) (c : Cmd) (t : State) (n v : Nat), Writes s c .cxlTakeDown t (.cxlCtl n) v → (t.cxlPort n).state ≠ 0 →
    ∃ u, Does (.cxlTakeDown c) s (done u c) ∧ (u.cxlPort n).state = 0 ∧
      ∀ d ∈ t.cxl.decoders, t.decTargets d n none = true → d.index ∈ u.cxl.lost) ∧
  (∀ (s : State) (n : CxlPort) (f : CxlFound), (s.cxlPort n.val).state = 1 → linkFits f = true → f.switch = false →
    f.exps ≠ [] ∨ s.cxl.decoders = [] →
    ∃ t, Does (.cxlEnumeration n (some f)) s t ∧ t = { s with cxl := t.cxl } ∧ (t.cxlPort n.val).state = 2 ∧
      (t.cxlPort n.val).lanes = f.lanes ∧ (t.cxlPort n.val).rate = f.rate ∧
      (t.cxlPort n.val).exps = (f.exps.take 1).map (fun e => { dsp := 0, serial := e.serial, capG := e.capG, failed := false }) ∧
      ∀ m, m ≠ n.val → t.cxlPort m = s.cxlPort m) ∧
  (∀ (s : State) (n : CxlPort), (s.cxlPort n.val).state = 1 → s.cxl.decoders = [] → (s.cxlPort n.val).reqs = [] →
    (s.cxlPort n.val).wait = [] → (s.cxlPort n.val).retrain = false →
    Does (.cxlEnumeration n none) s (s.modCxlPort n.val (fun x => { x with state := 0, lanes := 0, rate := 0, retrain := false, exps := [] }))) ∧
  (∀ (s : State) (n : CxlPort), (s.cxlPort n.val).state = 1 → (s.cxlPort n.val).retrain = true → (s.cxlPort n.val).errValid = false →
    ∃ t, Does (.cxlEnumeration n none) s t ∧ (t.cxlPort n.val).state = 0 ∧ (t.cxlPort n.val).errValid = true ∧
      (t.cxlPort n.val).errKind = 3 ∧ ∀ y ∈ s.cxl.decoders, s.decTargets y n.val none = true → y.index ∈ t.cxl.lost) ∧
  (∀ (s : State) (n : CxlPort) (f : Option CxlFound), (s.cxlPort n.val).state ≠ 1 → Does (.cxlEnumeration n f) s s) ∧
  (∀ (s : State) (n : CxlPort) (d : Fin 8), (s.cxlPort n.val).state = 2 → (s.cxlPort n.val).errValid = false →
    (∀ w, (s.window w).change = none) → s.isOn 78 = true → s.qrs.evBuf.length < evBufMax →
    ∃ t x, Does (.cxlLinkDown n d .linkDown) s t ∧ (t.cxlPort n.val).state = 0 ∧ (t.cxlPort n.val).errValid = true ∧
      (t.cxlPort n.val).reqs = [] ∧ (t.cxlPort n.val).wait = [] ∧
      (t.cxlPort n.val).errKind = 3 ∧ x ∈ t.qrs.evBuf ∧ x.code = .cxlDown ∧ x.payload = [(n.val : Int), (d.val : Int)] ∧
      ∀ y ∈ s.cxl.decoders, s.decTargets y n.val none = true → y.index ∈ t.cxl.lost) ∧
  (∀ (s : State) (n : CxlPort) (d : Fin 8), (s.cxlPort n.val).state = 2 →
    ((s.cxl.ide.getD n.val false) = false → Does (.cxlLinkDown n d .ide) s s) ∧
    ((s.cxl.ide.getD n.val false) = true → (s.cxlPort n.val).errValid = false → ∃ t, Does (.cxlLinkDown n d .ide) s t ∧
      (t.cxlPort n.val).state = 0 ∧ (t.cxlPort n.val).errKind = 5)) ∧
  (∀ (s : State) (n : CxlPort) (d : Fin 8) (e : Exp), (s.cxlPort n.val).state = 2 → (s.cxlPort n.val).errValid = false →
    e ∈ (s.cxlPort n.val).exps → e.dsp = (s.cxlPort n.val).dsp d.val → e.failed = false →
    ∃ t, Does (.cxlLinkDown n d .expFatal) s t ∧ (t.cxlPort n.val).state = 2 ∧ (t.cxlPort n.val).errKind = 4 ∧
      ∀ x ∈ (t.cxlPort n.val).exps, x.dsp = e.dsp → x.failed = true) ∧
  (∀ (s : State) (n : CxlPort) (i w line : Nat) (bid : BitVec 16) (r : CxlReq) (b : Burst), s.dueReq n.val i = some r →
    (s.cxlPort n.val).wait = [] → r.isWrite = true → r.owner = .peel w bid line → r.data.length = 64 → (∀ j < 64, s.place (r.addr + j) = .cellar) →
    (s.window w).bursts = [b] → (s.window w).change = none → b.bid = bid → b.waiting = [(line, i)] → b.isRead = false →
    ∃ t l, Does (.ndr n i) s t ∧ (t.cxlPort n.val).reqs = (s.cxlPort n.val).reqs.filter (fun x => x.id != i) ∧
      (∀ j < 64, t.byteAt (r.addr + j) = r.data.getD j 0) ∧
      (∀ x, x < r.addr ∨ r.addr + 64 ≤ x → tget t.mem emptyByte x = tget s.mem emptyByte x) ∧
      t.sent = s.sent ++ .burst w bid b.blen b.status b.fcode b.mask b.data :: l ∧ (∀ x ∈ l, ∃ m, x = .credit (16 + w) m) ∧
      (t.window w).bursts = []) ∧
  (∀ (s : State) (n : CxlPort) (i k j : Nat) (r : CxlReq), s.dueReq n.val i = some r → (s.cxlPort n.val).wait = [] →
    r.isWrite = true → r.owner = .op k j →
    ∃ t, Does (.ndr n i) s t ∧ (t.cxlPort n.val).reqs = (s.cxlPort n.val).reqs.filter (fun x => x.id != i) ∧
      t.mem = (s.setBytes r.addr r.data).mem ∧
      t.slot k j = { s.slot k j with older := (s.slot k j).older.map (fun o => o.reqDone i 0) } ∧ t.sent = s.sent) ∧
  (∀ (s : State) (n : CxlPort) (i w line : Nat) (bid : BitVec 16) (r : CxlReq) (b : Burst), s.dueReq n.val i = some r →
    (s.cxlPort n.val).wait = [] → r.isWrite = false → r.data = [] → r.owner = .peel w bid line → (s.window w).bursts = [b] →
    (s.window w).change = none → b.bid = bid →
    b.waiting = [(line, i)] → b.isRead = true → 0 < tget s.qrs.readCredits 0 w →
    ∃ t l, Does (.drs n i false) s t ∧ t.mem = s.mem ∧
      (t.cxlPort n.val).reqs = (s.cxlPort n.val).reqs.filter (fun x => x.id != i) ∧
      t.sent = s.sent ++ .burst w bid b.blen b.status b.fcode b.mask
        (b.data.take (64 * line) ++ s.readBytes r.addr 64 ++ b.data.drop (64 * line + 64)) :: l ∧
      ∀ x ∈ l, ∃ m, x = .credit (16 + w) m) ∧
  (∀ (s : State) (n : CxlPort) (i w line : Nat) (bid : BitVec 16) (r : CxlReq) (b : Burst), s.dueReq n.val i = some r →
    r.isWrite = false → r.owner = .peel w bid line → (s.window w).bursts = [b] → (s.window w).change = none → b.bid = bid → b.waiting = [(line, i)] →
    b.isRead = true → b.fcode = 0 → 0 < tget s.qrs.readCredits 0 w →
    (s.cxlPort n.val).errValid = false →
    ∃ t l, Does (.drs n i true) s t ∧ t.mem = s.mem ∧ t.sent = s.sent ++ .burst w bid b.blen 1 eUE
      (b.mask ||| (1 <<< line : BitVec 64)) b.data :: l ∧ (∀ x ∈ l, ∃ m, x = .credit (16 + w) m) ∧
      (t.cxlPort n.val).errKind = 1) ∧
  (∀ (s : State) (n : CxlPort) (i : Nat), s.dueReq n.val i = none → Does (.ndr n i) s s ∧ Does (.drs n i false) s s) ∧
  (∀ (s : State) (n : CxlPort) (i : Nat) (r : CxlReq) (d : Option Nat), (s.cxlPort n.val).reqs = [r] →
    (s.cxlPort n.val).wait = [] → r.id = i → (s.cxlPort n.val).errValid = false → (∀ w, (s.window w).change = none) →
    ∃ t, Does (.timeout n i d) s t ∧ (t.cxlPort n.val).reqs = [] ∧ (t.cxlPort n.val).errKind = 2 ∧
      ∀ e ∈ (t.cxlPort n.val).exps, e.dsp = r.dsp → e.failed = true) ∧
  (∀ (s : State) (n : CxlPort) (i a : Nat) (d : DecRec), (s.cxlPort n.val).reqs.find? (fun r => r.id == i) = none →
    s.decoderAt a = some d → (decTarget d a).1 = n.val → (s.cxlPort n.val).state = 2 → (s.cxlPort n.val).errValid = false →
    ∃ t, Does (.timeout n i (some a)) s t ∧ (t.cxlPort n.val).errKind = 2 ∧
      ∀ e ∈ (t.cxlPort n.val).exps, e.dsp = (s.cxlPort n.val).dsp (decTarget d a).2 → e.failed = true) ∧
  (∀ (s : State) (n : CxlPort) (i : Nat), (s.cxlPort n.val).reqs.find? (fun r => r.id == i) = none → Does (.timeout n i none) s s)

/-! ## Snapshots -/

/-- SNP_CTL takes K and FULL from a step that has not opened yet, and refuses one that has with STATUS 1 (R275). HOLD and
RELEASE set and clear a ring slot's hold, and a slot that the recipe does not have gives STATUS 2; HOSTACK secures the
snapshot of a step whose manifest is written, and gives STATUS 1 where there is none (R256, R258). The partner's pieces go
into the twin slot of their step and nowhere else, the whole manifest is answered with SNAP_ACK where every shard verifies, and a
stranger's pieces change nothing (R257). SNAP_ACK secures a snapshot that
was taken, and SNAP_NAK frees its ring slot (R258). -/
def Obligations.SnapshotsAreHeldAndTwinned : Prop :=
  (∀ (s : State) (c : Cmd) (t : State) (p v : Nat), Writes s c .snpCtl t (.snpCtl p) v →
    (t.part p).opened (BitVec.ofNat 32 (fieldOf v 63 32)) = true →
    Does (.snpCtlWrite c) s (done (t.modSnap p (fun x => { x with status := 1 })) c)) ∧
  (∀ (s : State) (c : Cmd) (t : State) (p v : Nat), Writes s c .snpCtl t (.snpCtl p) v →
    (t.part p).opened (BitVec.ofNat 32 (fieldOf v 63 32)) = false →
    ∃ u, Does (.snpCtlWrite c) s (done u c) ∧ u = { t with snp := u.snp } ∧ (u.snap p).status = 0 ∧
      (u.snap p).step = BitVec.ofNat 32 (fieldOf v 63 32) ∧
      (∀ n, newer (BitVec.ofNat 32 (fieldOf v 63 32)) n = false → (u.snap p).inForce n = (BitVec.ofNat 16 (fieldOf v 31 16), v.testBit 0)) ∧
      (u.snap p).secured = (t.snap p).secured ∧ (u.snap p).hold = (t.snap p).hold ∧ ∀ q, q ≠ p → u.snap q = t.snap q) ∧
  (∀ (s : State) (c : Cmd) (t : State) (v i : Nat), Writes s c .hostack t .snpCmd v →
    t.slotOf (snpCmdPart v) (snpCmdStep v) = some i → (t.snap (snpCmdPart v)).by_ = 0 → t.isOn 78 = true →
    t.qrs.evBuf.length < evBufMax →
    ∃ u x, Does (.hostack c) s (done u c) ∧ u = { t with rreg := u.rreg, snp := u.snp, hkp := u.hkp, qrs := u.qrs } ∧
      u.rreg.snpCmdStatus = 0 ∧ (u.snap (snpCmdPart v)).secured = snpCmdStep v ∧ (u.snap (snpCmdPart v)).by_ = 2 ∧
      (u.snap (snpCmdPart v)).slot = i ∧ u.qrs.evBuf = t.qrs.evBuf ++ [x] ∧ x.code = .snapSecured ∧
      x.payload = [(snpCmdPart v : Int), ((snpCmdStep v).toNat : Int), (t.lnk.rank.toNat : Int)]) ∧
  (∀ (s : State) (c : Cmd) (t : State) (v : Nat), Writes s c .hostack t .snpCmd v → t.slotOf (snpCmdPart v) (snpCmdStep v) = none →
    ∃ u, Does (.hostack c) s (done u c) ∧ u = { t with rreg := u.rreg } ∧ u.rreg.snpCmdStatus = 1) ∧
  (∀ x ∈ ([(Instr.hold, WriteRow.hold, true), (Instr.ringSlotRelease, .ringRelease, false)] :
      List ((Cmd → Instr) × WriteRow × Bool)), ∀ (s : State) (c : Cmd) (t : State) (v : Nat) (e : Slice) (r : SnapRec),
    Writes s c x.2.1 t .snpCmd v → t.slice (snpCmdPart v) = some e → e.snap = some r →
    (snpCmdSlot v < r.rslots → ∃ u, Does (x.1 c) s (done u c) ∧ u = { t with rreg := u.rreg, snp := u.snp } ∧ u.rreg.snpCmdStatus = 0 ∧
      (∀ i < 64, (u.snap (snpCmdPart v)).hold.getLsbD i =
        if i = snpCmdSlot v then x.2.2 else (t.snap (snpCmdPart v)).hold.getLsbD i)) ∧
    (r.rslots ≤ snpCmdSlot v → ∃ u, Does (x.1 c) s (done u c) ∧ u = { t with rreg := u.rreg } ∧ u.rreg.snpCmdStatus = 2)) ∧
  (∀ (s : State) (k : Packet) (d : List Byte) (base size : Nat) (x : TwinSlot) (w : State), s.takes k = true → k.body = .snap 0 0 d →
    s.twinStore = some (base, size) → s.twinRank = some k.src.toNat → s.snapRuns = true → s.twinOpen k.part.val k.step = none →
    x = { part := k.part.val, alt := twinAlt s.rreg.twin k.part.val, step := k.step } → shardsAt + d.length ≤ size / twinSlots →
    State.write { s with inbox := s.inbox.erase k } .snapshot (twinAddr base size x shardsAt) d = (w, none) →
    w.twinOpen k.part.val k.step = none →
    ∃ t, Does (.snap k) s t ∧ t = { w with rreg := t.rreg } ∧
      t.twinOpen k.part.val k.step = some { x with lens := tset [] 0 0 d.length }) ∧
  (∀ (s : State) (k : Packet) (d : List Byte) (base size : Nat) (x y : TwinSlot) (w v : State) (m : Manifest), s.takes k = true →
    k.body = .snap midxManifest 0 d →
    s.twinStore = some (base, size) → s.twinRank = some k.src.toNat → s.snapRuns = true → s.twinOpen k.part.val k.step = some x →
    x.bad = false → tget x.lens 0 midxManifest ≤ d.length → y = { x with lens := tset x.lens 0 midxManifest d.length } →
    d.length ≤ size / twinSlots →
    State.write { s with inbox := s.inbox.erase k } .snapshot (twinAddr base size x 0) d = (w, none) →
    w.snapRead (twinAddr base size y 0) d.length = (w, some d) → manifestLen 0 ≤ d.length →
    manifestLen (leNat ((d.drop 16).take 4)) ≤ d.length → manifestOf d = some m → m.step = k.step → m.part = k.part.val →
    w.shardsVerify (twinAddr base size y) m = (v, true) → (v.port portT).state = .up → (v.port portT).ctl = [] →
    (v.port portT).flits.length < replayMax →
    ∃ t z, Does (.snap k) s t ∧ t = { v with rreg := t.rreg, lnk := t.lnk, sent := t.sent } ∧ { y with acked := true } ∈ t.rreg.twin ∧
      .packet portT z ∈ t.sent ∧ z.body = .snapAck ∧ z.dst = k.src ∧ z.step = k.step ∧ z.part = k.part) ∧
  (∀ (s : State) (k : Packet) (i j : Nat) (d : List Byte), s.takes k = true → k.body = .snap i j d → s.twinRank ≠ some k.src.toNat →
    Does (.snap k) s { s with inbox := s.inbox.erase k }) ∧
  (∀ (s : State) (k : Packet) (i : Nat), s.takes k = true → k.body = .snapAck → s.twinRank = some k.src.toNat →
    (s.snap k.part.val).taken ≠ 0xFFFFFFFF → newer k.step (s.snap k.part.val).taken = false → (s.snap k.part.val).by_ = 0 →
    s.slotOf k.part.val k.step = some i → s.isOn 78 = true → s.qrs.evBuf.length < evBufMax →
    ∃ t x, Does (.snapAck k) s t ∧ t = { s with inbox := s.inbox.erase k, snp := t.snp, hkp := t.hkp, qrs := t.qrs } ∧
      (t.snap k.part.val).secured = k.step ∧ (t.snap k.part.val).by_ = 1 ∧ (t.snap k.part.val).slot = i ∧
      t.qrs.evBuf = s.qrs.evBuf ++ [x] ∧ x.code = .snapSecured) ∧
  (∀ (s : State) (k : Packet) (i : Nat), s.takes k = true → k.body = .snapNak → s.twinRank = some k.src.toNat →
    (s.snap k.part.val).secured ≠ k.step ∨ (s.snap k.part.val).by_ = 0 → s.slotOf k.part.val k.step = some i →
    ∃ t, Does (.snapNak k) s t ∧ t = { s with inbox := s.inbox.erase k, snp := t.snp } ∧
      ((t.snap k.part.val).ring i).used = false ∧ (t.snap k.part.val).secured = (s.snap k.part.val).secured) ∧
  (∀ (s : State) (k : Packet), s.takes k = false → Does (.snap k) s s ∧ Does (.snapAck k) s s ∧ Does (.snapNak k) s s)

/-! ## Recovery -/

/-- A recovery command whose epoch is not newer than RCV's changes nothing but STATUS, for every one of them (R263, R275); a
migration command finds a recovery in progress BUSY. FENCE_SELF fences the device and raises DEVICE_FENCED (R260). -/
def Obligations.RecoveryEpochsOnlyRise : Prop :=
  (∀ x ∈ ([(Instr.fenceSelf, WriteRow.fenceSelf), (Instr.rollback, .rollback), (Instr.restore, .restore), (Instr.fill, .fill),
      (Instr.migrateDrain, .migrateDrain), (Instr.migrateDiscard, .migrateDiscard)] : List ((Cmd → Instr) × WriteRow)),
    ∀ (s : State) (c : Cmd) (t : State) (v : Nat), Writes s c x.2 t .rcvCmd v →
      newer (rcvEpoch v) (t.recov (rcvPart v)).repoch = false →
      ∃ u, Does (x.1 c) s (done u c) ∧ u = { t with rreg := u.rreg, rcv := u.rcv } ∧
        u.recov (rcvPart v) = { t.recov (rcvPart v) with status := stEpochOld } ∧ ∀ q, q ≠ rcvPart v → u.recov q = t.recov q) ∧
  (∀ x ∈ ([(Instr.migrateDrain, WriteRow.migrateDrain), (Instr.migrateDiscard, .migrateDiscard)] : List ((Cmd → Instr) × WriteRow)),
    ∀ (s : State) (c : Cmd) (t : State) (v : Nat), Writes s c x.2 t .rcvCmd v →
      newer (rcvEpoch v) (t.recov (rcvPart v)).repoch = true → 1 ≤ (t.recov (rcvPart v)).state.toNat →
      (t.recov (rcvPart v)).state.toNat ≤ 5 →
      ∃ u, Does (x.1 c) s (done u c) ∧ u = { t with rreg := u.rreg, rcv := u.rcv } ∧
        u.recov (rcvPart v) = { t.recov (rcvPart v) with status := stBusyRcv }) ∧
  (∀ (s : State) (c : Cmd) (t : State) (v : Nat), Writes s c .fenceSelf t .rcvCmd v →
    newer (rcvEpoch v) (t.recov (rcvPart v)).repoch = true → t.dev.fenced = false →
    ∃ u, Does (.fenceSelf c) s (done u c) ∧ u.dev.fenced = true ∧ u.mem = t.mem ∧ (u.recov (rcvPart v)).repoch = rcvEpoch v ∧
      ∀ p < 8, (t.part p).state ≠ .empty → (u.part p).epoch = (t.part p).epoch + 1 ∧
        ∀ n ∈ t.racksOf p, (u.rack n).stream.state = .fenced) ∧
  (∀ (s : State) (c : Cmd) (t : State) (v : Nat), Writes s c .fenceSelf t .rcvCmd v →
    newer (rcvEpoch v) (t.recov (rcvPart v)).repoch = true → t.dev.fenced = false → (∀ p < 8, (t.part p).state = .empty) →
    t.isOn 78 = true → t.qrs.evBuf.length < evBufMax →
    ∃ u x, Does (.fenceSelf c) s (done u c) ∧ u.dev.fenced = true ∧ u.qrs.evBuf = t.qrs.evBuf ++ [x] ∧ x.code = .deviceFenced ∧
      x.payload = [3])

/-- ROLLBACK at the seal root takes the partition back to its oldest unsealed step in the new epoch (R264). RESTORE and FILL
give every stream EPOCH_R, drop what the partition was doing and fill from the recovery point, a spare with the former rank
and coordinate (R265). MIGRATE_DRAIN marks the last step and the spare; MIGRATE_DISCARD fences the device and hands the
oldest unsealed step over (R268, R269). -/
def Obligations.RecoveryCommandsAct : Prop :=
  (∀ (s : State) (c : Cmd) (t : State) (v p : Nat), Writes s c .rollback t .rcvCmd v → p = rcvPart v →
    newer (rcvEpoch v) (t.recov p).repoch = true → (t.recov p).migration = none → t.isSealRoot p = true → t.recoverable p = true →
    (t.part p).everOpen = true →
    ∃ u, Does (.rollback c) s (done u c) ∧ (u.recov p).repoch = rcvEpoch v ∧ (u.part p).nextOpen = (t.part p).lastSeal + 1 ∧
      (u.part p).epoch = (t.part p).epoch + 1 ∧ (u.part p).lastSeal = (t.part p).lastSeal ∧ (u.part p).rewound = true) ∧
  (∀ (s : State) (c : Cmd) (t : State) (v p : Nat), Writes s c .restore t .rcvCmd v → p = rcvPart v →
    newer (rcvEpoch v) (t.recov p).repoch = true → t.recoverable p = true →
    ∃ u, Does (.restore c) s (done u c) ∧ (u.recov p).repoch = rcvEpoch v ∧ (u.recov p).point = rcvStep v ∧
      (u.recov p).epochR = argEpoch t.rreg.rcvArg ∧ (u.recov p).spare = false ∧ (u.part p).epoch = argEpoch t.rreg.rcvArg ∧
      ∀ n ∈ t.racksOf p, (u.rack n).stream.epoch = argEpoch t.rreg.rcvArg) ∧
  (∀ (s : State) (c : Cmd) (t : State) (v p : Nat), Writes s c .fill t .rcvCmd v → p = rcvPart v →
    newer (rcvEpoch v) (t.recov p).repoch = true → t.recoverable p = true →
    ∃ u, Does (.fill c) s (done u c) ∧ (u.recov p).repoch = rcvEpoch v ∧ (u.recov p).point = rcvStep v ∧
      (u.recov p).rank = argRank t.rreg.rcvArg ∧ (u.recov p).coord = argCoord t.rreg.rcvArg ∧ (u.recov p).spare = true ∧
      (u.part p).epoch = argEpoch t.rreg.rcvArg) ∧
  (∀ (s : State) (c : Cmd) (t : State) (v p : Nat), Writes s c .migrateDrain t .rcvCmd v → p = rcvPart v →
    newer (rcvEpoch v) (t.recov p).repoch = true → (t.recov p).state = 0 → t.recoverable p = true →
    (t.part p).everOpen = false ∨ newer (t.part p).openReg (rcvStep v) = false →
    ∃ u, Does (.migrateDrain c) s (done u c) ∧ (u.recov p).repoch = rcvEpoch v ∧ (u.recov p).state = 5 ∧ u.parts = t.parts ∧
      (u.recov p).migration = some { drain := true, m := rcvStep v, spare := argCoord t.rreg.rcvArg, handedOver := false }) ∧
  (∀ (s : State) (c : Cmd) (t : State) (v p : Nat), Writes s c .migrateDrain t .rcvCmd v → p = rcvPart v →
    newer (rcvEpoch v) (t.recov p).repoch = true → (t.recov p).state = 0 → (t.part p).everOpen = true →
    newer (t.part p).openReg (rcvStep v) = true →
    ∃ u, Does (.migrateDrain c) s (done u c) ∧ u.recov p = { t.recov p with status := stStepPassed }) ∧
  (∀ (s : State) (c : Cmd) (t : State) (v p : Nat), Writes s c .migrateDiscard t .rcvCmd v → p = rcvPart v →
    newer (rcvEpoch v) (t.recov p).repoch = true → (t.recov p).state = 0 → t.recoverable p = true →
    ∃ u, Does (.migrateDiscard c) s (done u c) ∧ u.dev.fenced = true ∧ (u.recov p).repoch = rcvEpoch v ∧
      (u.recov p).migration = some { drain := false, m := (t.part p).lastSeal + 1, spare := argCoord t.rreg.rcvArg, handedOver := true } ∧
      (u.snap p).shards = [t.captureSched p ((t.part p).lastSeal + 1)])

/-- A rank's shard is served from its ring slot in pieces of 4 KiB, and FILL_END follows its last piece (R262, R266); a
request of an older epoch is not served. The pieces of a shard join in order, and once it is whole its digest decides whether
it is verified or the next source is tried (R266, R267). A source that sends nothing in time is skipped for the rest of the
fill; where none is left the fill waits for host software with FILL_FAIL. HOSTFILL checks the shard where host software
placed it. -/
def Obligations.FillsAreServedAndVerified : Prop :=
  (∀ (s : State) (k : Packet) (e : BitVec 16) (rank coord : BitVec 14) (i m : Nat) (dim : Option Nat) (d : List Byte) (u : State),
    s.takes k = true → k.body = .fillReq e rank i 0 coord → s.dev.hub78 = false → s.isOn 78 = true → rank = s.lnk.rank →
    newer (s.recov k.part.val).repoch e = false → i ≠ 0x3FFF → State.ownServes { s with inbox := s.inbox.erase k } k.part.val k.step i = (u, some d) → 0 < d.length →
    d.length ≤ 4096 → u.hop none coord 0 = .out m dim → (u.port m).state = .up → (u.port m).ctl = [] → (u.port m).pay = [] →
    (u.port m).flits.length + 11 ≤ replayMax →
    ∃ t x y, Does (.fillReq k) s t ∧ t.mem = s.mem ∧ t.parts = s.parts ∧ .packet m x ∈ t.sent ∧ .packet m y ∈ t.sent ∧
      x.body = .fill e i 0 d ∧ x.dst = k.src ∧ x.dcoord = coord ∧ y.body = .fillEnd e i d.length false ∧ y.seq = x.seq + 1) ∧
  (∀ (s : State) (k : Packet) (e : BitVec 16) (rank coord : BitVec 14) (i m : Nat) (dim : Option Nat) (d : List Byte) (u : State),
    s.takes k = true → k.body = .fillReq e rank i 0 coord → s.dev.hub78 = false → s.isOn 78 = true → rank ≠ s.lnk.rank →
    i ≠ 0x3FFF → State.twinServes { s with inbox := s.inbox.erase k } k.part.val k.step i = (u, some d) → 0 < d.length →
    d.length ≤ 4096 → u.hop none coord 0 = .out m dim → (u.port m).state = .up → (u.port m).ctl = [] → (u.port m).pay = [] →
    (u.port m).flits.length + 11 ≤ replayMax →
    ∃ t x y, Does (.fillReq k) s t ∧ t.mem = s.mem ∧ t.racks = s.racks ∧ .packet m x ∈ t.sent ∧ .packet m y ∈ t.sent ∧
      x.body = .fill e i 0 d ∧ x.stream = 0xFFFF ∧ x.dcoord = coord ∧ y.body = .fillEnd e i d.length false ∧ y.seq = x.seq + 1) ∧
  (∀ (s : State) (k : Packet) (e : BitVec 16) (rank coord : BitVec 14) (i off : Nat), s.takes k = true → k.body = .fillReq e rank i off coord →
    rank = s.lnk.rank → newer (s.recov k.part.val).repoch e = true → Does (.fillReq k) s { s with inbox := s.inbox.erase k }) ∧
  (∀ (s : State) (k : Packet) (e : BitVec 16) (i off : Nat) (d : List Byte) (m : Manifest) (x : FillEnt), s.takes k = true →
    k.body = .fill e i off d →
    e = (s.recov k.part.val).repoch → (s.recov k.part.val).state = 2 ∨ (s.recov k.part.val).state = 3 →
    (s.recov k.part.val).manifest = some m →
    (s.recov k.part.val).map.find? (fun y => y.midx == i && y.state == 1 && y.src != .host) = some x →
    off * 4096 = x.data.length →
    ∃ t, Does (.fillPacket k) s t ∧ (t.recov k.part.val).map = (s.recov k.part.val).map.map (fun y =>
      if y.midx = i then { x with data := x.data ++ d, done := wholeChunks (x.data.length + d.length) } else y) ∧
      t.parts = s.parts) ∧
  (∀ (s : State) (k : Packet) (e : BitVec 16) (i n : Nat) (m : Manifest) (x : FillEnt), s.takes k = true →
    k.body = .fillEnd e i n false →
    e = (s.recov k.part.val).repoch → (s.recov k.part.val).state = 2 ∨ (s.recov k.part.val).state = 3 →
    (s.recov k.part.val).manifest = some m →
    (s.recov k.part.val).map.find? (fun y => y.midx == i && y.state == 1 && y.src != .host) = some x →
    Does (.fillEnd k) s (State.fillRun k.part.val fillFuel (State.fillCheck { s with inbox := s.inbox.erase k } k.part.val m x))) ∧
  (∀ (s : State) (p : Nat) (m : Manifest) (x : FillEnt), ∃ y, y ∈ ([{ x with state := 2, done := x.data.length },
      { x with state := 0, tried := x.tried ++ [x.src], done := 0, data := [] }] : List FillEnt) ∧
    (y.state = 2 ↔ shardGood m x.midx x.data = true) ∧
    ((s.fillCheck p m x).recov p).map = (s.recov p).map.map (fun z => if z.midx = x.midx then y else z)) ∧
  (∀ (s : State) (p : Part), (s.recov p.val).state = 2 ∨ (s.recov p.val).state = 3 → (s.recov p.val).manifest = none →
    (s.recov p.val).manifestSrc ≠ .host → (s.recov p.val).laterSrc = none → s.isOn 78 = true → s.qrs.evBuf.length < evBufMax →
    ∃ t x, Does (.fillTimeout p) s t ∧ t = { s with rcv := t.rcv, hkp := t.hkp, qrs := t.qrs } ∧ (t.recov p.val).state = 6 ∧
      (t.recov p.val).status = 4 ∧ (t.recov p.val).skip = (s.recov p.val).skip ++ [(s.recov p.val).manifestSrc] ∧
      t.qrs.evBuf = s.qrs.evBuf ++ [x] ∧ x.code = .fillFail ∧ x.payload = [(p.val : Int), 0x3FFF]) ∧
  (∀ (s : State) (p : Part), (s.recov p.val).state = 0 → Does (.fillTimeout p) s s) ∧
  (∀ (s : State) (k : Packet), s.takes k = false → Does (.fillReq k) s s ∧ Does (.fillPacket k) s s ∧ Does (.fillEnd k) s s) ∧
  (∀ (s : State) (c : Cmd) (t : State) (v p i : Nat) (m : Manifest) (x : FillEnt) (b : List Byte) (w u : State),
    Writes s c .hostfill t .rcvCmd v → p = rcvPart v → i = argMidx t.rreg.rcvArg → rcvEpoch v = (t.recov p).repoch →
    (t.recov p).state = 2 ∨ (t.recov p).state = 3 → w = (t.putReg v .rcvCmd).rcvStatus p 0 →
    (t.recov p).manifest = some m →
    (t.recov p).map.find? (fun e => e.midx == i && e.state == 1 && e.src == .host) = some x →
    w.snapRead (w.hostAt p i (m.soff i) + x.done) (x.len - x.done) = (u, some b) →
    Does (.hostfill c) s (done (State.fillRun p fillFuel (u.fillCheck p m { x with data := x.data.take x.done ++ b })) c)) ∧
  (∀ (s : State) (c : Cmd) (t : State) (v p : Nat), Writes s c .hostfill t .rcvCmd v → p = rcvPart v →
    rcvEpoch v ≠ (t.recov p).repoch → ∃ u, Does (.hostfill c) s (done u c) ∧ u.recov p = { t.recov p with status := stEpochOld })

/-- RESTORED of a child is kept; once every child has given it and this device is restored, the root resumes the partition,
and RESUME of the parent resumes it here: the fill is over and the streams leave Rewinding 20 us later (R265). HANDOVER gives
a spare the streams of the rank that it takes over (R268, R269). -/
def Obligations.RestoredPartitionsResume : Prop :=
  (∀ (s : State) (k : Packet) (e : BitVec 16), s.takes k = true → k.body = .restored e → newer (s.recov k.part.val).repoch e = false →
    s.knd.restoredWords.contains (k.part.val, e, k.src.toNat) = false → (s.recov k.part.val).state ≠ 4 →
    ∃ t, Does (.restored k) s t ∧ t = { s with inbox := s.inbox.erase k, knd := t.knd } ∧
      (k.part.val, e, k.src.toNat) ∈ t.knd.restoredWords ∧ t.knd.bkts = s.knd.bkts) ∧
  (∀ (s : State) (k : Packet) (e : BitVec 16), s.takes k = true → k.body = .restored e → newer (s.recov k.part.val).repoch e = true →
    Does (.restored k) s { s with inbox := s.inbox.erase k }) ∧
  (∀ (s : State) (k : Packet) (e : BitVec 16), s.takes k = true → k.body = .restored e → e = (s.recov k.part.val).repoch →
    s.knd.restoredWords.contains (k.part.val, e, k.src.toNat) = false → (s.recov k.part.val).state = 4 →
    (s.recov k.part.val).restoredSent = false → s.sealParent k.part.val s.lnk.rank.toNat = none → s.isSealRoot k.part.val = true →
    (∀ r ∈ s.sealChildren k.part.val, r = k.src.toNat ∨ s.restoredHeard k.part.val r = true) → s.hkp.timersOn = true →
    s.dev.hub79 = false →
    ∃ t x, Does (.restored k) s t ∧ (t.recov k.part.val).state = 0 ∧ (t.recov k.part.val).manifest = none ∧
      t.hkp.armed = s.hkp.armed ++ [x] ∧ x.target = s.hkp.ltime + 2000 ∧ x.action = .streamRelease k.part.val ∧ t.mem = s.mem) ∧
  (∀ (s : State) (k : Packet) (e : BitVec 16), s.takes k = true → k.body = .resume e → e = (s.recov k.part.val).repoch →
    (s.recov k.part.val).state = 4 → s.sealParent k.part.val s.lnk.rank.toNat = some k.src.toNat → s.hkp.timersOn = true →
    s.dev.hub79 = false →
    ∃ t x, Does (.resume k) s t ∧ (t.recov k.part.val).state = 0 ∧ (t.recov k.part.val).map = [] ∧
      t.hkp.armed = s.hkp.armed ++ [x] ∧ x.target = s.hkp.ltime + 2000 ∧ x.action = .streamRelease k.part.val ∧ t.mem = s.mem) ∧
  (∀ (s : State) (k : Packet) (l : List (BitVec 16 × BitVec 16 × BitVec 32)) (g : Migration), s.takes k = true → k.body = .handover l →
    k.src = s.lnk.rank → s.recoverable k.part.val = true → (s.recov k.part.val).state = 5 →
    (s.recov k.part.val).migration = some g → (s.recov k.part.val).manifest = none →
    ∃ t, Does (.handover k) s t ∧ t = { s with inbox := s.inbox.erase k, rcv := t.rcv } ∧ (t.recov k.part.val).handover = l ∧
      (t.recov k.part.val).migration = some { g with handedOver := true }) ∧
  (∀ (s : State) (k : Packet) (l : List (BitVec 16 × BitVec 16 × BitVec 32)), s.takes k = true → k.body = .handover l → k.src = s.lnk.rank →
    s.recoverable k.part.val = true → (s.recov k.part.val).state = 0 →
    ∃ t, Does (.handover k) s t ∧ t = { s with inbox := s.inbox.erase k, rcv := t.rcv } ∧ (t.recov k.part.val).state = 5 ∧
      (t.recov k.part.val).handover = l ∧ (t.recov k.part.val).spare = true ∧ (t.recov k.part.val).rank = s.lnk.rank ∧
      (t.recov k.part.val).migration = some { drain := false, m := k.step, spare := s.ownCoord, handedOver := true }) ∧
  (∀ (s : State) (k : Packet), s.takes k = false → Does (.restored k) s s ∧ Does (.resume k) s s ∧ Does (.handover k) s s)

/-! ## Single rules -/

/-- R116: the fetched copy's STEP is TSTEP + SREL, and the STEP of memory (bytes 8 to 11) plays no part in what is read of a
TILE, VEC or SYNC descriptor (TARGET, which overlaps it, belongs to LOOP alone). -/
def Obligations.FetchedDescriptorsTakeTheirStep : Prop :=
  (∀ (s : State) (n : Rack) (i : SlotNo) (p : Nat) (b : List Byte), s.active n.val = some p → (s.slot n.val i.val).fetches = true →
    inStore n.val (s.slot n.val i.val).next = true → s.read (.rack n.val) (s.slot n.val i.val).next 128 = (s, .ok b) →
    s.descErr n.val p (descOf (s.slot n.val i.val).next (s.slot n.val i.val).tstep b) = none →
    ∃ t o, Does (.descriptorFetch n i none) s (State.trySeals t) ∧ (t.slot n.val i.val).newer = some o ∧
      o.desc.step = (s.slot n.val i.val).tstep + BitVec.ofNat 32 o.desc.srel ∧
      o.desc.srel = fieldOf (leNat (b.take 8)) 63 62) ∧
  (∀ (a : Nat) (t : Step) (b c : List Byte), b.length = 128 → c.length = 128 → fieldOf (leNat (b.take 8)) 3 0 ≤ 3 →
    (∀ j, j < 8 ∨ 12 ≤ j → b.getD j 0 = c.getD j 0) → { descOf a t b with target := 0 } = { descOf a t c with target := 0 })

/-- R187: a released segment's checksum is the sum of (2i + 1) k_i modulo 2^32 over the codes written, and an adder adds the
CSUM words of its inputs, ORs their VOID flags, and forwards the result on the segment's route. -/
def Obligations.ChecksumsAddUp : Prop :=
  (∀ l : List (BitVec 16), checksum l =
    BitVec.ofInt 32 ((List.range l.length).map (fun (i : Nat) => (2 * (i : Int) + 1) * (l.getD i 0).toInt)).sum) ∧
  (∀ (s : State) (c : KndCtx) (step : Step) (r : State) (codes : List (BitVec 16)),
    s.convertG16 c step (s.bkt c.b.bid step).s = (r, some codes) →
    ((s.releaseOnce c step).1.bkt c.b.bid step).checks = (chunks segElems c.b.nseg codes).map checksum) ∧
  (∀ (s : State) (k : Packet) (seg a port : Nat) (sum : BitVec 32) (v sat : Bool) (c : KndCtx) (b : Bkt)
    (w : Tab (BitVec 32 × Bool)), s.takes k = true → k.body = .csum seg a sum v → s.kndCtx k.bucket = some c → b = s.bkt k.bucket k.step →
    childPort c seg k.src = some port → s.stepGone c.p k.step = false → s.kneads c = true → s.isOwner c = false →
    b.attempt = a → b.released = true → b.relAttempt = a → b.verified.contains seg = false → seg < c.b.nseg →
    (s.addSlot k.bucket k.step seg a).done = some sat →
    w = tput (terase (s.addSlot k.bucket k.step seg a).csums port) port (sum, v) →
    (∀ x ∈ childPorts (routeOf c.r seg), (tfind w x.1).isSome = true) →
    ∃ t x, Does (.csum k) s t ∧ (t.bkt k.bucket k.step).verified = b.verified ++ [seg] ∧ x ∈ t.lnk.latest ∧ x.bucket = k.bucket ∧
      x.step = k.step ∧ x.dst = BitVec.ofNat 14 (routeOf c.r seg).parentRank ∧
      x.body = .csum seg a
        ((childPorts (routeOf c.r seg)).foldl (fun z y => z + (tget w (0, false) y.1).1) (b.checks.getD seg 0))
        ((childPorts (routeOf c.r seg)).foldl (fun z y => z || (tget w (0, false) y.1).2) sat))

/-- R287: byte o of a window lies at its linear, two-dimensional or wrapping address; a burst of BLEN bytes covers the bytes
from CUR on, and CUR rises by BLEN, modulo LEN in wrapping mode; in the other modes one that would pass LEN is discarded with
WINDOW_END and CUR stays. -/
def Obligations.BurstsCoverTheirBytes : Prop :=
  (∀ (s : State) (w : WinNo) (bid : BitVec 16) (n : Nat) (x : Window) (at_ : Nat → Nat), x = s.window w.val → s.qrs.state = 2 →
    x.isOpen = true → x.isRead = true → x.valid = true → x.cur % 64 = 0 → x.bursts = [] → x.change = none → 0 < tget s.qrs.readCredits 0 w.val →
    64 ≤ n → n ≤ 4096 → n % 64 = 0 → x.mode = 2 ∨ x.cur + n ≤ x.len →
    (∀ o, at_ o = if x.mode = 1 then x.base + o / x.row * x.pitch + o % x.row else if x.mode = 2 then x.base + o % x.len
      else x.base + o) →
    (∀ i < n / 64, at_ (x.cur + 64 * i) + 64 ≤ hbmTop ∧ s.accessErr (.peel w.val) false (at_ (x.cur + 64 * i)) 64 = none) →
    ∃ t l, Does (.readBurst w bid n none) s t ∧
      t.sent = s.sent ++ .burst w.val bid n 0 0 0 ((List.range n).map (fun j => s.byteAt (at_ (x.cur + j)))) :: l ∧
      (∀ o ∈ l, ∃ m, o = .credit (16 + w.val) m) ∧ t.mem = s.mem ∧
      (t.window w.val).cur = if x.mode = 2 then (x.cur + n) % x.len else x.cur + n) ∧
  (∀ (s : State) (w : WinNo) (bid : BitVec 16) (d : List Byte) (x : Window) (at_ : Nat → Nat), x = s.window w.val → s.qrs.state = 2 →
    x.isOpen = true → x.isRead = false → x.valid = true → x.cur % 64 = 0 → x.bursts = [] → x.change = none →
    64 ≤ d.length → d.length ≤ 4096 → d.length % 64 = 0 → x.cur + d.length ≤ x.len ∨ (x.mode = 2 ∧ d.length ≤ x.len) →
    (∀ o, at_ o = if x.mode = 1 then x.base + o / x.row * x.pitch + o % x.row else if x.mode = 2 then x.base + o % x.len
      else x.base + o) →
    (∀ i < d.length / 64, at_ (x.cur + 64 * i) + 64 ≤ hbmTop ∧ s.accessErr (.peel w.val) true (at_ (x.cur + 64 * i)) 64 = none) →
    ∃ t, Does (.writeBurst w bid d.length d) s t ∧ (∀ j < d.length, t.byteAt (at_ (x.cur + j)) = d.getD j 0) ∧
      (∀ a, (∀ j < d.length, a ≠ at_ (x.cur + j)) → t.byteAt a = s.byteAt a) ∧
      (t.window w.val).cur = if x.mode = 2 then (x.cur + d.length) % x.len else x.cur + d.length) ∧
  (∀ (s : State) (w : WinNo) (bid : BitVec 16) (n : Nat), s.qrs.state = 2 → (s.window w.val).isOpen = true →
    (s.window w.val).isRead = true → 64 ≤ n → n ≤ 4096 → n % 64 = 0 → (s.window w.val).mode ≠ 2 →
    (s.window w.val).len < (s.window w.val).cur + n → (s.window w.val).bursts = [] →
    (s.window w.val).change = none →
    ∃ t l, Does (.readBurst w bid n none) s t ∧ t.sent = s.sent ++ .burst w.val bid n 3 0 0 [] :: l ∧
      (∀ o ∈ l, ∃ m, o = .credit (16 + w.val) m) ∧ t.mem = s.mem ∧
      (t.window w.val).cur = (s.window w.val).cur)

/-! ## The whole machine -/

/-- A step takes the command at the front of the queue and runs it on the state with the queue's rest. On an empty queue one
period of island 79's clock passes, to the target of an armed launch at most, and the partitions whose packets found no port fault:
that is the model's own choice (entries 3 and 178). -/
def Obligations.StepRunsTheFrontCommand : Prop :=
  (∀ (s : State) (c : Instr) (l : List Instr), s.pending = c :: l → step s = exec c { s with pending := l }) ∧
  (∀ s : State, s.pending = [] → s.hkp.timersOn = false → s.lnk.lostAt = [] → StepsTo s s) ∧
  (∀ s : State, s.pending = [] → s.hkp.timersOn = true → s.lnk.lostAt = [] → ∃ t, StepsTo s t ∧ t.pending = [] ∧ t.mem = s.mem ∧
    t.hkp.count = s.hkp.count + s.untilLaunch (if s.hkp.starter then 4 else 1) ∧
    (s.hkp.armed = [] → t.hkp.count = s.hkp.count + (if s.hkp.starter then 4 else 1))) ∧
  (∀ (s : State) (l : List Nat), s.pending = [] → s.hkp.timersOn = false → s.lnk.lostAt = l → l ≠ [] → StepsTo s s.settleRoutes)

/-- Reset leaves the values that the register tables give: no partition loaded, no step sealed, scrubbing every 24 hours with
a CE granularity of 2^10, ports down, no snapshot, proof sampling at 2^6, an ageing period of 0x4000, every queue taking
commands, and an empty queue of waiting commands. -/
def Obligations.ResetLeavesTheTablesValues : Prop :=
  State.reset.pending = [] ∧ (∀ p < 8, State.reset.readReg (.trnState p) = 0xFFFFFFFF00000000 ∧
    (State.reset.part p).state = .empty ∧ State.reset.readReg (.snpStep p) = 0xFFFFFFFFFFFFFFFF ∧
    State.reset.readReg (.snpCtl p) = 0 ∧ State.reset.readReg (.sveRate p) = 6) ∧
  (∀ k < 12, State.reset.readReg (.memCtl k) = 0xA18) ∧ (∀ n < 9, State.reset.readReg (.lnkStat n) = 0) ∧
  (∀ n < 48, State.reset.readReg (.tskCtl n) = 0x400000) ∧ (∀ q < 16, State.reset.readReg (.qrsQcfg q) = 1) ∧
  State.reset.readReg .devScratch = 0 ∧ ∀ a, State.reset.byteAt a = 0

/-- Memory is in its canonical form at reset. -/
def Obligations.ResetMemoryIsCanonical : Prop := MemInv State.reset

/-- Every step keeps memory in its canonical form, whatever command it runs: equal memories are equal data. -/
def Obligations.EveryStepKeepsMemoryCanonical : Prop := ∀ s t : State, MemInv s → StepsTo s t → MemInv t

/-- Every command answers a next state in every state, and so does every step: an error is a status, a register or an event of
the state, and a row whose condition does not hold leaves the state (that is the model's own reading, entry 2). -/
def Obligations.EveryCommandAnswers : Prop :=
  (∀ (i : Instr) (s : State), ∃ t, Does i s t) ∧ ∀ s : State, ∃ t, StepsTo s t

/-- A row that stores nothing completes in every state, with every operand, and leaves every byte of memory: the rows of heat and
clocks, of Queros, of registers and windows, the admission of a COMMIT, the records of trust, ageing, snapshots and retirement, port
words and fences, HBM reads and scrubbing, and the picks of the task engines (R206, R246, R286, R301, R355). -/
def Obligations.RowsThatStoreNothingKeepMemory : Prop :=
  ∀ (i : Instr) (s : State), storesNothing i = true → ∃ t, Does i s t ∧ t.mem = s.mem
end

