-- ==== Sys2Proof/Laws/Tables.lean ====
section
/-! SUPPORT. Finite tables: reading after writing, and the canonical form that every write keeps. -/

namespace Sys2Proof.Machine

variable {α : Type}

@[simp] theorem tfind_terase_same (t : Tab α) (k : Nat) : tfind (terase t k) k = none := by
  induction t with
  | nil => rfl
  | cons e t ih =>
    by_cases h : e.1 = k
    · simp [terase, h, ih]
    · simp [terase, tfind, h, ih]

@[simp] theorem tfind_terase_ne (t : Tab α) {j k : Nat} (h : j ≠ k) : tfind (terase t k) j = tfind t j := by
  induction t with
  | nil => rfl
  | cons e t ih =>
    by_cases hk : e.1 = k
    · have : e.1 ≠ j := fun c => h (c.symm.trans hk)
      simp [terase, tfind, hk, ih, Ne.symm h]
    · simp [terase, tfind, hk, ih]

theorem tfind_tput_same (t : Tab α) (k : Nat) (v : α) (h : tfind t k = none) : tfind (tput t k v) k = some v := by
  induction t with
  | nil => simp [tput, tfind]
  | cons e t ih =>
    by_cases he : e.1 = k
    · simp [tfind, he] at h
    · simp only [tfind, he, if_false] at h
      by_cases hlt : k < e.1
      · simp [tput, tfind, hlt]
      · simp [tput, tfind, hlt, he, ih h]

theorem tfind_tput_ne (t : Tab α) {j k : Nat} (v : α) (h : j ≠ k) : tfind (tput t k v) j = tfind t j := by
  induction t with
  | nil => simp [tput, tfind, Ne.symm h]
  | cons e t ih =>
    by_cases hlt : k < e.1
    · simp [tput, tfind, hlt, Ne.symm h]
    · simp [tput, tfind, hlt, ih]

/-- A key reads as it was last written. -/
@[simp] theorem tget_tset_same [DecidableEq α] (t : Tab α) (d : α) (k : Nat) (v : α) : tget (tset t d k v) d k = v := by
  unfold tget tset
  split
  · rename_i h; simp [h]
  · rw [tfind_tput_same _ _ _ (tfind_terase_same t k)]; rfl

/-- A write leaves every other key alone. -/
theorem tget_tset_ne [DecidableEq α] (t : Tab α) (d e : α) {j k : Nat} (v : α) (h : j ≠ k) :
    tget (tset t d k v) e j = tget t e j := by
  unfold tget tset
  split
  · rw [tfind_terase_ne t h]
  · rw [tfind_tput_ne _ v h, tfind_terase_ne t h]

/-! ## The canonical form -/

theorem terase_mem (t : Tab α) (k : Nat) : ∀ e ∈ terase t k, e ∈ t := by
  induction t with
  | nil => simp [terase]
  | cons x t ih =>
    intro e he
    by_cases hx : x.1 = k
    · simp [terase, hx] at he; exact List.mem_cons_of_mem _ (ih e he)
    · simp [terase, hx] at he
      rcases he with rfl | he
      · exact List.mem_cons_self
      · exact List.mem_cons_of_mem _ (ih e he)

theorem tput_mem (t : Tab α) (k : Nat) (v : α) : ∀ e ∈ tput t k v, e = (k, v) ∨ e ∈ t := by
  induction t with
  | nil => simp [tput]
  | cons x t ih =>
    intro e he
    by_cases hx : k < x.1
    · simpa [tput, hx] using he
    · simp only [tput, hx, if_false, List.mem_cons] at he
      rcases he with rfl | he
      · exact .inr List.mem_cons_self
      · exact (ih e he).imp id (List.mem_cons_of_mem _)

theorem twf_terase [DecidableEq α] (d : Nat → α) (t : Tab α) (k : Nat) (h : twf d t = true) :
    twf d (terase t k) = true := by
  induction t with
  | nil => rfl
  | cons x t ih =>
    simp only [twf, Bool.and_eq_true, decide_eq_true_eq, List.all_eq_true] at h
    by_cases hx : x.1 = k
    · simpa [terase, hx] using ih h.2
    · simp only [terase, hx, if_false, twf, Bool.and_eq_true, decide_eq_true_eq, List.all_eq_true]
      exact ⟨⟨h.1.1, fun e he => h.1.2 e (terase_mem t k e he)⟩, ih h.2⟩

theorem twf_tput [DecidableEq α] (d : Nat → α) (t : Tab α) (k : Nat) (v : α) (hv : v ≠ d k) (hk : tfind t k = none)
    (h : twf d t = true) : twf d (tput t k v) = true := by
  induction t with
  | nil => simp [tput, twf, hv]
  | cons x t ih =>
    have hx : x.1 ≠ k := fun c => by simp [tfind, c] at hk
    simp only [tfind, hx, if_false] at hk
    simp only [twf, Bool.and_eq_true, decide_eq_true_eq, List.all_eq_true] at h
    by_cases hlt : k < x.1
    · simp only [tput, hlt, if_true, twf, Bool.and_eq_true, decide_eq_true_eq, List.all_eq_true, List.mem_cons]
      refine ⟨⟨hv, ?_⟩, ⟨h.1.1, h.1.2⟩, h.2⟩
      rintro e (rfl | he)
      · exact hlt
      · exact Nat.lt_trans hlt (h.1.2 e he)
    · simp only [tput, hlt, if_false, twf, Bool.and_eq_true, decide_eq_true_eq, List.all_eq_true]
      refine ⟨⟨h.1.1, fun e he => ?_⟩, ih hk h.2⟩
      rcases tput_mem t k v e he with rfl | he
      · show x.1 < k; omega
      · exact h.1.2 e he

/-- A write keeps the canonical form. -/
theorem twf_tset [DecidableEq α] (d : Nat → α) (t : Tab α) (k : Nat) (v : α) (h : twf d t = true) :
    twf d (tset t (d k) k v) = true := by
  unfold tset
  split
  · exact twf_terase d t k h
  · exact twf_tput d _ k v (by assumption) (tfind_terase_same t k) (twf_terase d t k h)

/-- Keeping some entries keeps the canonical form. -/
theorem twf_filter [DecidableEq α] (d : Nat → α) (t : Tab α) (p : Nat × α → Bool) (h : twf d t = true) :
    twf d (t.filter p) = true := by
  induction t with
  | nil => rfl
  | cons x t ih =>
    simp only [twf, Bool.and_eq_true, decide_eq_true_eq, List.all_eq_true] at h
    by_cases hp : p x = true
    · simp only [List.filter_cons_of_pos hp, twf, Bool.and_eq_true, decide_eq_true_eq, List.all_eq_true]
      exact ⟨⟨h.1.1, fun e he => h.1.2 e ((List.mem_filter.mp he).1)⟩, ih h.2⟩
    · simpa [List.filter_cons_of_neg hp] using ih h.2

end Sys2Proof.Machine
end

