-- ==== Sys2Proof/Laws/State.lean ====
section
/-! SUPPORT. What each accessor of State leaves alone: one lemma for each field that an update does not write. -/

namespace Sys2Proof.Machine

section setIsland
variable (s : State) (n : Nat) (v : IslandSt)
@[simp] theorem State.setIsland_pending : (s.setIsland n v).pending = s.pending := rfl
@[simp] theorem State.setIsland_mem : (s.setIsland n v).mem = s.mem := rfl
@[simp] theorem State.setIsland_poison : (s.setIsland n v).poison = s.poison := rfl
@[simp] theorem State.setIsland_secded : (s.setIsland n v).secded = s.secded := rfl
@[simp] theorem State.setIsland_per : (s.setIsland n v).per = s.per := rfl
@[simp] theorem State.setIsland_hkp : (s.setIsland n v).hkp = s.hkp := rfl
@[simp] theorem State.setIsland_cru : (s.setIsland n v).cru = s.cru := rfl
@[simp] theorem State.setIsland_qrs : (s.setIsland n v).qrs = s.qrs := rfl
@[simp] theorem State.setIsland_rcp : (s.setIsland n v).rcp = s.rcp := rfl
@[simp] theorem State.setIsland_parts : (s.setIsland n v).parts = s.parts := rfl
@[simp] theorem State.setIsland_racks : (s.setIsland n v).racks = s.racks := rfl
@[simp] theorem State.setIsland_gov : (s.setIsland n v).gov = s.gov := rfl
@[simp] theorem State.setIsland_knd : (s.setIsland n v).knd = s.knd := rfl
@[simp] theorem State.setIsland_hbm : (s.setIsland n v).hbm = s.hbm := rfl
@[simp] theorem State.setIsland_cxl : (s.setIsland n v).cxl = s.cxl := rfl
@[simp] theorem State.setIsland_lnk : (s.setIsland n v).lnk = s.lnk := rfl
@[simp] theorem State.setIsland_snp : (s.setIsland n v).snp = s.snp := rfl
@[simp] theorem State.setIsland_rcv : (s.setIsland n v).rcv = s.rcv := rfl
@[simp] theorem State.setIsland_rreg : (s.setIsland n v).rreg = s.rreg := rfl
@[simp] theorem State.setIsland_dev : (s.setIsland n v).dev = s.dev := rfl
@[simp] theorem State.setIsland_trc : (s.setIsland n v).trc = s.trc := rfl
@[simp] theorem State.setIsland_inbox : (s.setIsland n v).inbox = s.inbox := rfl
@[simp] theorem State.setIsland_signals : (s.setIsland n v).signals = s.signals := rfl
@[simp] theorem State.setIsland_sent : (s.setIsland n v).sent = s.sent := rfl
@[simp] theorem State.setIsland_freeCtr : (s.setIsland n v).freeCtr = s.freeCtr := rfl
end setIsland

section modIsland
variable (s : State) (n : Nat) (f : IslandSt → IslandSt)
@[simp] theorem State.modIsland_pending : (s.modIsland n f).pending = s.pending := rfl
@[simp] theorem State.modIsland_mem : (s.modIsland n f).mem = s.mem := rfl
@[simp] theorem State.modIsland_poison : (s.modIsland n f).poison = s.poison := rfl
@[simp] theorem State.modIsland_secded : (s.modIsland n f).secded = s.secded := rfl
@[simp] theorem State.modIsland_per : (s.modIsland n f).per = s.per := rfl
@[simp] theorem State.modIsland_hkp : (s.modIsland n f).hkp = s.hkp := rfl
@[simp] theorem State.modIsland_cru : (s.modIsland n f).cru = s.cru := rfl
@[simp] theorem State.modIsland_qrs : (s.modIsland n f).qrs = s.qrs := rfl
@[simp] theorem State.modIsland_rcp : (s.modIsland n f).rcp = s.rcp := rfl
@[simp] theorem State.modIsland_parts : (s.modIsland n f).parts = s.parts := rfl
@[simp] theorem State.modIsland_racks : (s.modIsland n f).racks = s.racks := rfl
@[simp] theorem State.modIsland_gov : (s.modIsland n f).gov = s.gov := rfl
@[simp] theorem State.modIsland_knd : (s.modIsland n f).knd = s.knd := rfl
@[simp] theorem State.modIsland_hbm : (s.modIsland n f).hbm = s.hbm := rfl
@[simp] theorem State.modIsland_cxl : (s.modIsland n f).cxl = s.cxl := rfl
@[simp] theorem State.modIsland_lnk : (s.modIsland n f).lnk = s.lnk := rfl
@[simp] theorem State.modIsland_snp : (s.modIsland n f).snp = s.snp := rfl
@[simp] theorem State.modIsland_rcv : (s.modIsland n f).rcv = s.rcv := rfl
@[simp] theorem State.modIsland_rreg : (s.modIsland n f).rreg = s.rreg := rfl
@[simp] theorem State.modIsland_dev : (s.modIsland n f).dev = s.dev := rfl
@[simp] theorem State.modIsland_trc : (s.modIsland n f).trc = s.trc := rfl
@[simp] theorem State.modIsland_inbox : (s.modIsland n f).inbox = s.inbox := rfl
@[simp] theorem State.modIsland_signals : (s.modIsland n f).signals = s.signals := rfl
@[simp] theorem State.modIsland_sent : (s.modIsland n f).sent = s.sent := rfl
@[simp] theorem State.modIsland_freeCtr : (s.modIsland n f).freeCtr = s.freeCtr := rfl
end modIsland

section setPart
variable (s : State) (p : Nat) (v : PartSt)
@[simp] theorem State.setPart_pending : (s.setPart p v).pending = s.pending := rfl
@[simp] theorem State.setPart_mem : (s.setPart p v).mem = s.mem := rfl
@[simp] theorem State.setPart_poison : (s.setPart p v).poison = s.poison := rfl
@[simp] theorem State.setPart_secded : (s.setPart p v).secded = s.secded := rfl
@[simp] theorem State.setPart_isl : (s.setPart p v).isl = s.isl := rfl
@[simp] theorem State.setPart_per : (s.setPart p v).per = s.per := rfl
@[simp] theorem State.setPart_hkp : (s.setPart p v).hkp = s.hkp := rfl
@[simp] theorem State.setPart_cru : (s.setPart p v).cru = s.cru := rfl
@[simp] theorem State.setPart_qrs : (s.setPart p v).qrs = s.qrs := rfl
@[simp] theorem State.setPart_rcp : (s.setPart p v).rcp = s.rcp := rfl
@[simp] theorem State.setPart_racks : (s.setPart p v).racks = s.racks := rfl
@[simp] theorem State.setPart_gov : (s.setPart p v).gov = s.gov := rfl
@[simp] theorem State.setPart_knd : (s.setPart p v).knd = s.knd := rfl
@[simp] theorem State.setPart_hbm : (s.setPart p v).hbm = s.hbm := rfl
@[simp] theorem State.setPart_cxl : (s.setPart p v).cxl = s.cxl := rfl
@[simp] theorem State.setPart_lnk : (s.setPart p v).lnk = s.lnk := rfl
@[simp] theorem State.setPart_snp : (s.setPart p v).snp = s.snp := rfl
@[simp] theorem State.setPart_rcv : (s.setPart p v).rcv = s.rcv := rfl
@[simp] theorem State.setPart_rreg : (s.setPart p v).rreg = s.rreg := rfl
@[simp] theorem State.setPart_dev : (s.setPart p v).dev = s.dev := rfl
@[simp] theorem State.setPart_trc : (s.setPart p v).trc = s.trc := rfl
@[simp] theorem State.setPart_inbox : (s.setPart p v).inbox = s.inbox := rfl
@[simp] theorem State.setPart_signals : (s.setPart p v).signals = s.signals := rfl
@[simp] theorem State.setPart_sent : (s.setPart p v).sent = s.sent := rfl
@[simp] theorem State.setPart_freeCtr : (s.setPart p v).freeCtr = s.freeCtr := rfl
end setPart

section modPart
variable (s : State) (p : Nat) (f : PartSt → PartSt)
@[simp] theorem State.modPart_pending : (s.modPart p f).pending = s.pending := rfl
@[simp] theorem State.modPart_mem : (s.modPart p f).mem = s.mem := rfl
@[simp] theorem State.modPart_poison : (s.modPart p f).poison = s.poison := rfl
@[simp] theorem State.modPart_secded : (s.modPart p f).secded = s.secded := rfl
@[simp] theorem State.modPart_isl : (s.modPart p f).isl = s.isl := rfl
@[simp] theorem State.modPart_per : (s.modPart p f).per = s.per := rfl
@[simp] theorem State.modPart_hkp : (s.modPart p f).hkp = s.hkp := rfl
@[simp] theorem State.modPart_cru : (s.modPart p f).cru = s.cru := rfl
@[simp] theorem State.modPart_qrs : (s.modPart p f).qrs = s.qrs := rfl
@[simp] theorem State.modPart_rcp : (s.modPart p f).rcp = s.rcp := rfl
@[simp] theorem State.modPart_racks : (s.modPart p f).racks = s.racks := rfl
@[simp] theorem State.modPart_gov : (s.modPart p f).gov = s.gov := rfl
@[simp] theorem State.modPart_knd : (s.modPart p f).knd = s.knd := rfl
@[simp] theorem State.modPart_hbm : (s.modPart p f).hbm = s.hbm := rfl
@[simp] theorem State.modPart_cxl : (s.modPart p f).cxl = s.cxl := rfl
@[simp] theorem State.modPart_lnk : (s.modPart p f).lnk = s.lnk := rfl
@[simp] theorem State.modPart_snp : (s.modPart p f).snp = s.snp := rfl
@[simp] theorem State.modPart_rcv : (s.modPart p f).rcv = s.rcv := rfl
@[simp] theorem State.modPart_rreg : (s.modPart p f).rreg = s.rreg := rfl
@[simp] theorem State.modPart_dev : (s.modPart p f).dev = s.dev := rfl
@[simp] theorem State.modPart_trc : (s.modPart p f).trc = s.trc := rfl
@[simp] theorem State.modPart_inbox : (s.modPart p f).inbox = s.inbox := rfl
@[simp] theorem State.modPart_signals : (s.modPart p f).signals = s.signals := rfl
@[simp] theorem State.modPart_sent : (s.modPart p f).sent = s.sent := rfl
@[simp] theorem State.modPart_freeCtr : (s.modPart p f).freeCtr = s.freeCtr := rfl
end modPart

section setRack
variable (s : State) (n : Nat) (v : RackSt)
@[simp] theorem State.setRack_pending : (s.setRack n v).pending = s.pending := rfl
@[simp] theorem State.setRack_mem : (s.setRack n v).mem = s.mem := rfl
@[simp] theorem State.setRack_poison : (s.setRack n v).poison = s.poison := rfl
@[simp] theorem State.setRack_secded : (s.setRack n v).secded = s.secded := rfl
@[simp] theorem State.setRack_isl : (s.setRack n v).isl = s.isl := rfl
@[simp] theorem State.setRack_per : (s.setRack n v).per = s.per := rfl
@[simp] theorem State.setRack_hkp : (s.setRack n v).hkp = s.hkp := rfl
@[simp] theorem State.setRack_cru : (s.setRack n v).cru = s.cru := rfl
@[simp] theorem State.setRack_qrs : (s.setRack n v).qrs = s.qrs := rfl
@[simp] theorem State.setRack_rcp : (s.setRack n v).rcp = s.rcp := rfl
@[simp] theorem State.setRack_parts : (s.setRack n v).parts = s.parts := rfl
@[simp] theorem State.setRack_gov : (s.setRack n v).gov = s.gov := rfl
@[simp] theorem State.setRack_knd : (s.setRack n v).knd = s.knd := rfl
@[simp] theorem State.setRack_hbm : (s.setRack n v).hbm = s.hbm := rfl
@[simp] theorem State.setRack_cxl : (s.setRack n v).cxl = s.cxl := rfl
@[simp] theorem State.setRack_lnk : (s.setRack n v).lnk = s.lnk := rfl
@[simp] theorem State.setRack_snp : (s.setRack n v).snp = s.snp := rfl
@[simp] theorem State.setRack_rcv : (s.setRack n v).rcv = s.rcv := rfl
@[simp] theorem State.setRack_rreg : (s.setRack n v).rreg = s.rreg := rfl
@[simp] theorem State.setRack_dev : (s.setRack n v).dev = s.dev := rfl
@[simp] theorem State.setRack_trc : (s.setRack n v).trc = s.trc := rfl
@[simp] theorem State.setRack_inbox : (s.setRack n v).inbox = s.inbox := rfl
@[simp] theorem State.setRack_signals : (s.setRack n v).signals = s.signals := rfl
@[simp] theorem State.setRack_sent : (s.setRack n v).sent = s.sent := rfl
@[simp] theorem State.setRack_freeCtr : (s.setRack n v).freeCtr = s.freeCtr := rfl
end setRack

section modRack
variable (s : State) (n : Nat) (f : RackSt → RackSt)
@[simp] theorem State.modRack_pending : (s.modRack n f).pending = s.pending := rfl
@[simp] theorem State.modRack_mem : (s.modRack n f).mem = s.mem := rfl
@[simp] theorem State.modRack_poison : (s.modRack n f).poison = s.poison := rfl
@[simp] theorem State.modRack_secded : (s.modRack n f).secded = s.secded := rfl
@[simp] theorem State.modRack_isl : (s.modRack n f).isl = s.isl := rfl
@[simp] theorem State.modRack_per : (s.modRack n f).per = s.per := rfl
@[simp] theorem State.modRack_hkp : (s.modRack n f).hkp = s.hkp := rfl
@[simp] theorem State.modRack_cru : (s.modRack n f).cru = s.cru := rfl
@[simp] theorem State.modRack_qrs : (s.modRack n f).qrs = s.qrs := rfl
@[simp] theorem State.modRack_rcp : (s.modRack n f).rcp = s.rcp := rfl
@[simp] theorem State.modRack_parts : (s.modRack n f).parts = s.parts := rfl
@[simp] theorem State.modRack_gov : (s.modRack n f).gov = s.gov := rfl
@[simp] theorem State.modRack_knd : (s.modRack n f).knd = s.knd := rfl
@[simp] theorem State.modRack_hbm : (s.modRack n f).hbm = s.hbm := rfl
@[simp] theorem State.modRack_cxl : (s.modRack n f).cxl = s.cxl := rfl
@[simp] theorem State.modRack_lnk : (s.modRack n f).lnk = s.lnk := rfl
@[simp] theorem State.modRack_snp : (s.modRack n f).snp = s.snp := rfl
@[simp] theorem State.modRack_rcv : (s.modRack n f).rcv = s.rcv := rfl
@[simp] theorem State.modRack_rreg : (s.modRack n f).rreg = s.rreg := rfl
@[simp] theorem State.modRack_dev : (s.modRack n f).dev = s.dev := rfl
@[simp] theorem State.modRack_trc : (s.modRack n f).trc = s.trc := rfl
@[simp] theorem State.modRack_inbox : (s.modRack n f).inbox = s.inbox := rfl
@[simp] theorem State.modRack_signals : (s.modRack n f).signals = s.signals := rfl
@[simp] theorem State.modRack_sent : (s.modRack n f).sent = s.sent := rfl
@[simp] theorem State.modRack_freeCtr : (s.modRack n f).freeCtr = s.freeCtr := rfl
end modRack

section setSlot
variable (s : State) (n i : Nat) (v : Slot)
@[simp] theorem State.setSlot_pending : (s.setSlot n i v).pending = s.pending := rfl
@[simp] theorem State.setSlot_mem : (s.setSlot n i v).mem = s.mem := rfl
@[simp] theorem State.setSlot_poison : (s.setSlot n i v).poison = s.poison := rfl
@[simp] theorem State.setSlot_secded : (s.setSlot n i v).secded = s.secded := rfl
@[simp] theorem State.setSlot_isl : (s.setSlot n i v).isl = s.isl := rfl
@[simp] theorem State.setSlot_per : (s.setSlot n i v).per = s.per := rfl
@[simp] theorem State.setSlot_hkp : (s.setSlot n i v).hkp = s.hkp := rfl
@[simp] theorem State.setSlot_cru : (s.setSlot n i v).cru = s.cru := rfl
@[simp] theorem State.setSlot_qrs : (s.setSlot n i v).qrs = s.qrs := rfl
@[simp] theorem State.setSlot_rcp : (s.setSlot n i v).rcp = s.rcp := rfl
@[simp] theorem State.setSlot_parts : (s.setSlot n i v).parts = s.parts := rfl
@[simp] theorem State.setSlot_gov : (s.setSlot n i v).gov = s.gov := rfl
@[simp] theorem State.setSlot_knd : (s.setSlot n i v).knd = s.knd := rfl
@[simp] theorem State.setSlot_hbm : (s.setSlot n i v).hbm = s.hbm := rfl
@[simp] theorem State.setSlot_cxl : (s.setSlot n i v).cxl = s.cxl := rfl
@[simp] theorem State.setSlot_lnk : (s.setSlot n i v).lnk = s.lnk := rfl
@[simp] theorem State.setSlot_snp : (s.setSlot n i v).snp = s.snp := rfl
@[simp] theorem State.setSlot_rcv : (s.setSlot n i v).rcv = s.rcv := rfl
@[simp] theorem State.setSlot_rreg : (s.setSlot n i v).rreg = s.rreg := rfl
@[simp] theorem State.setSlot_dev : (s.setSlot n i v).dev = s.dev := rfl
@[simp] theorem State.setSlot_trc : (s.setSlot n i v).trc = s.trc := rfl
@[simp] theorem State.setSlot_inbox : (s.setSlot n i v).inbox = s.inbox := rfl
@[simp] theorem State.setSlot_signals : (s.setSlot n i v).signals = s.signals := rfl
@[simp] theorem State.setSlot_sent : (s.setSlot n i v).sent = s.sent := rfl
@[simp] theorem State.setSlot_freeCtr : (s.setSlot n i v).freeCtr = s.freeCtr := rfl
end setSlot

section modSlot
variable (s : State) (n i : Nat) (f : Slot → Slot)
@[simp] theorem State.modSlot_pending : (s.modSlot n i f).pending = s.pending := rfl
@[simp] theorem State.modSlot_mem : (s.modSlot n i f).mem = s.mem := rfl
@[simp] theorem State.modSlot_poison : (s.modSlot n i f).poison = s.poison := rfl
@[simp] theorem State.modSlot_secded : (s.modSlot n i f).secded = s.secded := rfl
@[simp] theorem State.modSlot_isl : (s.modSlot n i f).isl = s.isl := rfl
@[simp] theorem State.modSlot_per : (s.modSlot n i f).per = s.per := rfl
@[simp] theorem State.modSlot_hkp : (s.modSlot n i f).hkp = s.hkp := rfl
@[simp] theorem State.modSlot_cru : (s.modSlot n i f).cru = s.cru := rfl
@[simp] theorem State.modSlot_qrs : (s.modSlot n i f).qrs = s.qrs := rfl
@[simp] theorem State.modSlot_rcp : (s.modSlot n i f).rcp = s.rcp := rfl
@[simp] theorem State.modSlot_parts : (s.modSlot n i f).parts = s.parts := rfl
@[simp] theorem State.modSlot_gov : (s.modSlot n i f).gov = s.gov := rfl
@[simp] theorem State.modSlot_knd : (s.modSlot n i f).knd = s.knd := rfl
@[simp] theorem State.modSlot_hbm : (s.modSlot n i f).hbm = s.hbm := rfl
@[simp] theorem State.modSlot_cxl : (s.modSlot n i f).cxl = s.cxl := rfl
@[simp] theorem State.modSlot_lnk : (s.modSlot n i f).lnk = s.lnk := rfl
@[simp] theorem State.modSlot_snp : (s.modSlot n i f).snp = s.snp := rfl
@[simp] theorem State.modSlot_rcv : (s.modSlot n i f).rcv = s.rcv := rfl
@[simp] theorem State.modSlot_rreg : (s.modSlot n i f).rreg = s.rreg := rfl
@[simp] theorem State.modSlot_dev : (s.modSlot n i f).dev = s.dev := rfl
@[simp] theorem State.modSlot_trc : (s.modSlot n i f).trc = s.trc := rfl
@[simp] theorem State.modSlot_inbox : (s.modSlot n i f).inbox = s.inbox := rfl
@[simp] theorem State.modSlot_signals : (s.modSlot n i f).signals = s.signals := rfl
@[simp] theorem State.modSlot_sent : (s.modSlot n i f).sent = s.sent := rfl
@[simp] theorem State.modSlot_freeCtr : (s.modSlot n i f).freeCtr = s.freeCtr := rfl
end modSlot

section modStream
variable (s : State) (n : Nat) (f : Stream → Stream)
@[simp] theorem State.modStream_pending : (s.modStream n f).pending = s.pending := rfl
@[simp] theorem State.modStream_mem : (s.modStream n f).mem = s.mem := rfl
@[simp] theorem State.modStream_poison : (s.modStream n f).poison = s.poison := rfl
@[simp] theorem State.modStream_secded : (s.modStream n f).secded = s.secded := rfl
@[simp] theorem State.modStream_isl : (s.modStream n f).isl = s.isl := rfl
@[simp] theorem State.modStream_per : (s.modStream n f).per = s.per := rfl
@[simp] theorem State.modStream_hkp : (s.modStream n f).hkp = s.hkp := rfl
@[simp] theorem State.modStream_cru : (s.modStream n f).cru = s.cru := rfl
@[simp] theorem State.modStream_qrs : (s.modStream n f).qrs = s.qrs := rfl
@[simp] theorem State.modStream_rcp : (s.modStream n f).rcp = s.rcp := rfl
@[simp] theorem State.modStream_parts : (s.modStream n f).parts = s.parts := rfl
@[simp] theorem State.modStream_gov : (s.modStream n f).gov = s.gov := rfl
@[simp] theorem State.modStream_knd : (s.modStream n f).knd = s.knd := rfl
@[simp] theorem State.modStream_hbm : (s.modStream n f).hbm = s.hbm := rfl
@[simp] theorem State.modStream_cxl : (s.modStream n f).cxl = s.cxl := rfl
@[simp] theorem State.modStream_lnk : (s.modStream n f).lnk = s.lnk := rfl
@[simp] theorem State.modStream_snp : (s.modStream n f).snp = s.snp := rfl
@[simp] theorem State.modStream_rcv : (s.modStream n f).rcv = s.rcv := rfl
@[simp] theorem State.modStream_rreg : (s.modStream n f).rreg = s.rreg := rfl
@[simp] theorem State.modStream_dev : (s.modStream n f).dev = s.dev := rfl
@[simp] theorem State.modStream_trc : (s.modStream n f).trc = s.trc := rfl
@[simp] theorem State.modStream_inbox : (s.modStream n f).inbox = s.inbox := rfl
@[simp] theorem State.modStream_signals : (s.modStream n f).signals = s.signals := rfl
@[simp] theorem State.modStream_sent : (s.modStream n f).sent = s.sent := rfl
@[simp] theorem State.modStream_freeCtr : (s.modStream n f).freeCtr = s.freeCtr := rfl
end modStream

section setStack
variable (s : State) (k : Nat) (v : StackSt)
@[simp] theorem State.setStack_pending : (s.setStack k v).pending = s.pending := rfl
@[simp] theorem State.setStack_mem : (s.setStack k v).mem = s.mem := rfl
@[simp] theorem State.setStack_poison : (s.setStack k v).poison = s.poison := rfl
@[simp] theorem State.setStack_secded : (s.setStack k v).secded = s.secded := rfl
@[simp] theorem State.setStack_isl : (s.setStack k v).isl = s.isl := rfl
@[simp] theorem State.setStack_per : (s.setStack k v).per = s.per := rfl
@[simp] theorem State.setStack_hkp : (s.setStack k v).hkp = s.hkp := rfl
@[simp] theorem State.setStack_cru : (s.setStack k v).cru = s.cru := rfl
@[simp] theorem State.setStack_qrs : (s.setStack k v).qrs = s.qrs := rfl
@[simp] theorem State.setStack_rcp : (s.setStack k v).rcp = s.rcp := rfl
@[simp] theorem State.setStack_parts : (s.setStack k v).parts = s.parts := rfl
@[simp] theorem State.setStack_racks : (s.setStack k v).racks = s.racks := rfl
@[simp] theorem State.setStack_gov : (s.setStack k v).gov = s.gov := rfl
@[simp] theorem State.setStack_knd : (s.setStack k v).knd = s.knd := rfl
@[simp] theorem State.setStack_cxl : (s.setStack k v).cxl = s.cxl := rfl
@[simp] theorem State.setStack_lnk : (s.setStack k v).lnk = s.lnk := rfl
@[simp] theorem State.setStack_snp : (s.setStack k v).snp = s.snp := rfl
@[simp] theorem State.setStack_rcv : (s.setStack k v).rcv = s.rcv := rfl
@[simp] theorem State.setStack_rreg : (s.setStack k v).rreg = s.rreg := rfl
@[simp] theorem State.setStack_dev : (s.setStack k v).dev = s.dev := rfl
@[simp] theorem State.setStack_trc : (s.setStack k v).trc = s.trc := rfl
@[simp] theorem State.setStack_inbox : (s.setStack k v).inbox = s.inbox := rfl
@[simp] theorem State.setStack_signals : (s.setStack k v).signals = s.signals := rfl
@[simp] theorem State.setStack_sent : (s.setStack k v).sent = s.sent := rfl
@[simp] theorem State.setStack_freeCtr : (s.setStack k v).freeCtr = s.freeCtr := rfl
end setStack

section modStack
variable (s : State) (k : Nat) (f : StackSt → StackSt)
@[simp] theorem State.modStack_pending : (s.modStack k f).pending = s.pending := rfl
@[simp] theorem State.modStack_mem : (s.modStack k f).mem = s.mem := rfl
@[simp] theorem State.modStack_poison : (s.modStack k f).poison = s.poison := rfl
@[simp] theorem State.modStack_secded : (s.modStack k f).secded = s.secded := rfl
@[simp] theorem State.modStack_isl : (s.modStack k f).isl = s.isl := rfl
@[simp] theorem State.modStack_per : (s.modStack k f).per = s.per := rfl
@[simp] theorem State.modStack_hkp : (s.modStack k f).hkp = s.hkp := rfl
@[simp] theorem State.modStack_cru : (s.modStack k f).cru = s.cru := rfl
@[simp] theorem State.modStack_qrs : (s.modStack k f).qrs = s.qrs := rfl
@[simp] theorem State.modStack_rcp : (s.modStack k f).rcp = s.rcp := rfl
@[simp] theorem State.modStack_parts : (s.modStack k f).parts = s.parts := rfl
@[simp] theorem State.modStack_racks : (s.modStack k f).racks = s.racks := rfl
@[simp] theorem State.modStack_gov : (s.modStack k f).gov = s.gov := rfl
@[simp] theorem State.modStack_knd : (s.modStack k f).knd = s.knd := rfl
@[simp] theorem State.modStack_cxl : (s.modStack k f).cxl = s.cxl := rfl
@[simp] theorem State.modStack_lnk : (s.modStack k f).lnk = s.lnk := rfl
@[simp] theorem State.modStack_snp : (s.modStack k f).snp = s.snp := rfl
@[simp] theorem State.modStack_rcv : (s.modStack k f).rcv = s.rcv := rfl
@[simp] theorem State.modStack_rreg : (s.modStack k f).rreg = s.rreg := rfl
@[simp] theorem State.modStack_dev : (s.modStack k f).dev = s.dev := rfl
@[simp] theorem State.modStack_trc : (s.modStack k f).trc = s.trc := rfl
@[simp] theorem State.modStack_inbox : (s.modStack k f).inbox = s.inbox := rfl
@[simp] theorem State.modStack_signals : (s.modStack k f).signals = s.signals := rfl
@[simp] theorem State.modStack_sent : (s.modStack k f).sent = s.sent := rfl
@[simp] theorem State.modStack_freeCtr : (s.modStack k f).freeCtr = s.freeCtr := rfl
end modStack

section setCxlPort
variable (s : State) (n : Nat) (v : CxlSt)
@[simp] theorem State.setCxlPort_pending : (s.setCxlPort n v).pending = s.pending := rfl
@[simp] theorem State.setCxlPort_mem : (s.setCxlPort n v).mem = s.mem := rfl
@[simp] theorem State.setCxlPort_poison : (s.setCxlPort n v).poison = s.poison := rfl
@[simp] theorem State.setCxlPort_secded : (s.setCxlPort n v).secded = s.secded := rfl
@[simp] theorem State.setCxlPort_isl : (s.setCxlPort n v).isl = s.isl := rfl
@[simp] theorem State.setCxlPort_per : (s.setCxlPort n v).per = s.per := rfl
@[simp] theorem State.setCxlPort_hkp : (s.setCxlPort n v).hkp = s.hkp := rfl
@[simp] theorem State.setCxlPort_cru : (s.setCxlPort n v).cru = s.cru := rfl
@[simp] theorem State.setCxlPort_qrs : (s.setCxlPort n v).qrs = s.qrs := rfl
@[simp] theorem State.setCxlPort_rcp : (s.setCxlPort n v).rcp = s.rcp := rfl
@[simp] theorem State.setCxlPort_parts : (s.setCxlPort n v).parts = s.parts := rfl
@[simp] theorem State.setCxlPort_racks : (s.setCxlPort n v).racks = s.racks := rfl
@[simp] theorem State.setCxlPort_gov : (s.setCxlPort n v).gov = s.gov := rfl
@[simp] theorem State.setCxlPort_knd : (s.setCxlPort n v).knd = s.knd := rfl
@[simp] theorem State.setCxlPort_hbm : (s.setCxlPort n v).hbm = s.hbm := rfl
@[simp] theorem State.setCxlPort_lnk : (s.setCxlPort n v).lnk = s.lnk := rfl
@[simp] theorem State.setCxlPort_snp : (s.setCxlPort n v).snp = s.snp := rfl
@[simp] theorem State.setCxlPort_rcv : (s.setCxlPort n v).rcv = s.rcv := rfl
@[simp] theorem State.setCxlPort_rreg : (s.setCxlPort n v).rreg = s.rreg := rfl
@[simp] theorem State.setCxlPort_dev : (s.setCxlPort n v).dev = s.dev := rfl
@[simp] theorem State.setCxlPort_trc : (s.setCxlPort n v).trc = s.trc := rfl
@[simp] theorem State.setCxlPort_inbox : (s.setCxlPort n v).inbox = s.inbox := rfl
@[simp] theorem State.setCxlPort_signals : (s.setCxlPort n v).signals = s.signals := rfl
@[simp] theorem State.setCxlPort_sent : (s.setCxlPort n v).sent = s.sent := rfl
@[simp] theorem State.setCxlPort_freeCtr : (s.setCxlPort n v).freeCtr = s.freeCtr := rfl
end setCxlPort

section modCxlPort
variable (s : State) (n : Nat) (f : CxlSt → CxlSt)
@[simp] theorem State.modCxlPort_pending : (s.modCxlPort n f).pending = s.pending := rfl
@[simp] theorem State.modCxlPort_mem : (s.modCxlPort n f).mem = s.mem := rfl
@[simp] theorem State.modCxlPort_poison : (s.modCxlPort n f).poison = s.poison := rfl
@[simp] theorem State.modCxlPort_secded : (s.modCxlPort n f).secded = s.secded := rfl
@[simp] theorem State.modCxlPort_isl : (s.modCxlPort n f).isl = s.isl := rfl
@[simp] theorem State.modCxlPort_per : (s.modCxlPort n f).per = s.per := rfl
@[simp] theorem State.modCxlPort_hkp : (s.modCxlPort n f).hkp = s.hkp := rfl
@[simp] theorem State.modCxlPort_cru : (s.modCxlPort n f).cru = s.cru := rfl
@[simp] theorem State.modCxlPort_qrs : (s.modCxlPort n f).qrs = s.qrs := rfl
@[simp] theorem State.modCxlPort_rcp : (s.modCxlPort n f).rcp = s.rcp := rfl
@[simp] theorem State.modCxlPort_parts : (s.modCxlPort n f).parts = s.parts := rfl
@[simp] theorem State.modCxlPort_racks : (s.modCxlPort n f).racks = s.racks := rfl
@[simp] theorem State.modCxlPort_gov : (s.modCxlPort n f).gov = s.gov := rfl
@[simp] theorem State.modCxlPort_knd : (s.modCxlPort n f).knd = s.knd := rfl
@[simp] theorem State.modCxlPort_hbm : (s.modCxlPort n f).hbm = s.hbm := rfl
@[simp] theorem State.modCxlPort_lnk : (s.modCxlPort n f).lnk = s.lnk := rfl
@[simp] theorem State.modCxlPort_snp : (s.modCxlPort n f).snp = s.snp := rfl
@[simp] theorem State.modCxlPort_rcv : (s.modCxlPort n f).rcv = s.rcv := rfl
@[simp] theorem State.modCxlPort_rreg : (s.modCxlPort n f).rreg = s.rreg := rfl
@[simp] theorem State.modCxlPort_dev : (s.modCxlPort n f).dev = s.dev := rfl
@[simp] theorem State.modCxlPort_trc : (s.modCxlPort n f).trc = s.trc := rfl
@[simp] theorem State.modCxlPort_inbox : (s.modCxlPort n f).inbox = s.inbox := rfl
@[simp] theorem State.modCxlPort_signals : (s.modCxlPort n f).signals = s.signals := rfl
@[simp] theorem State.modCxlPort_sent : (s.modCxlPort n f).sent = s.sent := rfl
@[simp] theorem State.modCxlPort_freeCtr : (s.modCxlPort n f).freeCtr = s.freeCtr := rfl
end modCxlPort

section setPort
variable (s : State) (n : Nat) (v : PortSt)
@[simp] theorem State.setPort_pending : (s.setPort n v).pending = s.pending := rfl
@[simp] theorem State.setPort_mem : (s.setPort n v).mem = s.mem := rfl
@[simp] theorem State.setPort_poison : (s.setPort n v).poison = s.poison := rfl
@[simp] theorem State.setPort_secded : (s.setPort n v).secded = s.secded := rfl
@[simp] theorem State.setPort_isl : (s.setPort n v).isl = s.isl := rfl
@[simp] theorem State.setPort_per : (s.setPort n v).per = s.per := rfl
@[simp] theorem State.setPort_hkp : (s.setPort n v).hkp = s.hkp := rfl
@[simp] theorem State.setPort_cru : (s.setPort n v).cru = s.cru := rfl
@[simp] theorem State.setPort_qrs : (s.setPort n v).qrs = s.qrs := rfl
@[simp] theorem State.setPort_rcp : (s.setPort n v).rcp = s.rcp := rfl
@[simp] theorem State.setPort_parts : (s.setPort n v).parts = s.parts := rfl
@[simp] theorem State.setPort_racks : (s.setPort n v).racks = s.racks := rfl
@[simp] theorem State.setPort_gov : (s.setPort n v).gov = s.gov := rfl
@[simp] theorem State.setPort_knd : (s.setPort n v).knd = s.knd := rfl
@[simp] theorem State.setPort_hbm : (s.setPort n v).hbm = s.hbm := rfl
@[simp] theorem State.setPort_cxl : (s.setPort n v).cxl = s.cxl := rfl
@[simp] theorem State.setPort_snp : (s.setPort n v).snp = s.snp := rfl
@[simp] theorem State.setPort_rcv : (s.setPort n v).rcv = s.rcv := rfl
@[simp] theorem State.setPort_rreg : (s.setPort n v).rreg = s.rreg := rfl
@[simp] theorem State.setPort_dev : (s.setPort n v).dev = s.dev := rfl
@[simp] theorem State.setPort_trc : (s.setPort n v).trc = s.trc := rfl
@[simp] theorem State.setPort_inbox : (s.setPort n v).inbox = s.inbox := rfl
@[simp] theorem State.setPort_signals : (s.setPort n v).signals = s.signals := rfl
@[simp] theorem State.setPort_sent : (s.setPort n v).sent = s.sent := rfl
@[simp] theorem State.setPort_freeCtr : (s.setPort n v).freeCtr = s.freeCtr := rfl
end setPort

section modPort
variable (s : State) (n : Nat) (f : PortSt → PortSt)
@[simp] theorem State.modPort_pending : (s.modPort n f).pending = s.pending := rfl
@[simp] theorem State.modPort_mem : (s.modPort n f).mem = s.mem := rfl
@[simp] theorem State.modPort_poison : (s.modPort n f).poison = s.poison := rfl
@[simp] theorem State.modPort_secded : (s.modPort n f).secded = s.secded := rfl
@[simp] theorem State.modPort_isl : (s.modPort n f).isl = s.isl := rfl
@[simp] theorem State.modPort_per : (s.modPort n f).per = s.per := rfl
@[simp] theorem State.modPort_hkp : (s.modPort n f).hkp = s.hkp := rfl
@[simp] theorem State.modPort_cru : (s.modPort n f).cru = s.cru := rfl
@[simp] theorem State.modPort_qrs : (s.modPort n f).qrs = s.qrs := rfl
@[simp] theorem State.modPort_rcp : (s.modPort n f).rcp = s.rcp := rfl
@[simp] theorem State.modPort_parts : (s.modPort n f).parts = s.parts := rfl
@[simp] theorem State.modPort_racks : (s.modPort n f).racks = s.racks := rfl
@[simp] theorem State.modPort_gov : (s.modPort n f).gov = s.gov := rfl
@[simp] theorem State.modPort_knd : (s.modPort n f).knd = s.knd := rfl
@[simp] theorem State.modPort_hbm : (s.modPort n f).hbm = s.hbm := rfl
@[simp] theorem State.modPort_cxl : (s.modPort n f).cxl = s.cxl := rfl
@[simp] theorem State.modPort_snp : (s.modPort n f).snp = s.snp := rfl
@[simp] theorem State.modPort_rcv : (s.modPort n f).rcv = s.rcv := rfl
@[simp] theorem State.modPort_rreg : (s.modPort n f).rreg = s.rreg := rfl
@[simp] theorem State.modPort_dev : (s.modPort n f).dev = s.dev := rfl
@[simp] theorem State.modPort_trc : (s.modPort n f).trc = s.trc := rfl
@[simp] theorem State.modPort_inbox : (s.modPort n f).inbox = s.inbox := rfl
@[simp] theorem State.modPort_signals : (s.modPort n f).signals = s.signals := rfl
@[simp] theorem State.modPort_sent : (s.modPort n f).sent = s.sent := rfl
@[simp] theorem State.modPort_freeCtr : (s.modPort n f).freeCtr = s.freeCtr := rfl
end modPort

section setQueue
variable (s : State) (q : Nat) (v : Queue)
@[simp] theorem State.setQueue_pending : (s.setQueue q v).pending = s.pending := rfl
@[simp] theorem State.setQueue_mem : (s.setQueue q v).mem = s.mem := rfl
@[simp] theorem State.setQueue_poison : (s.setQueue q v).poison = s.poison := rfl
@[simp] theorem State.setQueue_secded : (s.setQueue q v).secded = s.secded := rfl
@[simp] theorem State.setQueue_isl : (s.setQueue q v).isl = s.isl := rfl
@[simp] theorem State.setQueue_per : (s.setQueue q v).per = s.per := rfl
@[simp] theorem State.setQueue_hkp : (s.setQueue q v).hkp = s.hkp := rfl
@[simp] theorem State.setQueue_cru : (s.setQueue q v).cru = s.cru := rfl
@[simp] theorem State.setQueue_rcp : (s.setQueue q v).rcp = s.rcp := rfl
@[simp] theorem State.setQueue_parts : (s.setQueue q v).parts = s.parts := rfl
@[simp] theorem State.setQueue_racks : (s.setQueue q v).racks = s.racks := rfl
@[simp] theorem State.setQueue_gov : (s.setQueue q v).gov = s.gov := rfl
@[simp] theorem State.setQueue_knd : (s.setQueue q v).knd = s.knd := rfl
@[simp] theorem State.setQueue_hbm : (s.setQueue q v).hbm = s.hbm := rfl
@[simp] theorem State.setQueue_cxl : (s.setQueue q v).cxl = s.cxl := rfl
@[simp] theorem State.setQueue_lnk : (s.setQueue q v).lnk = s.lnk := rfl
@[simp] theorem State.setQueue_snp : (s.setQueue q v).snp = s.snp := rfl
@[simp] theorem State.setQueue_rcv : (s.setQueue q v).rcv = s.rcv := rfl
@[simp] theorem State.setQueue_rreg : (s.setQueue q v).rreg = s.rreg := rfl
@[simp] theorem State.setQueue_dev : (s.setQueue q v).dev = s.dev := rfl
@[simp] theorem State.setQueue_trc : (s.setQueue q v).trc = s.trc := rfl
@[simp] theorem State.setQueue_inbox : (s.setQueue q v).inbox = s.inbox := rfl
@[simp] theorem State.setQueue_signals : (s.setQueue q v).signals = s.signals := rfl
@[simp] theorem State.setQueue_sent : (s.setQueue q v).sent = s.sent := rfl
@[simp] theorem State.setQueue_freeCtr : (s.setQueue q v).freeCtr = s.freeCtr := rfl
end setQueue

section modQueue
variable (s : State) (q : Nat) (f : Queue → Queue)
@[simp] theorem State.modQueue_pending : (s.modQueue q f).pending = s.pending := rfl
@[simp] theorem State.modQueue_mem : (s.modQueue q f).mem = s.mem := rfl
@[simp] theorem State.modQueue_poison : (s.modQueue q f).poison = s.poison := rfl
@[simp] theorem State.modQueue_secded : (s.modQueue q f).secded = s.secded := rfl
@[simp] theorem State.modQueue_isl : (s.modQueue q f).isl = s.isl := rfl
@[simp] theorem State.modQueue_per : (s.modQueue q f).per = s.per := rfl
@[simp] theorem State.modQueue_hkp : (s.modQueue q f).hkp = s.hkp := rfl
@[simp] theorem State.modQueue_cru : (s.modQueue q f).cru = s.cru := rfl
@[simp] theorem State.modQueue_rcp : (s.modQueue q f).rcp = s.rcp := rfl
@[simp] theorem State.modQueue_parts : (s.modQueue q f).parts = s.parts := rfl
@[simp] theorem State.modQueue_racks : (s.modQueue q f).racks = s.racks := rfl
@[simp] theorem State.modQueue_gov : (s.modQueue q f).gov = s.gov := rfl
@[simp] theorem State.modQueue_knd : (s.modQueue q f).knd = s.knd := rfl
@[simp] theorem State.modQueue_hbm : (s.modQueue q f).hbm = s.hbm := rfl
@[simp] theorem State.modQueue_cxl : (s.modQueue q f).cxl = s.cxl := rfl
@[simp] theorem State.modQueue_lnk : (s.modQueue q f).lnk = s.lnk := rfl
@[simp] theorem State.modQueue_snp : (s.modQueue q f).snp = s.snp := rfl
@[simp] theorem State.modQueue_rcv : (s.modQueue q f).rcv = s.rcv := rfl
@[simp] theorem State.modQueue_rreg : (s.modQueue q f).rreg = s.rreg := rfl
@[simp] theorem State.modQueue_dev : (s.modQueue q f).dev = s.dev := rfl
@[simp] theorem State.modQueue_trc : (s.modQueue q f).trc = s.trc := rfl
@[simp] theorem State.modQueue_inbox : (s.modQueue q f).inbox = s.inbox := rfl
@[simp] theorem State.modQueue_signals : (s.modQueue q f).signals = s.signals := rfl
@[simp] theorem State.modQueue_sent : (s.modQueue q f).sent = s.sent := rfl
@[simp] theorem State.modQueue_freeCtr : (s.modQueue q f).freeCtr = s.freeCtr := rfl
end modQueue

section setWindow
variable (s : State) (w : Nat) (v : Window)
@[simp] theorem State.setWindow_pending : (s.setWindow w v).pending = s.pending := rfl
@[simp] theorem State.setWindow_mem : (s.setWindow w v).mem = s.mem := rfl
@[simp] theorem State.setWindow_poison : (s.setWindow w v).poison = s.poison := rfl
@[simp] theorem State.setWindow_secded : (s.setWindow w v).secded = s.secded := rfl
@[simp] theorem State.setWindow_isl : (s.setWindow w v).isl = s.isl := rfl
@[simp] theorem State.setWindow_per : (s.setWindow w v).per = s.per := rfl
@[simp] theorem State.setWindow_hkp : (s.setWindow w v).hkp = s.hkp := rfl
@[simp] theorem State.setWindow_cru : (s.setWindow w v).cru = s.cru := rfl
@[simp] theorem State.setWindow_rcp : (s.setWindow w v).rcp = s.rcp := rfl
@[simp] theorem State.setWindow_parts : (s.setWindow w v).parts = s.parts := rfl
@[simp] theorem State.setWindow_racks : (s.setWindow w v).racks = s.racks := rfl
@[simp] theorem State.setWindow_gov : (s.setWindow w v).gov = s.gov := rfl
@[simp] theorem State.setWindow_knd : (s.setWindow w v).knd = s.knd := rfl
@[simp] theorem State.setWindow_hbm : (s.setWindow w v).hbm = s.hbm := rfl
@[simp] theorem State.setWindow_cxl : (s.setWindow w v).cxl = s.cxl := rfl
@[simp] theorem State.setWindow_lnk : (s.setWindow w v).lnk = s.lnk := rfl
@[simp] theorem State.setWindow_snp : (s.setWindow w v).snp = s.snp := rfl
@[simp] theorem State.setWindow_rcv : (s.setWindow w v).rcv = s.rcv := rfl
@[simp] theorem State.setWindow_rreg : (s.setWindow w v).rreg = s.rreg := rfl
@[simp] theorem State.setWindow_dev : (s.setWindow w v).dev = s.dev := rfl
@[simp] theorem State.setWindow_trc : (s.setWindow w v).trc = s.trc := rfl
@[simp] theorem State.setWindow_inbox : (s.setWindow w v).inbox = s.inbox := rfl
@[simp] theorem State.setWindow_signals : (s.setWindow w v).signals = s.signals := rfl
@[simp] theorem State.setWindow_sent : (s.setWindow w v).sent = s.sent := rfl
@[simp] theorem State.setWindow_freeCtr : (s.setWindow w v).freeCtr = s.freeCtr := rfl
end setWindow

section modWindow
variable (s : State) (w : Nat) (f : Window → Window)
@[simp] theorem State.modWindow_pending : (s.modWindow w f).pending = s.pending := rfl
@[simp] theorem State.modWindow_mem : (s.modWindow w f).mem = s.mem := rfl
@[simp] theorem State.modWindow_poison : (s.modWindow w f).poison = s.poison := rfl
@[simp] theorem State.modWindow_secded : (s.modWindow w f).secded = s.secded := rfl
@[simp] theorem State.modWindow_isl : (s.modWindow w f).isl = s.isl := rfl
@[simp] theorem State.modWindow_per : (s.modWindow w f).per = s.per := rfl
@[simp] theorem State.modWindow_hkp : (s.modWindow w f).hkp = s.hkp := rfl
@[simp] theorem State.modWindow_cru : (s.modWindow w f).cru = s.cru := rfl
@[simp] theorem State.modWindow_rcp : (s.modWindow w f).rcp = s.rcp := rfl
@[simp] theorem State.modWindow_parts : (s.modWindow w f).parts = s.parts := rfl
@[simp] theorem State.modWindow_racks : (s.modWindow w f).racks = s.racks := rfl
@[simp] theorem State.modWindow_gov : (s.modWindow w f).gov = s.gov := rfl
@[simp] theorem State.modWindow_knd : (s.modWindow w f).knd = s.knd := rfl
@[simp] theorem State.modWindow_hbm : (s.modWindow w f).hbm = s.hbm := rfl
@[simp] theorem State.modWindow_cxl : (s.modWindow w f).cxl = s.cxl := rfl
@[simp] theorem State.modWindow_lnk : (s.modWindow w f).lnk = s.lnk := rfl
@[simp] theorem State.modWindow_snp : (s.modWindow w f).snp = s.snp := rfl
@[simp] theorem State.modWindow_rcv : (s.modWindow w f).rcv = s.rcv := rfl
@[simp] theorem State.modWindow_rreg : (s.modWindow w f).rreg = s.rreg := rfl
@[simp] theorem State.modWindow_dev : (s.modWindow w f).dev = s.dev := rfl
@[simp] theorem State.modWindow_trc : (s.modWindow w f).trc = s.trc := rfl
@[simp] theorem State.modWindow_inbox : (s.modWindow w f).inbox = s.inbox := rfl
@[simp] theorem State.modWindow_signals : (s.modWindow w f).signals = s.signals := rfl
@[simp] theorem State.modWindow_sent : (s.modWindow w f).sent = s.sent := rfl
@[simp] theorem State.modWindow_freeCtr : (s.modWindow w f).freeCtr = s.freeCtr := rfl
end modWindow

section setSnap
variable (s : State) (p : Nat) (v : SnapSt)
@[simp] theorem State.setSnap_pending : (s.setSnap p v).pending = s.pending := rfl
@[simp] theorem State.setSnap_mem : (s.setSnap p v).mem = s.mem := rfl
@[simp] theorem State.setSnap_poison : (s.setSnap p v).poison = s.poison := rfl
@[simp] theorem State.setSnap_secded : (s.setSnap p v).secded = s.secded := rfl
@[simp] theorem State.setSnap_isl : (s.setSnap p v).isl = s.isl := rfl
@[simp] theorem State.setSnap_per : (s.setSnap p v).per = s.per := rfl
@[simp] theorem State.setSnap_hkp : (s.setSnap p v).hkp = s.hkp := rfl
@[simp] theorem State.setSnap_cru : (s.setSnap p v).cru = s.cru := rfl
@[simp] theorem State.setSnap_qrs : (s.setSnap p v).qrs = s.qrs := rfl
@[simp] theorem State.setSnap_rcp : (s.setSnap p v).rcp = s.rcp := rfl
@[simp] theorem State.setSnap_parts : (s.setSnap p v).parts = s.parts := rfl
@[simp] theorem State.setSnap_racks : (s.setSnap p v).racks = s.racks := rfl
@[simp] theorem State.setSnap_gov : (s.setSnap p v).gov = s.gov := rfl
@[simp] theorem State.setSnap_knd : (s.setSnap p v).knd = s.knd := rfl
@[simp] theorem State.setSnap_hbm : (s.setSnap p v).hbm = s.hbm := rfl
@[simp] theorem State.setSnap_cxl : (s.setSnap p v).cxl = s.cxl := rfl
@[simp] theorem State.setSnap_lnk : (s.setSnap p v).lnk = s.lnk := rfl
@[simp] theorem State.setSnap_rcv : (s.setSnap p v).rcv = s.rcv := rfl
@[simp] theorem State.setSnap_rreg : (s.setSnap p v).rreg = s.rreg := rfl
@[simp] theorem State.setSnap_dev : (s.setSnap p v).dev = s.dev := rfl
@[simp] theorem State.setSnap_trc : (s.setSnap p v).trc = s.trc := rfl
@[simp] theorem State.setSnap_inbox : (s.setSnap p v).inbox = s.inbox := rfl
@[simp] theorem State.setSnap_signals : (s.setSnap p v).signals = s.signals := rfl
@[simp] theorem State.setSnap_sent : (s.setSnap p v).sent = s.sent := rfl
@[simp] theorem State.setSnap_freeCtr : (s.setSnap p v).freeCtr = s.freeCtr := rfl
end setSnap

section modSnap
variable (s : State) (p : Nat) (f : SnapSt → SnapSt)
@[simp] theorem State.modSnap_pending : (s.modSnap p f).pending = s.pending := rfl
@[simp] theorem State.modSnap_mem : (s.modSnap p f).mem = s.mem := rfl
@[simp] theorem State.modSnap_poison : (s.modSnap p f).poison = s.poison := rfl
@[simp] theorem State.modSnap_secded : (s.modSnap p f).secded = s.secded := rfl
@[simp] theorem State.modSnap_isl : (s.modSnap p f).isl = s.isl := rfl
@[simp] theorem State.modSnap_per : (s.modSnap p f).per = s.per := rfl
@[simp] theorem State.modSnap_hkp : (s.modSnap p f).hkp = s.hkp := rfl
@[simp] theorem State.modSnap_cru : (s.modSnap p f).cru = s.cru := rfl
@[simp] theorem State.modSnap_qrs : (s.modSnap p f).qrs = s.qrs := rfl
@[simp] theorem State.modSnap_rcp : (s.modSnap p f).rcp = s.rcp := rfl
@[simp] theorem State.modSnap_parts : (s.modSnap p f).parts = s.parts := rfl
@[simp] theorem State.modSnap_racks : (s.modSnap p f).racks = s.racks := rfl
@[simp] theorem State.modSnap_gov : (s.modSnap p f).gov = s.gov := rfl
@[simp] theorem State.modSnap_knd : (s.modSnap p f).knd = s.knd := rfl
@[simp] theorem State.modSnap_hbm : (s.modSnap p f).hbm = s.hbm := rfl
@[simp] theorem State.modSnap_cxl : (s.modSnap p f).cxl = s.cxl := rfl
@[simp] theorem State.modSnap_lnk : (s.modSnap p f).lnk = s.lnk := rfl
@[simp] theorem State.modSnap_rcv : (s.modSnap p f).rcv = s.rcv := rfl
@[simp] theorem State.modSnap_rreg : (s.modSnap p f).rreg = s.rreg := rfl
@[simp] theorem State.modSnap_dev : (s.modSnap p f).dev = s.dev := rfl
@[simp] theorem State.modSnap_trc : (s.modSnap p f).trc = s.trc := rfl
@[simp] theorem State.modSnap_inbox : (s.modSnap p f).inbox = s.inbox := rfl
@[simp] theorem State.modSnap_signals : (s.modSnap p f).signals = s.signals := rfl
@[simp] theorem State.modSnap_sent : (s.modSnap p f).sent = s.sent := rfl
@[simp] theorem State.modSnap_freeCtr : (s.modSnap p f).freeCtr = s.freeCtr := rfl
end modSnap

section setRecov
variable (s : State) (p : Nat) (v : RcvSt)
@[simp] theorem State.setRecov_pending : (s.setRecov p v).pending = s.pending := rfl
@[simp] theorem State.setRecov_mem : (s.setRecov p v).mem = s.mem := rfl
@[simp] theorem State.setRecov_poison : (s.setRecov p v).poison = s.poison := rfl
@[simp] theorem State.setRecov_secded : (s.setRecov p v).secded = s.secded := rfl
@[simp] theorem State.setRecov_isl : (s.setRecov p v).isl = s.isl := rfl
@[simp] theorem State.setRecov_per : (s.setRecov p v).per = s.per := rfl
@[simp] theorem State.setRecov_hkp : (s.setRecov p v).hkp = s.hkp := rfl
@[simp] theorem State.setRecov_cru : (s.setRecov p v).cru = s.cru := rfl
@[simp] theorem State.setRecov_qrs : (s.setRecov p v).qrs = s.qrs := rfl
@[simp] theorem State.setRecov_rcp : (s.setRecov p v).rcp = s.rcp := rfl
@[simp] theorem State.setRecov_parts : (s.setRecov p v).parts = s.parts := rfl
@[simp] theorem State.setRecov_racks : (s.setRecov p v).racks = s.racks := rfl
@[simp] theorem State.setRecov_gov : (s.setRecov p v).gov = s.gov := rfl
@[simp] theorem State.setRecov_knd : (s.setRecov p v).knd = s.knd := rfl
@[simp] theorem State.setRecov_hbm : (s.setRecov p v).hbm = s.hbm := rfl
@[simp] theorem State.setRecov_cxl : (s.setRecov p v).cxl = s.cxl := rfl
@[simp] theorem State.setRecov_lnk : (s.setRecov p v).lnk = s.lnk := rfl
@[simp] theorem State.setRecov_snp : (s.setRecov p v).snp = s.snp := rfl
@[simp] theorem State.setRecov_rreg : (s.setRecov p v).rreg = s.rreg := rfl
@[simp] theorem State.setRecov_dev : (s.setRecov p v).dev = s.dev := rfl
@[simp] theorem State.setRecov_trc : (s.setRecov p v).trc = s.trc := rfl
@[simp] theorem State.setRecov_inbox : (s.setRecov p v).inbox = s.inbox := rfl
@[simp] theorem State.setRecov_signals : (s.setRecov p v).signals = s.signals := rfl
@[simp] theorem State.setRecov_sent : (s.setRecov p v).sent = s.sent := rfl
@[simp] theorem State.setRecov_freeCtr : (s.setRecov p v).freeCtr = s.freeCtr := rfl
end setRecov

section modRecov
variable (s : State) (p : Nat) (f : RcvSt → RcvSt)
@[simp] theorem State.modRecov_pending : (s.modRecov p f).pending = s.pending := rfl
@[simp] theorem State.modRecov_mem : (s.modRecov p f).mem = s.mem := rfl
@[simp] theorem State.modRecov_poison : (s.modRecov p f).poison = s.poison := rfl
@[simp] theorem State.modRecov_secded : (s.modRecov p f).secded = s.secded := rfl
@[simp] theorem State.modRecov_isl : (s.modRecov p f).isl = s.isl := rfl
@[simp] theorem State.modRecov_per : (s.modRecov p f).per = s.per := rfl
@[simp] theorem State.modRecov_hkp : (s.modRecov p f).hkp = s.hkp := rfl
@[simp] theorem State.modRecov_cru : (s.modRecov p f).cru = s.cru := rfl
@[simp] theorem State.modRecov_qrs : (s.modRecov p f).qrs = s.qrs := rfl
@[simp] theorem State.modRecov_rcp : (s.modRecov p f).rcp = s.rcp := rfl
@[simp] theorem State.modRecov_parts : (s.modRecov p f).parts = s.parts := rfl
@[simp] theorem State.modRecov_racks : (s.modRecov p f).racks = s.racks := rfl
@[simp] theorem State.modRecov_gov : (s.modRecov p f).gov = s.gov := rfl
@[simp] theorem State.modRecov_knd : (s.modRecov p f).knd = s.knd := rfl
@[simp] theorem State.modRecov_hbm : (s.modRecov p f).hbm = s.hbm := rfl
@[simp] theorem State.modRecov_cxl : (s.modRecov p f).cxl = s.cxl := rfl
@[simp] theorem State.modRecov_lnk : (s.modRecov p f).lnk = s.lnk := rfl
@[simp] theorem State.modRecov_snp : (s.modRecov p f).snp = s.snp := rfl
@[simp] theorem State.modRecov_rreg : (s.modRecov p f).rreg = s.rreg := rfl
@[simp] theorem State.modRecov_dev : (s.modRecov p f).dev = s.dev := rfl
@[simp] theorem State.modRecov_trc : (s.modRecov p f).trc = s.trc := rfl
@[simp] theorem State.modRecov_inbox : (s.modRecov p f).inbox = s.inbox := rfl
@[simp] theorem State.modRecov_signals : (s.modRecov p f).signals = s.signals := rfl
@[simp] theorem State.modRecov_sent : (s.modRecov p f).sent = s.sent := rfl
@[simp] theorem State.modRecov_freeCtr : (s.modRecov p f).freeCtr = s.freeCtr := rfl
end modRecov

section setLedger
variable (s : State) (i : Nat) (v : LedgerEntry)
@[simp] theorem State.setLedger_pending : (s.setLedger i v).pending = s.pending := rfl
@[simp] theorem State.setLedger_mem : (s.setLedger i v).mem = s.mem := rfl
@[simp] theorem State.setLedger_poison : (s.setLedger i v).poison = s.poison := rfl
@[simp] theorem State.setLedger_secded : (s.setLedger i v).secded = s.secded := rfl
@[simp] theorem State.setLedger_isl : (s.setLedger i v).isl = s.isl := rfl
@[simp] theorem State.setLedger_per : (s.setLedger i v).per = s.per := rfl
@[simp] theorem State.setLedger_hkp : (s.setLedger i v).hkp = s.hkp := rfl
@[simp] theorem State.setLedger_cru : (s.setLedger i v).cru = s.cru := rfl
@[simp] theorem State.setLedger_qrs : (s.setLedger i v).qrs = s.qrs := rfl
@[simp] theorem State.setLedger_rcp : (s.setLedger i v).rcp = s.rcp := rfl
@[simp] theorem State.setLedger_parts : (s.setLedger i v).parts = s.parts := rfl
@[simp] theorem State.setLedger_racks : (s.setLedger i v).racks = s.racks := rfl
@[simp] theorem State.setLedger_knd : (s.setLedger i v).knd = s.knd := rfl
@[simp] theorem State.setLedger_hbm : (s.setLedger i v).hbm = s.hbm := rfl
@[simp] theorem State.setLedger_cxl : (s.setLedger i v).cxl = s.cxl := rfl
@[simp] theorem State.setLedger_lnk : (s.setLedger i v).lnk = s.lnk := rfl
@[simp] theorem State.setLedger_snp : (s.setLedger i v).snp = s.snp := rfl
@[simp] theorem State.setLedger_rcv : (s.setLedger i v).rcv = s.rcv := rfl
@[simp] theorem State.setLedger_rreg : (s.setLedger i v).rreg = s.rreg := rfl
@[simp] theorem State.setLedger_dev : (s.setLedger i v).dev = s.dev := rfl
@[simp] theorem State.setLedger_trc : (s.setLedger i v).trc = s.trc := rfl
@[simp] theorem State.setLedger_inbox : (s.setLedger i v).inbox = s.inbox := rfl
@[simp] theorem State.setLedger_signals : (s.setLedger i v).signals = s.signals := rfl
@[simp] theorem State.setLedger_sent : (s.setLedger i v).sent = s.sent := rfl
@[simp] theorem State.setLedger_freeCtr : (s.setLedger i v).freeCtr = s.freeCtr := rfl
end setLedger

section setGroup
variable (s : State) (g : Nat) (v : GroupSt)
@[simp] theorem State.setGroup_pending : (s.setGroup g v).pending = s.pending := rfl
@[simp] theorem State.setGroup_mem : (s.setGroup g v).mem = s.mem := rfl
@[simp] theorem State.setGroup_poison : (s.setGroup g v).poison = s.poison := rfl
@[simp] theorem State.setGroup_secded : (s.setGroup g v).secded = s.secded := rfl
@[simp] theorem State.setGroup_isl : (s.setGroup g v).isl = s.isl := rfl
@[simp] theorem State.setGroup_per : (s.setGroup g v).per = s.per := rfl
@[simp] theorem State.setGroup_hkp : (s.setGroup g v).hkp = s.hkp := rfl
@[simp] theorem State.setGroup_cru : (s.setGroup g v).cru = s.cru := rfl
@[simp] theorem State.setGroup_qrs : (s.setGroup g v).qrs = s.qrs := rfl
@[simp] theorem State.setGroup_rcp : (s.setGroup g v).rcp = s.rcp := rfl
@[simp] theorem State.setGroup_parts : (s.setGroup g v).parts = s.parts := rfl
@[simp] theorem State.setGroup_racks : (s.setGroup g v).racks = s.racks := rfl
@[simp] theorem State.setGroup_knd : (s.setGroup g v).knd = s.knd := rfl
@[simp] theorem State.setGroup_hbm : (s.setGroup g v).hbm = s.hbm := rfl
@[simp] theorem State.setGroup_cxl : (s.setGroup g v).cxl = s.cxl := rfl
@[simp] theorem State.setGroup_lnk : (s.setGroup g v).lnk = s.lnk := rfl
@[simp] theorem State.setGroup_snp : (s.setGroup g v).snp = s.snp := rfl
@[simp] theorem State.setGroup_rcv : (s.setGroup g v).rcv = s.rcv := rfl
@[simp] theorem State.setGroup_rreg : (s.setGroup g v).rreg = s.rreg := rfl
@[simp] theorem State.setGroup_dev : (s.setGroup g v).dev = s.dev := rfl
@[simp] theorem State.setGroup_trc : (s.setGroup g v).trc = s.trc := rfl
@[simp] theorem State.setGroup_inbox : (s.setGroup g v).inbox = s.inbox := rfl
@[simp] theorem State.setGroup_signals : (s.setGroup g v).signals = s.signals := rfl
@[simp] theorem State.setGroup_sent : (s.setGroup g v).sent = s.sent := rfl
@[simp] theorem State.setGroup_freeCtr : (s.setGroup g v).freeCtr = s.freeCtr := rfl
end setGroup

section modGroup
variable (s : State) (g : Nat) (f : GroupSt → GroupSt)
@[simp] theorem State.modGroup_pending : (s.modGroup g f).pending = s.pending := rfl
@[simp] theorem State.modGroup_mem : (s.modGroup g f).mem = s.mem := rfl
@[simp] theorem State.modGroup_poison : (s.modGroup g f).poison = s.poison := rfl
@[simp] theorem State.modGroup_secded : (s.modGroup g f).secded = s.secded := rfl
@[simp] theorem State.modGroup_isl : (s.modGroup g f).isl = s.isl := rfl
@[simp] theorem State.modGroup_per : (s.modGroup g f).per = s.per := rfl
@[simp] theorem State.modGroup_hkp : (s.modGroup g f).hkp = s.hkp := rfl
@[simp] theorem State.modGroup_cru : (s.modGroup g f).cru = s.cru := rfl
@[simp] theorem State.modGroup_qrs : (s.modGroup g f).qrs = s.qrs := rfl
@[simp] theorem State.modGroup_rcp : (s.modGroup g f).rcp = s.rcp := rfl
@[simp] theorem State.modGroup_parts : (s.modGroup g f).parts = s.parts := rfl
@[simp] theorem State.modGroup_racks : (s.modGroup g f).racks = s.racks := rfl
@[simp] theorem State.modGroup_knd : (s.modGroup g f).knd = s.knd := rfl
@[simp] theorem State.modGroup_hbm : (s.modGroup g f).hbm = s.hbm := rfl
@[simp] theorem State.modGroup_cxl : (s.modGroup g f).cxl = s.cxl := rfl
@[simp] theorem State.modGroup_lnk : (s.modGroup g f).lnk = s.lnk := rfl
@[simp] theorem State.modGroup_snp : (s.modGroup g f).snp = s.snp := rfl
@[simp] theorem State.modGroup_rcv : (s.modGroup g f).rcv = s.rcv := rfl
@[simp] theorem State.modGroup_rreg : (s.modGroup g f).rreg = s.rreg := rfl
@[simp] theorem State.modGroup_dev : (s.modGroup g f).dev = s.dev := rfl
@[simp] theorem State.modGroup_trc : (s.modGroup g f).trc = s.trc := rfl
@[simp] theorem State.modGroup_inbox : (s.modGroup g f).inbox = s.inbox := rfl
@[simp] theorem State.modGroup_signals : (s.modGroup g f).signals = s.signals := rfl
@[simp] theorem State.modGroup_sent : (s.modGroup g f).sent = s.sent := rfl
@[simp] theorem State.modGroup_freeCtr : (s.modGroup g f).freeCtr = s.freeCtr := rfl
end modGroup

section modKndPort
variable (s : State) (n : Nat) (f : KndPort → KndPort)
@[simp] theorem State.modKndPort_pending : (s.modKndPort n f).pending = s.pending := rfl
@[simp] theorem State.modKndPort_mem : (s.modKndPort n f).mem = s.mem := rfl
@[simp] theorem State.modKndPort_poison : (s.modKndPort n f).poison = s.poison := rfl
@[simp] theorem State.modKndPort_secded : (s.modKndPort n f).secded = s.secded := rfl
@[simp] theorem State.modKndPort_isl : (s.modKndPort n f).isl = s.isl := rfl
@[simp] theorem State.modKndPort_per : (s.modKndPort n f).per = s.per := rfl
@[simp] theorem State.modKndPort_hkp : (s.modKndPort n f).hkp = s.hkp := rfl
@[simp] theorem State.modKndPort_cru : (s.modKndPort n f).cru = s.cru := rfl
@[simp] theorem State.modKndPort_qrs : (s.modKndPort n f).qrs = s.qrs := rfl
@[simp] theorem State.modKndPort_rcp : (s.modKndPort n f).rcp = s.rcp := rfl
@[simp] theorem State.modKndPort_parts : (s.modKndPort n f).parts = s.parts := rfl
@[simp] theorem State.modKndPort_racks : (s.modKndPort n f).racks = s.racks := rfl
@[simp] theorem State.modKndPort_gov : (s.modKndPort n f).gov = s.gov := rfl
@[simp] theorem State.modKndPort_hbm : (s.modKndPort n f).hbm = s.hbm := rfl
@[simp] theorem State.modKndPort_cxl : (s.modKndPort n f).cxl = s.cxl := rfl
@[simp] theorem State.modKndPort_lnk : (s.modKndPort n f).lnk = s.lnk := rfl
@[simp] theorem State.modKndPort_snp : (s.modKndPort n f).snp = s.snp := rfl
@[simp] theorem State.modKndPort_rcv : (s.modKndPort n f).rcv = s.rcv := rfl
@[simp] theorem State.modKndPort_rreg : (s.modKndPort n f).rreg = s.rreg := rfl
@[simp] theorem State.modKndPort_dev : (s.modKndPort n f).dev = s.dev := rfl
@[simp] theorem State.modKndPort_trc : (s.modKndPort n f).trc = s.trc := rfl
@[simp] theorem State.modKndPort_inbox : (s.modKndPort n f).inbox = s.inbox := rfl
@[simp] theorem State.modKndPort_signals : (s.modKndPort n f).signals = s.signals := rfl
@[simp] theorem State.modKndPort_sent : (s.modKndPort n f).sent = s.sent := rfl
@[simp] theorem State.modKndPort_freeCtr : (s.modKndPort n f).freeCtr = s.freeCtr := rfl
end modKndPort

section emit
variable (s : State) (o : Out)
@[simp] theorem State.emit_pending : (s.emit o).pending = s.pending := rfl
@[simp] theorem State.emit_mem : (s.emit o).mem = s.mem := rfl
@[simp] theorem State.emit_poison : (s.emit o).poison = s.poison := rfl
@[simp] theorem State.emit_secded : (s.emit o).secded = s.secded := rfl
@[simp] theorem State.emit_isl : (s.emit o).isl = s.isl := rfl
@[simp] theorem State.emit_per : (s.emit o).per = s.per := rfl
@[simp] theorem State.emit_hkp : (s.emit o).hkp = s.hkp := rfl
@[simp] theorem State.emit_cru : (s.emit o).cru = s.cru := rfl
@[simp] theorem State.emit_qrs : (s.emit o).qrs = s.qrs.send o := rfl
@[simp] theorem State.emit_sent : (s.emit o).sent = s.sent ++ [o] := rfl
@[simp] theorem State.emit_rcp : (s.emit o).rcp = s.rcp := rfl
@[simp] theorem State.emit_parts : (s.emit o).parts = s.parts := rfl
@[simp] theorem State.emit_racks : (s.emit o).racks = s.racks := rfl
@[simp] theorem State.emit_gov : (s.emit o).gov = s.gov := rfl
@[simp] theorem State.emit_knd : (s.emit o).knd = s.knd := rfl
@[simp] theorem State.emit_hbm : (s.emit o).hbm = s.hbm := rfl
@[simp] theorem State.emit_cxl : (s.emit o).cxl = s.cxl := rfl
@[simp] theorem State.emit_lnk : (s.emit o).lnk = s.lnk := rfl
@[simp] theorem State.emit_snp : (s.emit o).snp = s.snp := rfl
@[simp] theorem State.emit_rcv : (s.emit o).rcv = s.rcv := rfl
@[simp] theorem State.emit_rreg : (s.emit o).rreg = s.rreg := rfl
@[simp] theorem State.emit_dev : (s.emit o).dev = s.dev := rfl
@[simp] theorem State.emit_trc : (s.emit o).trc = s.trc := rfl
@[simp] theorem State.emit_inbox : (s.emit o).inbox = s.inbox := rfl
@[simp] theorem State.emit_signals : (s.emit o).signals = s.signals := rfl
@[simp] theorem State.emit_freeCtr : (s.emit o).freeCtr = s.freeCtr := rfl
end emit

section complete
variable (s : State) (q : Nat) (h : BitVec 16) (st : BitVec 8) (d : BitVec 32) (x : Word64)
@[simp] theorem State.complete_pending : (s.complete q h st d x).pending = s.pending := rfl
@[simp] theorem State.complete_mem : (s.complete q h st d x).mem = s.mem := rfl
@[simp] theorem State.complete_poison : (s.complete q h st d x).poison = s.poison := rfl
@[simp] theorem State.complete_secded : (s.complete q h st d x).secded = s.secded := rfl
@[simp] theorem State.complete_isl : (s.complete q h st d x).isl = s.isl := rfl
@[simp] theorem State.complete_per : (s.complete q h st d x).per = s.per := rfl
@[simp] theorem State.complete_hkp : (s.complete q h st d x).hkp = s.hkp := rfl
@[simp] theorem State.complete_cru : (s.complete q h st d x).cru = s.cru := rfl
@[simp] theorem State.complete_qrs : (s.complete q h st d x).qrs = s.qrs.send (.completion q h st d x) := rfl
@[simp] theorem State.complete_sent : (s.complete q h st d x).sent = s.sent ++ [.completion q h st d x] := rfl
@[simp] theorem State.complete_rcp : (s.complete q h st d x).rcp = s.rcp := rfl
@[simp] theorem State.complete_parts : (s.complete q h st d x).parts = s.parts := rfl
@[simp] theorem State.complete_racks : (s.complete q h st d x).racks = s.racks := rfl
@[simp] theorem State.complete_gov : (s.complete q h st d x).gov = s.gov := rfl
@[simp] theorem State.complete_knd : (s.complete q h st d x).knd = s.knd := rfl
@[simp] theorem State.complete_hbm : (s.complete q h st d x).hbm = s.hbm := rfl
@[simp] theorem State.complete_cxl : (s.complete q h st d x).cxl = s.cxl := rfl
@[simp] theorem State.complete_lnk : (s.complete q h st d x).lnk = s.lnk := rfl
@[simp] theorem State.complete_snp : (s.complete q h st d x).snp = s.snp := rfl
@[simp] theorem State.complete_rcv : (s.complete q h st d x).rcv = s.rcv := rfl
@[simp] theorem State.complete_rreg : (s.complete q h st d x).rreg = s.rreg := rfl
@[simp] theorem State.complete_dev : (s.complete q h st d x).dev = s.dev := rfl
@[simp] theorem State.complete_trc : (s.complete q h st d x).trc = s.trc := rfl
@[simp] theorem State.complete_inbox : (s.complete q h st d x).inbox = s.inbox := rfl
@[simp] theorem State.complete_signals : (s.complete q h st d x).signals = s.signals := rfl
@[simp] theorem State.complete_freeCtr : (s.complete q h st d x).freeCtr = s.freeCtr := rfl
end complete

section setByte
variable (s : State) (a : Nat) (b : Byte)
@[simp] theorem State.setByte_pending : (s.setByte a b).pending = s.pending := rfl
@[simp] theorem State.setByte_poison : (s.setByte a b).poison = s.poison := rfl
@[simp] theorem State.setByte_secded : (s.setByte a b).secded = s.secded := rfl
@[simp] theorem State.setByte_isl : (s.setByte a b).isl = s.isl := rfl
@[simp] theorem State.setByte_per : (s.setByte a b).per = s.per := rfl
@[simp] theorem State.setByte_hkp : (s.setByte a b).hkp = s.hkp := rfl
@[simp] theorem State.setByte_cru : (s.setByte a b).cru = s.cru := rfl
@[simp] theorem State.setByte_qrs : (s.setByte a b).qrs = s.qrs := rfl
@[simp] theorem State.setByte_rcp : (s.setByte a b).rcp = s.rcp := rfl
@[simp] theorem State.setByte_parts : (s.setByte a b).parts = s.parts := rfl
@[simp] theorem State.setByte_racks : (s.setByte a b).racks = s.racks := rfl
@[simp] theorem State.setByte_gov : (s.setByte a b).gov = s.gov := rfl
@[simp] theorem State.setByte_knd : (s.setByte a b).knd = s.knd := rfl
@[simp] theorem State.setByte_hbm : (s.setByte a b).hbm = s.hbm := rfl
@[simp] theorem State.setByte_cxl : (s.setByte a b).cxl = s.cxl := rfl
@[simp] theorem State.setByte_lnk : (s.setByte a b).lnk = s.lnk := rfl
@[simp] theorem State.setByte_snp : (s.setByte a b).snp = s.snp := rfl
@[simp] theorem State.setByte_rcv : (s.setByte a b).rcv = s.rcv := rfl
@[simp] theorem State.setByte_rreg : (s.setByte a b).rreg = s.rreg := rfl
@[simp] theorem State.setByte_dev : (s.setByte a b).dev = s.dev := rfl
@[simp] theorem State.setByte_trc : (s.setByte a b).trc = s.trc := rfl
@[simp] theorem State.setByte_inbox : (s.setByte a b).inbox = s.inbox := rfl
@[simp] theorem State.setByte_signals : (s.setByte a b).signals = s.signals := rfl
@[simp] theorem State.setByte_sent : (s.setByte a b).sent = s.sent := rfl
@[simp] theorem State.setByte_freeCtr : (s.setByte a b).freeCtr = s.freeCtr := rfl
end setByte

/-! ## Sending a message touches the transmit side alone -/

/-- Forming frames moves messages from `out` to `frames` and counts TX; it leaves the rest of Queros alone. -/
theorem Qrs.pump_eq (f : Nat) (t : Qrs) :
    t.pump f = { t with out := (t.pump f).out, txNext := (t.pump f).txNext, frames := (t.pump f).frames } := by
  induction f generalizing t with
  | zero => rfl
  | succ f ih =>
    simp only [Qrs.pump]
    split
    · rfl
    · split
      · rfl
      · rw [ih]

theorem Qrs.send_eq (t : Qrs) (o : Out) :
    t.send o = { t with out := (t.send o).out, txNext := (t.send o).txNext, frames := (t.send o).frames } := by
  unfold Qrs.send
  split
  · rfl
  · unfold Qrs.drain; rw [Qrs.pump_eq]

section send
variable (t : Qrs) (o : Out)
@[simp] theorem Qrs.send_state : (t.send o).state = t.state := by rw [Qrs.send_eq]
@[simp] theorem Qrs.send_width : (t.send o).width = t.width := by rw [Qrs.send_eq]
@[simp] theorem Qrs.send_resent : (t.send o).resent = t.resent := by rw [Qrs.send_eq]
@[simp] theorem Qrs.send_retrains : (t.send o).retrains = t.retrains := by rw [Qrs.send_eq]
@[simp] theorem Qrs.send_rxNext : (t.send o).rxNext = t.rxNext := by rw [Qrs.send_eq]
@[simp] theorem Qrs.send_granted : (t.send o).granted = t.granted := by rw [Qrs.send_eq]
@[simp] theorem Qrs.send_fails : (t.send o).fails = t.fails := by rw [Qrs.send_eq]
@[simp] theorem Qrs.send_asm : (t.send o).asm = t.asm := by rw [Qrs.send_eq]
@[simp] theorem Qrs.send_helloSent : (t.send o).helloSent = t.helloSent := by rw [Qrs.send_eq]
@[simp] theorem Qrs.send_helloSeen : (t.send o).helloSeen = t.helloSeen := by rw [Qrs.send_eq]
@[simp] theorem Qrs.send_evtCredits : (t.send o).evtCredits = t.evtCredits := by rw [Qrs.send_eq]
@[simp] theorem Qrs.send_readCredits : (t.send o).readCredits = t.readCredits := by rw [Qrs.send_eq]
@[simp] theorem Qrs.send_queues : (t.send o).queues = t.queues := by rw [Qrs.send_eq]
@[simp] theorem Qrs.send_windows : (t.send o).windows = t.windows := by rw [Qrs.send_eq]
@[simp] theorem Qrs.send_rr : (t.send o).rr = t.rr := by rw [Qrs.send_eq]
@[simp] theorem Qrs.send_evBuf : (t.send o).evBuf = t.evBuf := by rw [Qrs.send_eq]
@[simp] theorem Qrs.send_dropped : (t.send o).dropped = t.dropped := by rw [Qrs.send_eq]
@[simp] theorem Qrs.send_lostPend : (t.send o).lostPend = t.lostPend := by rw [Qrs.send_eq]
@[simp] theorem Qrs.send_notcrit : (t.send o).notcrit = t.notcrit := by rw [Qrs.send_eq]
@[simp] theorem Qrs.send_badtag : (t.send o).badtag = t.badtag := by rw [Qrs.send_eq]
@[simp] theorem Qrs.send_replays : (t.send o).replays = t.replays := by rw [Qrs.send_eq]
@[simp] theorem Qrs.send_nokey : (t.send o).nokey = t.nokey := by rw [Qrs.send_eq]
end send

section emitQueros
variable (s : State) (o : Out)
@[simp] theorem State.emit_queue (q : Nat) : (s.emit o).queue q = s.queue q := by simp [State.queue]
@[simp] theorem State.emit_window (w : Nat) : (s.emit o).window w = s.window w := by simp [State.window]
@[simp] theorem State.emit_island (n : Nat) : (s.emit o).island n = s.island n := rfl
@[simp] theorem State.emit_part (p : Nat) : (s.emit o).part p = s.part p := rfl
@[simp] theorem State.emit_rack (n : Nat) : (s.emit o).rack n = s.rack n := rfl
@[simp] theorem State.emit_port (n : Nat) : (s.emit o).port n = s.port n := rfl
@[simp] theorem State.emit_byteAt (a : Nat) : (s.emit o).byteAt a = s.byteAt a := rfl
@[simp] theorem State.emit_isOn (n : Nat) : (s.emit o).isOn n = s.isOn n := rfl
end emitQueros

/-! ## A part reads as it was last set, and setting it leaves its neighbours alone -/

@[simp] theorem State.island_setIsland_same (s : State) (n : Nat) (v : IslandSt) : (s.setIsland n v).island n = v :=
  tget_tset_same _ _ _ _
theorem State.island_setIsland_ne (s : State) (j n : Nat) (v : IslandSt) (h : j ≠ n) : (s.setIsland n v).island j = s.island j :=
  tget_tset_ne _ _ _ _ h
@[simp] theorem State.part_setPart_same (s : State) (n : Nat) (v : PartSt) : (s.setPart n v).part n = v :=
  tget_tset_same _ _ _ _
theorem State.part_setPart_ne (s : State) (j n : Nat) (v : PartSt) (h : j ≠ n) : (s.setPart n v).part j = s.part j :=
  tget_tset_ne _ _ _ _ h
@[simp] theorem State.rack_setRack_same (s : State) (n : Nat) (v : RackSt) : (s.setRack n v).rack n = v :=
  tget_tset_same _ _ _ _
theorem State.rack_setRack_ne (s : State) (j n : Nat) (v : RackSt) (h : j ≠ n) : (s.setRack n v).rack j = s.rack j :=
  tget_tset_ne _ _ _ _ h
@[simp] theorem State.stack_setStack_same (s : State) (n : Nat) (v : StackSt) : (s.setStack n v).stack n = v :=
  tget_tset_same _ _ _ _
theorem State.stack_setStack_ne (s : State) (j n : Nat) (v : StackSt) (h : j ≠ n) : (s.setStack n v).stack j = s.stack j :=
  tget_tset_ne _ _ _ _ h
@[simp] theorem State.cxlPort_setCxlPort_same (s : State) (n : Nat) (v : CxlSt) : (s.setCxlPort n v).cxlPort n = v :=
  tget_tset_same _ _ _ _
theorem State.cxlPort_setCxlPort_ne (s : State) (j n : Nat) (v : CxlSt) (h : j ≠ n) : (s.setCxlPort n v).cxlPort j = s.cxlPort j :=
  tget_tset_ne _ _ _ _ h
@[simp] theorem State.port_setPort_same (s : State) (n : Nat) (v : PortSt) : (s.setPort n v).port n = v :=
  tget_tset_same _ _ _ _
theorem State.port_setPort_ne (s : State) (j n : Nat) (v : PortSt) (h : j ≠ n) : (s.setPort n v).port j = s.port j :=
  tget_tset_ne _ _ _ _ h
@[simp] theorem State.queue_setQueue_same (s : State) (n : Nat) (v : Queue) : (s.setQueue n v).queue n = v :=
  tget_tset_same _ _ _ _
theorem State.queue_setQueue_ne (s : State) (j n : Nat) (v : Queue) (h : j ≠ n) : (s.setQueue n v).queue j = s.queue j :=
  tget_tset_ne _ _ _ _ h
@[simp] theorem State.window_setWindow_same (s : State) (n : Nat) (v : Window) : (s.setWindow n v).window n = v :=
  tget_tset_same _ _ _ _
theorem State.window_setWindow_ne (s : State) (j n : Nat) (v : Window) (h : j ≠ n) : (s.setWindow n v).window j = s.window j :=
  tget_tset_ne _ _ _ _ h
@[simp] theorem State.snap_setSnap_same (s : State) (n : Nat) (v : SnapSt) : (s.setSnap n v).snap n = v :=
  tget_tset_same _ _ _ _
theorem State.snap_setSnap_ne (s : State) (j n : Nat) (v : SnapSt) (h : j ≠ n) : (s.setSnap n v).snap j = s.snap j :=
  tget_tset_ne _ _ _ _ h
@[simp] theorem State.recov_setRecov_same (s : State) (n : Nat) (v : RcvSt) : (s.setRecov n v).recov n = v :=
  tget_tset_same _ _ _ _
theorem State.recov_setRecov_ne (s : State) (j n : Nat) (v : RcvSt) (h : j ≠ n) : (s.setRecov n v).recov j = s.recov j :=
  tget_tset_ne _ _ _ _ h
@[simp] theorem State.ledgerEnt_setLedger_same (s : State) (n : Nat) (v : LedgerEntry) : (s.setLedger n v).ledgerEnt n = v :=
  tget_tset_same _ _ _ _
theorem State.ledgerEnt_setLedger_ne (s : State) (j n : Nat) (v : LedgerEntry) (h : j ≠ n) : (s.setLedger n v).ledgerEnt j = s.ledgerEnt j :=
  tget_tset_ne _ _ _ _ h
@[simp] theorem State.group_setGroup_same (s : State) (n : Nat) (v : GroupSt) : (s.setGroup n v).group n = v :=
  tget_tset_same _ _ _ _
theorem State.group_setGroup_ne (s : State) (j n : Nat) (v : GroupSt) (h : j ≠ n) : (s.setGroup n v).group j = s.group j :=
  tget_tset_ne _ _ _ _ h
@[simp] theorem State.island_modIsland_same (s : State) (n : Nat) (f : IslandSt → IslandSt) : (s.modIsland n f).island n = f (s.island n) :=
  tget_tset_same _ _ _ _
theorem State.island_modIsland_ne (s : State) (j n : Nat) (f : IslandSt → IslandSt) (h : j ≠ n) :
    (s.modIsland n f).island j = s.island j := tget_tset_ne _ _ _ _ h
@[simp] theorem State.part_modPart_same (s : State) (n : Nat) (f : PartSt → PartSt) : (s.modPart n f).part n = f (s.part n) :=
  tget_tset_same _ _ _ _
theorem State.part_modPart_ne (s : State) (j n : Nat) (f : PartSt → PartSt) (h : j ≠ n) :
    (s.modPart n f).part j = s.part j := tget_tset_ne _ _ _ _ h
@[simp] theorem State.rack_modRack_same (s : State) (n : Nat) (f : RackSt → RackSt) : (s.modRack n f).rack n = f (s.rack n) :=
  tget_tset_same _ _ _ _
theorem State.rack_modRack_ne (s : State) (j n : Nat) (f : RackSt → RackSt) (h : j ≠ n) :
    (s.modRack n f).rack j = s.rack j := tget_tset_ne _ _ _ _ h
@[simp] theorem State.stack_modStack_same (s : State) (n : Nat) (f : StackSt → StackSt) : (s.modStack n f).stack n = f (s.stack n) :=
  tget_tset_same _ _ _ _
theorem State.stack_modStack_ne (s : State) (j n : Nat) (f : StackSt → StackSt) (h : j ≠ n) :
    (s.modStack n f).stack j = s.stack j := tget_tset_ne _ _ _ _ h
@[simp] theorem State.cxlPort_modCxlPort_same (s : State) (n : Nat) (f : CxlSt → CxlSt) : (s.modCxlPort n f).cxlPort n = f (s.cxlPort n) :=
  tget_tset_same _ _ _ _
theorem State.cxlPort_modCxlPort_ne (s : State) (j n : Nat) (f : CxlSt → CxlSt) (h : j ≠ n) :
    (s.modCxlPort n f).cxlPort j = s.cxlPort j := tget_tset_ne _ _ _ _ h
@[simp] theorem State.port_modPort_same (s : State) (n : Nat) (f : PortSt → PortSt) : (s.modPort n f).port n = f (s.port n) :=
  tget_tset_same _ _ _ _
theorem State.port_modPort_ne (s : State) (j n : Nat) (f : PortSt → PortSt) (h : j ≠ n) :
    (s.modPort n f).port j = s.port j := tget_tset_ne _ _ _ _ h
@[simp] theorem State.queue_modQueue_same (s : State) (n : Nat) (f : Queue → Queue) : (s.modQueue n f).queue n = f (s.queue n) :=
  tget_tset_same _ _ _ _
theorem State.queue_modQueue_ne (s : State) (j n : Nat) (f : Queue → Queue) (h : j ≠ n) :
    (s.modQueue n f).queue j = s.queue j := tget_tset_ne _ _ _ _ h
@[simp] theorem State.window_modWindow_same (s : State) (n : Nat) (f : Window → Window) : (s.modWindow n f).window n = f (s.window n) :=
  tget_tset_same _ _ _ _
theorem State.window_modWindow_ne (s : State) (j n : Nat) (f : Window → Window) (h : j ≠ n) :
    (s.modWindow n f).window j = s.window j := tget_tset_ne _ _ _ _ h
@[simp] theorem State.snap_modSnap_same (s : State) (n : Nat) (f : SnapSt → SnapSt) : (s.modSnap n f).snap n = f (s.snap n) :=
  tget_tset_same _ _ _ _
theorem State.snap_modSnap_ne (s : State) (j n : Nat) (f : SnapSt → SnapSt) (h : j ≠ n) :
    (s.modSnap n f).snap j = s.snap j := tget_tset_ne _ _ _ _ h
@[simp] theorem State.recov_modRecov_same (s : State) (n : Nat) (f : RcvSt → RcvSt) : (s.modRecov n f).recov n = f (s.recov n) :=
  tget_tset_same _ _ _ _
theorem State.recov_modRecov_ne (s : State) (j n : Nat) (f : RcvSt → RcvSt) (h : j ≠ n) :
    (s.modRecov n f).recov j = s.recov j := tget_tset_ne _ _ _ _ h
@[simp] theorem State.group_modGroup_same (s : State) (n : Nat) (f : GroupSt → GroupSt) : (s.modGroup n f).group n = f (s.group n) :=
  tget_tset_same _ _ _ _
theorem State.group_modGroup_ne (s : State) (j n : Nat) (f : GroupSt → GroupSt) (h : j ≠ n) :
    (s.modGroup n f).group j = s.group j := tget_tset_ne _ _ _ _ h

end Sys2Proof.Machine
end

