-- ==== Sys2Proof/Laws/Updates.lean ====
section
/-! SUPPORT. What each update of a unit's table leaves alone: one lemma for each field of State that it does not write. -/

namespace Sys2Proof.Machine

section setBkt
variable (s : State) (v : Bkt)
@[simp] theorem State.setBkt_pending : (s.setBkt v).pending = s.pending := rfl
@[simp] theorem State.setBkt_mem : (s.setBkt v).mem = s.mem := rfl
@[simp] theorem State.setBkt_poison : (s.setBkt v).poison = s.poison := rfl
@[simp] theorem State.setBkt_secded : (s.setBkt v).secded = s.secded := rfl
@[simp] theorem State.setBkt_isl : (s.setBkt v).isl = s.isl := rfl
@[simp] theorem State.setBkt_per : (s.setBkt v).per = s.per := rfl
@[simp] theorem State.setBkt_hkp : (s.setBkt v).hkp = s.hkp := rfl
@[simp] theorem State.setBkt_cru : (s.setBkt v).cru = s.cru := rfl
@[simp] theorem State.setBkt_qrs : (s.setBkt v).qrs = s.qrs := rfl
@[simp] theorem State.setBkt_rcp : (s.setBkt v).rcp = s.rcp := rfl
@[simp] theorem State.setBkt_parts : (s.setBkt v).parts = s.parts := rfl
@[simp] theorem State.setBkt_racks : (s.setBkt v).racks = s.racks := rfl
@[simp] theorem State.setBkt_gov : (s.setBkt v).gov = s.gov := rfl
@[simp] theorem State.setBkt_hbm : (s.setBkt v).hbm = s.hbm := rfl
@[simp] theorem State.setBkt_cxl : (s.setBkt v).cxl = s.cxl := rfl
@[simp] theorem State.setBkt_lnk : (s.setBkt v).lnk = s.lnk := rfl
@[simp] theorem State.setBkt_snp : (s.setBkt v).snp = s.snp := rfl
@[simp] theorem State.setBkt_rcv : (s.setBkt v).rcv = s.rcv := rfl
@[simp] theorem State.setBkt_rreg : (s.setBkt v).rreg = s.rreg := rfl
@[simp] theorem State.setBkt_dev : (s.setBkt v).dev = s.dev := rfl
@[simp] theorem State.setBkt_trc : (s.setBkt v).trc = s.trc := rfl
@[simp] theorem State.setBkt_inbox : (s.setBkt v).inbox = s.inbox := rfl
@[simp] theorem State.setBkt_signals : (s.setBkt v).signals = s.signals := rfl
@[simp] theorem State.setBkt_sent : (s.setBkt v).sent = s.sent := rfl
@[simp] theorem State.setBkt_freeCtr : (s.setBkt v).freeCtr = s.freeCtr := rfl
end setBkt

section modBkt
variable (s : State) (b : BitVec 20) (k : Step) (f : Bkt → Bkt)
@[simp] theorem State.modBkt_pending : (s.modBkt b k f).pending = s.pending := rfl
@[simp] theorem State.modBkt_mem : (s.modBkt b k f).mem = s.mem := rfl
@[simp] theorem State.modBkt_poison : (s.modBkt b k f).poison = s.poison := rfl
@[simp] theorem State.modBkt_secded : (s.modBkt b k f).secded = s.secded := rfl
@[simp] theorem State.modBkt_isl : (s.modBkt b k f).isl = s.isl := rfl
@[simp] theorem State.modBkt_per : (s.modBkt b k f).per = s.per := rfl
@[simp] theorem State.modBkt_hkp : (s.modBkt b k f).hkp = s.hkp := rfl
@[simp] theorem State.modBkt_cru : (s.modBkt b k f).cru = s.cru := rfl
@[simp] theorem State.modBkt_qrs : (s.modBkt b k f).qrs = s.qrs := rfl
@[simp] theorem State.modBkt_rcp : (s.modBkt b k f).rcp = s.rcp := rfl
@[simp] theorem State.modBkt_parts : (s.modBkt b k f).parts = s.parts := rfl
@[simp] theorem State.modBkt_racks : (s.modBkt b k f).racks = s.racks := rfl
@[simp] theorem State.modBkt_gov : (s.modBkt b k f).gov = s.gov := rfl
@[simp] theorem State.modBkt_hbm : (s.modBkt b k f).hbm = s.hbm := rfl
@[simp] theorem State.modBkt_cxl : (s.modBkt b k f).cxl = s.cxl := rfl
@[simp] theorem State.modBkt_lnk : (s.modBkt b k f).lnk = s.lnk := rfl
@[simp] theorem State.modBkt_snp : (s.modBkt b k f).snp = s.snp := rfl
@[simp] theorem State.modBkt_rcv : (s.modBkt b k f).rcv = s.rcv := rfl
@[simp] theorem State.modBkt_rreg : (s.modBkt b k f).rreg = s.rreg := rfl
@[simp] theorem State.modBkt_dev : (s.modBkt b k f).dev = s.dev := rfl
@[simp] theorem State.modBkt_trc : (s.modBkt b k f).trc = s.trc := rfl
@[simp] theorem State.modBkt_inbox : (s.modBkt b k f).inbox = s.inbox := rfl
@[simp] theorem State.modBkt_signals : (s.modBkt b k f).signals = s.signals := rfl
@[simp] theorem State.modBkt_sent : (s.modBkt b k f).sent = s.sent := rfl
@[simp] theorem State.modBkt_freeCtr : (s.modBkt b k f).freeCtr = s.freeCtr := rfl
end modBkt

section setAdd
variable (s : State) (v : AddSlot)
@[simp] theorem State.setAdd_pending : (s.setAdd v).pending = s.pending := rfl
@[simp] theorem State.setAdd_mem : (s.setAdd v).mem = s.mem := rfl
@[simp] theorem State.setAdd_poison : (s.setAdd v).poison = s.poison := rfl
@[simp] theorem State.setAdd_secded : (s.setAdd v).secded = s.secded := rfl
@[simp] theorem State.setAdd_isl : (s.setAdd v).isl = s.isl := rfl
@[simp] theorem State.setAdd_per : (s.setAdd v).per = s.per := rfl
@[simp] theorem State.setAdd_hkp : (s.setAdd v).hkp = s.hkp := rfl
@[simp] theorem State.setAdd_cru : (s.setAdd v).cru = s.cru := rfl
@[simp] theorem State.setAdd_qrs : (s.setAdd v).qrs = s.qrs := rfl
@[simp] theorem State.setAdd_rcp : (s.setAdd v).rcp = s.rcp := rfl
@[simp] theorem State.setAdd_parts : (s.setAdd v).parts = s.parts := rfl
@[simp] theorem State.setAdd_racks : (s.setAdd v).racks = s.racks := rfl
@[simp] theorem State.setAdd_gov : (s.setAdd v).gov = s.gov := rfl
@[simp] theorem State.setAdd_hbm : (s.setAdd v).hbm = s.hbm := rfl
@[simp] theorem State.setAdd_cxl : (s.setAdd v).cxl = s.cxl := rfl
@[simp] theorem State.setAdd_lnk : (s.setAdd v).lnk = s.lnk := rfl
@[simp] theorem State.setAdd_snp : (s.setAdd v).snp = s.snp := rfl
@[simp] theorem State.setAdd_rcv : (s.setAdd v).rcv = s.rcv := rfl
@[simp] theorem State.setAdd_rreg : (s.setAdd v).rreg = s.rreg := rfl
@[simp] theorem State.setAdd_dev : (s.setAdd v).dev = s.dev := rfl
@[simp] theorem State.setAdd_trc : (s.setAdd v).trc = s.trc := rfl
@[simp] theorem State.setAdd_inbox : (s.setAdd v).inbox = s.inbox := rfl
@[simp] theorem State.setAdd_signals : (s.setAdd v).signals = s.signals := rfl
@[simp] theorem State.setAdd_sent : (s.setAdd v).sent = s.sent := rfl
@[simp] theorem State.setAdd_freeCtr : (s.setAdd v).freeCtr = s.freeCtr := rfl
end setAdd

section freeAdd
variable (s : State) (b : BitVec 20) (k : Step) (g a : Nat)
@[simp] theorem State.freeAdd_pending : (s.freeAdd b k g a).pending = s.pending := rfl
@[simp] theorem State.freeAdd_mem : (s.freeAdd b k g a).mem = s.mem := rfl
@[simp] theorem State.freeAdd_poison : (s.freeAdd b k g a).poison = s.poison := rfl
@[simp] theorem State.freeAdd_secded : (s.freeAdd b k g a).secded = s.secded := rfl
@[simp] theorem State.freeAdd_isl : (s.freeAdd b k g a).isl = s.isl := rfl
@[simp] theorem State.freeAdd_per : (s.freeAdd b k g a).per = s.per := rfl
@[simp] theorem State.freeAdd_hkp : (s.freeAdd b k g a).hkp = s.hkp := rfl
@[simp] theorem State.freeAdd_cru : (s.freeAdd b k g a).cru = s.cru := rfl
@[simp] theorem State.freeAdd_qrs : (s.freeAdd b k g a).qrs = s.qrs := rfl
@[simp] theorem State.freeAdd_rcp : (s.freeAdd b k g a).rcp = s.rcp := rfl
@[simp] theorem State.freeAdd_parts : (s.freeAdd b k g a).parts = s.parts := rfl
@[simp] theorem State.freeAdd_racks : (s.freeAdd b k g a).racks = s.racks := rfl
@[simp] theorem State.freeAdd_gov : (s.freeAdd b k g a).gov = s.gov := rfl
@[simp] theorem State.freeAdd_hbm : (s.freeAdd b k g a).hbm = s.hbm := rfl
@[simp] theorem State.freeAdd_cxl : (s.freeAdd b k g a).cxl = s.cxl := rfl
@[simp] theorem State.freeAdd_lnk : (s.freeAdd b k g a).lnk = s.lnk := rfl
@[simp] theorem State.freeAdd_snp : (s.freeAdd b k g a).snp = s.snp := rfl
@[simp] theorem State.freeAdd_rcv : (s.freeAdd b k g a).rcv = s.rcv := rfl
@[simp] theorem State.freeAdd_rreg : (s.freeAdd b k g a).rreg = s.rreg := rfl
@[simp] theorem State.freeAdd_dev : (s.freeAdd b k g a).dev = s.dev := rfl
@[simp] theorem State.freeAdd_trc : (s.freeAdd b k g a).trc = s.trc := rfl
@[simp] theorem State.freeAdd_inbox : (s.freeAdd b k g a).inbox = s.inbox := rfl
@[simp] theorem State.freeAdd_signals : (s.freeAdd b k g a).signals = s.signals := rfl
@[simp] theorem State.freeAdd_sent : (s.freeAdd b k g a).sent = s.sent := rfl
@[simp] theorem State.freeAdd_freeCtr : (s.freeAdd b k g a).freeCtr = s.freeCtr := rfl
end freeAdd

section freeAdds
variable (s : State) (b : BitVec 20) (k : Step)
@[simp] theorem State.freeAdds_pending : (s.freeAdds b k).pending = s.pending := rfl
@[simp] theorem State.freeAdds_mem : (s.freeAdds b k).mem = s.mem := rfl
@[simp] theorem State.freeAdds_poison : (s.freeAdds b k).poison = s.poison := rfl
@[simp] theorem State.freeAdds_secded : (s.freeAdds b k).secded = s.secded := rfl
@[simp] theorem State.freeAdds_isl : (s.freeAdds b k).isl = s.isl := rfl
@[simp] theorem State.freeAdds_per : (s.freeAdds b k).per = s.per := rfl
@[simp] theorem State.freeAdds_hkp : (s.freeAdds b k).hkp = s.hkp := rfl
@[simp] theorem State.freeAdds_cru : (s.freeAdds b k).cru = s.cru := rfl
@[simp] theorem State.freeAdds_qrs : (s.freeAdds b k).qrs = s.qrs := rfl
@[simp] theorem State.freeAdds_rcp : (s.freeAdds b k).rcp = s.rcp := rfl
@[simp] theorem State.freeAdds_parts : (s.freeAdds b k).parts = s.parts := rfl
@[simp] theorem State.freeAdds_racks : (s.freeAdds b k).racks = s.racks := rfl
@[simp] theorem State.freeAdds_gov : (s.freeAdds b k).gov = s.gov := rfl
@[simp] theorem State.freeAdds_hbm : (s.freeAdds b k).hbm = s.hbm := rfl
@[simp] theorem State.freeAdds_cxl : (s.freeAdds b k).cxl = s.cxl := rfl
@[simp] theorem State.freeAdds_lnk : (s.freeAdds b k).lnk = s.lnk := rfl
@[simp] theorem State.freeAdds_snp : (s.freeAdds b k).snp = s.snp := rfl
@[simp] theorem State.freeAdds_rcv : (s.freeAdds b k).rcv = s.rcv := rfl
@[simp] theorem State.freeAdds_rreg : (s.freeAdds b k).rreg = s.rreg := rfl
@[simp] theorem State.freeAdds_dev : (s.freeAdds b k).dev = s.dev := rfl
@[simp] theorem State.freeAdds_trc : (s.freeAdds b k).trc = s.trc := rfl
@[simp] theorem State.freeAdds_inbox : (s.freeAdds b k).inbox = s.inbox := rfl
@[simp] theorem State.freeAdds_signals : (s.freeAdds b k).signals = s.signals := rfl
@[simp] theorem State.freeAdds_sent : (s.freeAdds b k).sent = s.sent := rfl
@[simp] theorem State.freeAdds_freeCtr : (s.freeAdds b k).freeCtr = s.freeCtr := rfl
end freeAdds

section putSeq
variable (s : State) (k : Nat) (e : SeqEnt)
@[simp] theorem State.putSeq_pending : (s.putSeq k e).pending = s.pending := rfl
@[simp] theorem State.putSeq_mem : (s.putSeq k e).mem = s.mem := rfl
@[simp] theorem State.putSeq_poison : (s.putSeq k e).poison = s.poison := rfl
@[simp] theorem State.putSeq_secded : (s.putSeq k e).secded = s.secded := rfl
@[simp] theorem State.putSeq_isl : (s.putSeq k e).isl = s.isl := rfl
@[simp] theorem State.putSeq_per : (s.putSeq k e).per = s.per := rfl
@[simp] theorem State.putSeq_hkp : (s.putSeq k e).hkp = s.hkp := rfl
@[simp] theorem State.putSeq_cru : (s.putSeq k e).cru = s.cru := rfl
@[simp] theorem State.putSeq_qrs : (s.putSeq k e).qrs = s.qrs := rfl
@[simp] theorem State.putSeq_rcp : (s.putSeq k e).rcp = s.rcp := rfl
@[simp] theorem State.putSeq_parts : (s.putSeq k e).parts = s.parts := rfl
@[simp] theorem State.putSeq_racks : (s.putSeq k e).racks = s.racks := rfl
@[simp] theorem State.putSeq_gov : (s.putSeq k e).gov = s.gov := rfl
@[simp] theorem State.putSeq_knd : (s.putSeq k e).knd = s.knd := rfl
@[simp] theorem State.putSeq_hbm : (s.putSeq k e).hbm = s.hbm := rfl
@[simp] theorem State.putSeq_cxl : (s.putSeq k e).cxl = s.cxl := rfl
@[simp] theorem State.putSeq_snp : (s.putSeq k e).snp = s.snp := rfl
@[simp] theorem State.putSeq_rcv : (s.putSeq k e).rcv = s.rcv := rfl
@[simp] theorem State.putSeq_rreg : (s.putSeq k e).rreg = s.rreg := rfl
@[simp] theorem State.putSeq_dev : (s.putSeq k e).dev = s.dev := rfl
@[simp] theorem State.putSeq_trc : (s.putSeq k e).trc = s.trc := rfl
@[simp] theorem State.putSeq_inbox : (s.putSeq k e).inbox = s.inbox := rfl
@[simp] theorem State.putSeq_signals : (s.putSeq k e).signals = s.signals := rfl
@[simp] theorem State.putSeq_sent : (s.putSeq k e).sent = s.sent := rfl
@[simp] theorem State.putSeq_freeCtr : (s.putSeq k e).freeCtr = s.freeCtr := rfl
end putSeq

section modDisc
variable (s : State) (f : Disc → Disc)
@[simp] theorem State.modDisc_pending : (s.modDisc f).pending = s.pending := rfl
@[simp] theorem State.modDisc_mem : (s.modDisc f).mem = s.mem := rfl
@[simp] theorem State.modDisc_poison : (s.modDisc f).poison = s.poison := rfl
@[simp] theorem State.modDisc_secded : (s.modDisc f).secded = s.secded := rfl
@[simp] theorem State.modDisc_isl : (s.modDisc f).isl = s.isl := rfl
@[simp] theorem State.modDisc_per : (s.modDisc f).per = s.per := rfl
@[simp] theorem State.modDisc_hkp : (s.modDisc f).hkp = s.hkp := rfl
@[simp] theorem State.modDisc_cru : (s.modDisc f).cru = s.cru := rfl
@[simp] theorem State.modDisc_qrs : (s.modDisc f).qrs = s.qrs := rfl
@[simp] theorem State.modDisc_rcp : (s.modDisc f).rcp = s.rcp := rfl
@[simp] theorem State.modDisc_parts : (s.modDisc f).parts = s.parts := rfl
@[simp] theorem State.modDisc_racks : (s.modDisc f).racks = s.racks := rfl
@[simp] theorem State.modDisc_gov : (s.modDisc f).gov = s.gov := rfl
@[simp] theorem State.modDisc_knd : (s.modDisc f).knd = s.knd := rfl
@[simp] theorem State.modDisc_hbm : (s.modDisc f).hbm = s.hbm := rfl
@[simp] theorem State.modDisc_cxl : (s.modDisc f).cxl = s.cxl := rfl
@[simp] theorem State.modDisc_snp : (s.modDisc f).snp = s.snp := rfl
@[simp] theorem State.modDisc_rcv : (s.modDisc f).rcv = s.rcv := rfl
@[simp] theorem State.modDisc_rreg : (s.modDisc f).rreg = s.rreg := rfl
@[simp] theorem State.modDisc_dev : (s.modDisc f).dev = s.dev := rfl
@[simp] theorem State.modDisc_trc : (s.modDisc f).trc = s.trc := rfl
@[simp] theorem State.modDisc_inbox : (s.modDisc f).inbox = s.inbox := rfl
@[simp] theorem State.modDisc_signals : (s.modDisc f).signals = s.signals := rfl
@[simp] theorem State.modDisc_sent : (s.modDisc f).sent = s.sent := rfl
@[simp] theorem State.modDisc_freeCtr : (s.modDisc f).freeCtr = s.freeCtr := rfl
end modDisc

section putTwin
variable (s : State) (x : TwinSlot)
@[simp] theorem State.putTwin_pending : (s.putTwin x).pending = s.pending := rfl
@[simp] theorem State.putTwin_mem : (s.putTwin x).mem = s.mem := rfl
@[simp] theorem State.putTwin_poison : (s.putTwin x).poison = s.poison := rfl
@[simp] theorem State.putTwin_secded : (s.putTwin x).secded = s.secded := rfl
@[simp] theorem State.putTwin_isl : (s.putTwin x).isl = s.isl := rfl
@[simp] theorem State.putTwin_per : (s.putTwin x).per = s.per := rfl
@[simp] theorem State.putTwin_hkp : (s.putTwin x).hkp = s.hkp := rfl
@[simp] theorem State.putTwin_cru : (s.putTwin x).cru = s.cru := rfl
@[simp] theorem State.putTwin_qrs : (s.putTwin x).qrs = s.qrs := rfl
@[simp] theorem State.putTwin_rcp : (s.putTwin x).rcp = s.rcp := rfl
@[simp] theorem State.putTwin_parts : (s.putTwin x).parts = s.parts := rfl
@[simp] theorem State.putTwin_racks : (s.putTwin x).racks = s.racks := rfl
@[simp] theorem State.putTwin_gov : (s.putTwin x).gov = s.gov := rfl
@[simp] theorem State.putTwin_knd : (s.putTwin x).knd = s.knd := rfl
@[simp] theorem State.putTwin_hbm : (s.putTwin x).hbm = s.hbm := rfl
@[simp] theorem State.putTwin_cxl : (s.putTwin x).cxl = s.cxl := rfl
@[simp] theorem State.putTwin_lnk : (s.putTwin x).lnk = s.lnk := rfl
@[simp] theorem State.putTwin_snp : (s.putTwin x).snp = s.snp := rfl
@[simp] theorem State.putTwin_rcv : (s.putTwin x).rcv = s.rcv := rfl
@[simp] theorem State.putTwin_dev : (s.putTwin x).dev = s.dev := rfl
@[simp] theorem State.putTwin_trc : (s.putTwin x).trc = s.trc := rfl
@[simp] theorem State.putTwin_inbox : (s.putTwin x).inbox = s.inbox := rfl
@[simp] theorem State.putTwin_signals : (s.putTwin x).signals = s.signals := rfl
@[simp] theorem State.putTwin_sent : (s.putTwin x).sent = s.sent := rfl
@[simp] theorem State.putTwin_freeCtr : (s.putTwin x).freeCtr = s.freeCtr := rfl
end putTwin

section setVote
variable (s : State) (v : VoteSt)
@[simp] theorem State.setVote_pending : (s.setVote v).pending = s.pending := rfl
@[simp] theorem State.setVote_mem : (s.setVote v).mem = s.mem := rfl
@[simp] theorem State.setVote_poison : (s.setVote v).poison = s.poison := rfl
@[simp] theorem State.setVote_secded : (s.setVote v).secded = s.secded := rfl
@[simp] theorem State.setVote_isl : (s.setVote v).isl = s.isl := rfl
@[simp] theorem State.setVote_per : (s.setVote v).per = s.per := rfl
@[simp] theorem State.setVote_hkp : (s.setVote v).hkp = s.hkp := rfl
@[simp] theorem State.setVote_cru : (s.setVote v).cru = s.cru := rfl
@[simp] theorem State.setVote_qrs : (s.setVote v).qrs = s.qrs := rfl
@[simp] theorem State.setVote_rcp : (s.setVote v).rcp = s.rcp := rfl
@[simp] theorem State.setVote_parts : (s.setVote v).parts = s.parts := rfl
@[simp] theorem State.setVote_racks : (s.setVote v).racks = s.racks := rfl
@[simp] theorem State.setVote_knd : (s.setVote v).knd = s.knd := rfl
@[simp] theorem State.setVote_hbm : (s.setVote v).hbm = s.hbm := rfl
@[simp] theorem State.setVote_cxl : (s.setVote v).cxl = s.cxl := rfl
@[simp] theorem State.setVote_lnk : (s.setVote v).lnk = s.lnk := rfl
@[simp] theorem State.setVote_snp : (s.setVote v).snp = s.snp := rfl
@[simp] theorem State.setVote_rcv : (s.setVote v).rcv = s.rcv := rfl
@[simp] theorem State.setVote_rreg : (s.setVote v).rreg = s.rreg := rfl
@[simp] theorem State.setVote_dev : (s.setVote v).dev = s.dev := rfl
@[simp] theorem State.setVote_trc : (s.setVote v).trc = s.trc := rfl
@[simp] theorem State.setVote_inbox : (s.setVote v).inbox = s.inbox := rfl
@[simp] theorem State.setVote_signals : (s.setVote v).signals = s.signals := rfl
@[simp] theorem State.setVote_sent : (s.setVote v).sent = s.sent := rfl
@[simp] theorem State.setVote_freeCtr : (s.setVote v).freeCtr = s.freeCtr := rfl
end setVote

section setPwrStatus
variable (s : State) (c : BitVec 4)
@[simp] theorem State.setPwrStatus_pending : (s.setPwrStatus c).pending = s.pending := rfl
@[simp] theorem State.setPwrStatus_mem : (s.setPwrStatus c).mem = s.mem := rfl
@[simp] theorem State.setPwrStatus_poison : (s.setPwrStatus c).poison = s.poison := rfl
@[simp] theorem State.setPwrStatus_secded : (s.setPwrStatus c).secded = s.secded := rfl
@[simp] theorem State.setPwrStatus_isl : (s.setPwrStatus c).isl = s.isl := rfl
@[simp] theorem State.setPwrStatus_per : (s.setPwrStatus c).per = s.per := rfl
@[simp] theorem State.setPwrStatus_cru : (s.setPwrStatus c).cru = s.cru := rfl
@[simp] theorem State.setPwrStatus_qrs : (s.setPwrStatus c).qrs = s.qrs := rfl
@[simp] theorem State.setPwrStatus_rcp : (s.setPwrStatus c).rcp = s.rcp := rfl
@[simp] theorem State.setPwrStatus_parts : (s.setPwrStatus c).parts = s.parts := rfl
@[simp] theorem State.setPwrStatus_racks : (s.setPwrStatus c).racks = s.racks := rfl
@[simp] theorem State.setPwrStatus_gov : (s.setPwrStatus c).gov = s.gov := rfl
@[simp] theorem State.setPwrStatus_knd : (s.setPwrStatus c).knd = s.knd := rfl
@[simp] theorem State.setPwrStatus_hbm : (s.setPwrStatus c).hbm = s.hbm := rfl
@[simp] theorem State.setPwrStatus_cxl : (s.setPwrStatus c).cxl = s.cxl := rfl
@[simp] theorem State.setPwrStatus_lnk : (s.setPwrStatus c).lnk = s.lnk := rfl
@[simp] theorem State.setPwrStatus_snp : (s.setPwrStatus c).snp = s.snp := rfl
@[simp] theorem State.setPwrStatus_rcv : (s.setPwrStatus c).rcv = s.rcv := rfl
@[simp] theorem State.setPwrStatus_rreg : (s.setPwrStatus c).rreg = s.rreg := rfl
@[simp] theorem State.setPwrStatus_dev : (s.setPwrStatus c).dev = s.dev := rfl
@[simp] theorem State.setPwrStatus_trc : (s.setPwrStatus c).trc = s.trc := rfl
@[simp] theorem State.setPwrStatus_inbox : (s.setPwrStatus c).inbox = s.inbox := rfl
@[simp] theorem State.setPwrStatus_signals : (s.setPwrStatus c).signals = s.signals := rfl
@[simp] theorem State.setPwrStatus_sent : (s.setPwrStatus c).sent = s.sent := rfl
@[simp] theorem State.setPwrStatus_freeCtr : (s.setPwrStatus c).freeCtr = s.freeCtr := rfl
end setPwrStatus

section setClkStatus
variable (s : State) (c : BitVec 4)
@[simp] theorem State.setClkStatus_pending : (s.setClkStatus c).pending = s.pending := rfl
@[simp] theorem State.setClkStatus_mem : (s.setClkStatus c).mem = s.mem := rfl
@[simp] theorem State.setClkStatus_poison : (s.setClkStatus c).poison = s.poison := rfl
@[simp] theorem State.setClkStatus_secded : (s.setClkStatus c).secded = s.secded := rfl
@[simp] theorem State.setClkStatus_isl : (s.setClkStatus c).isl = s.isl := rfl
@[simp] theorem State.setClkStatus_per : (s.setClkStatus c).per = s.per := rfl
@[simp] theorem State.setClkStatus_cru : (s.setClkStatus c).cru = s.cru := rfl
@[simp] theorem State.setClkStatus_qrs : (s.setClkStatus c).qrs = s.qrs := rfl
@[simp] theorem State.setClkStatus_rcp : (s.setClkStatus c).rcp = s.rcp := rfl
@[simp] theorem State.setClkStatus_parts : (s.setClkStatus c).parts = s.parts := rfl
@[simp] theorem State.setClkStatus_racks : (s.setClkStatus c).racks = s.racks := rfl
@[simp] theorem State.setClkStatus_gov : (s.setClkStatus c).gov = s.gov := rfl
@[simp] theorem State.setClkStatus_knd : (s.setClkStatus c).knd = s.knd := rfl
@[simp] theorem State.setClkStatus_hbm : (s.setClkStatus c).hbm = s.hbm := rfl
@[simp] theorem State.setClkStatus_cxl : (s.setClkStatus c).cxl = s.cxl := rfl
@[simp] theorem State.setClkStatus_lnk : (s.setClkStatus c).lnk = s.lnk := rfl
@[simp] theorem State.setClkStatus_snp : (s.setClkStatus c).snp = s.snp := rfl
@[simp] theorem State.setClkStatus_rcv : (s.setClkStatus c).rcv = s.rcv := rfl
@[simp] theorem State.setClkStatus_rreg : (s.setClkStatus c).rreg = s.rreg := rfl
@[simp] theorem State.setClkStatus_dev : (s.setClkStatus c).dev = s.dev := rfl
@[simp] theorem State.setClkStatus_trc : (s.setClkStatus c).trc = s.trc := rfl
@[simp] theorem State.setClkStatus_inbox : (s.setClkStatus c).inbox = s.inbox := rfl
@[simp] theorem State.setClkStatus_signals : (s.setClkStatus c).signals = s.signals := rfl
@[simp] theorem State.setClkStatus_sent : (s.setClkStatus c).sent = s.sent := rfl
@[simp] theorem State.setClkStatus_freeCtr : (s.setClkStatus c).freeCtr = s.freeCtr := rfl
end setClkStatus

section useCredit
variable (s : State) (c : Nat)
@[simp] theorem State.useCredit_pending : (s.useCredit c).pending = s.pending := rfl
@[simp] theorem State.useCredit_mem : (s.useCredit c).mem = s.mem := rfl
@[simp] theorem State.useCredit_poison : (s.useCredit c).poison = s.poison := rfl
@[simp] theorem State.useCredit_secded : (s.useCredit c).secded = s.secded := rfl
@[simp] theorem State.useCredit_isl : (s.useCredit c).isl = s.isl := rfl
@[simp] theorem State.useCredit_per : (s.useCredit c).per = s.per := rfl
@[simp] theorem State.useCredit_hkp : (s.useCredit c).hkp = s.hkp := rfl
@[simp] theorem State.useCredit_cru : (s.useCredit c).cru = s.cru := rfl
@[simp] theorem State.useCredit_rcp : (s.useCredit c).rcp = s.rcp := rfl
@[simp] theorem State.useCredit_parts : (s.useCredit c).parts = s.parts := rfl
@[simp] theorem State.useCredit_racks : (s.useCredit c).racks = s.racks := rfl
@[simp] theorem State.useCredit_gov : (s.useCredit c).gov = s.gov := rfl
@[simp] theorem State.useCredit_knd : (s.useCredit c).knd = s.knd := rfl
@[simp] theorem State.useCredit_hbm : (s.useCredit c).hbm = s.hbm := rfl
@[simp] theorem State.useCredit_cxl : (s.useCredit c).cxl = s.cxl := rfl
@[simp] theorem State.useCredit_lnk : (s.useCredit c).lnk = s.lnk := rfl
@[simp] theorem State.useCredit_snp : (s.useCredit c).snp = s.snp := rfl
@[simp] theorem State.useCredit_rcv : (s.useCredit c).rcv = s.rcv := rfl
@[simp] theorem State.useCredit_rreg : (s.useCredit c).rreg = s.rreg := rfl
@[simp] theorem State.useCredit_dev : (s.useCredit c).dev = s.dev := rfl
@[simp] theorem State.useCredit_trc : (s.useCredit c).trc = s.trc := rfl
@[simp] theorem State.useCredit_inbox : (s.useCredit c).inbox = s.inbox := rfl
@[simp] theorem State.useCredit_signals : (s.useCredit c).signals = s.signals := rfl
@[simp] theorem State.useCredit_sent : (s.useCredit c).sent = s.sent := rfl
@[simp] theorem State.useCredit_freeCtr : (s.useCredit c).freeCtr = s.freeCtr := rfl
end useCredit

end Sys2Proof.Machine
end

