-- ==== Sys2Proof/Laws/Access.lean ====
section
/-! SUPPORT. What an access and the row of an accepted word can do, said once. -/

namespace Sys2Proof.Machine

/-! ## Reads and writes of bytes (Access) -/

/-- A read that no check stops changes nothing and gives the bytes as the outstanding writes leave them. -/
theorem read_ok {s : State} {who : Who} {a n : Nat} (h : s.accessErr who false a n = none) :
    s.read who a n = (s, .ok (s.afterWrites a (s.readBytes a n))) := by simp [State.read, h]

/-- A read that a check stops gives that error and only logs it. -/
theorem read_err {s : State} {who : Who} {a n : Nat} {e : Option LogKind × BusErr × Nat} (h : s.accessErr who false a n = some e) :
    s.read who a n = (s.logAccess who e, .error e.2.1) := by simp [State.read, h]

/-- A write that a check stops stores nothing: it gives that error and only logs it. -/
theorem write_err {s : State} {who : Who} {a : Nat} {b : List Byte} {e : Option LogKind × BusErr × Nat}
    (h : s.accessErr who true a b.length = some e) : s.write who a b = (s.logAccess who e, some e.2.1) := by
  simp [State.write, h]

/-- A write that no check stops merges its sectors, stores its bytes and ends without an error. -/
theorem write_ok {s : State} {who : Who} {a : Nat} {b : List Byte} (h : s.accessErr who true a b.length = none) :
    s.write who a b =
      (((overAll (sectorSpans a b.length) (fun x t => t.mergeSector who x.1 x.2) s).behindWrites a b).setBytes a b, none) := by
  simp [State.write, h]

/-- Outside the Cellar no write is outstanding. -/
theorem afterWrites_near {s : State} {a : Nat} {b : List Byte} (h : s.place a ≠ .cellar) : s.afterWrites a b = b := by
  simp [State.afterWrites, h]

/-- Outside the Cellar no write is replaced. -/
theorem behindWrites_near {s : State} {a : Nat} {b : List Byte} (h : s.place a ≠ .cellar) : s.behindWrites a b = s := by
  simp [State.behindWrites, h]

/-- An error that no controller logs leaves the state as it is. -/
@[simp] theorem logAccess_none (s : State) (who : Who) (e : BusErr × Nat) : s.logAccess who (none, e) = s := by
  simp [State.logAccess]

/-- Without an uncorrectable word nothing is noted. -/
@[simp] theorem noteUes_none (s : State) (who : Who) : s.noteUes who none = s := rfl

/-! ## Rows that take an accepted word (Fabric) -/

/-- A word that is the first of its sender and stream, and of the row's kind, acts on the state without it. -/
theorem word_takes {s : State} {k : Packet} {is : Body → Bool} (f : State → State) (h : s.takes k = true) (hk : is k.body = true) :
    s.word k is f = f { s with inbox := s.inbox.erase k } := by simp [State.word, h, hk]

/-- A word that is not accepted, or is not the first of its sender and stream, changes nothing. -/
theorem word_waits {s : State} {k : Packet} (is : Body → Bool) (f : State → State) (h : s.takes k = false) :
    s.word k is f = s := by simp [State.word, h]

/-- A word of another kind changes nothing. -/
theorem word_other {s : State} {k : Packet} {is : Body → Bool} (f : State → State) (hk : is k.body = false) :
    s.word k is f = s := by simp [State.word, hk]

/-- A word that is taken was accepted. -/
theorem mem_of_takes {s : State} {k : Packet} (h : s.takes k = true) : k ∈ s.inbox := by
  simp only [State.takes, beq_iff_eq] at h
  exact List.mem_of_find?_eq_some h

end Sys2Proof.Machine
end

