-- ==== Sys2Proof/Laws/Memory.lean ====
section
/-! SUPPORT. Memory: reads after writes, and the canonical form that every memory operation keeps. -/

namespace Sys2Proof.Machine

/-! ## Folds -/

/-- What holds before a fold of updates and is kept by each of them holds after it. -/
theorem over_keeps {α : Type} {P : State → Prop} (l : List α) (f : α → State → State)
    (h : ∀ x ∈ l, ∀ t, P t → P (f x t)) {s : State} (hs : P s) : P (overAll l f s) := by
  induction l generalizing s with
  | nil => exact hs
  | cons x l ih =>
    exact ih (fun y hy => h y (List.mem_cons_of_mem _ hy)) (h x List.mem_cons_self s hs)

/-- A part of the state that no update of a fold writes is as before. -/
theorem over_same {α β : Type} (g : State → β) (l : List α) (f : α → State → State)
    (h : ∀ x ∈ l, ∀ t, g (f x t) = g t) (s : State) : g (overAll l f s) = g s :=
  over_keeps (P := fun t => g t = g s) l f (fun x hx t ht => (h x hx t).trans ht) rfl

/-! ## The canonical form -/

theorem setByte_wf (s : State) (a : Nat) (b : Byte) (h : MemInv s) : MemInv (s.setByte a b) :=
  twf_tset (fun _ => emptyByte) s.mem (s.key a) b h

theorem setBytes_wf (s : State) (a : Nat) (l : List Byte) (h : MemInv s) : MemInv (s.setBytes a l) := by
  induction l generalizing s a with
  | nil => exact h
  | cons b l ih => exact ih _ _ (setByte_wf s a b h)

theorem storeEnabled_wf (m : List Host.Cell) (k : Nat) (l : List (Option Byte)) (h : Memory.wf m = true) :
    Memory.wf (storeEnabled m k l) = true := by
  induction l generalizing m k with
  | nil => exact h
  | cons o l ih =>
    cases o with
    | none => exact ih m (k + 1) h
    | some b => exact ih _ (k + 1) (twf_tset (fun _ => emptyByte) m k b h)

theorem filter_wf (m : List Host.Cell) (p : Host.Cell → Bool) (h : Memory.wf m = true) :
    Memory.wf (m.filter p) = true := twf_filter _ m p h

theorem keepMem_wf (s : State) (p : Nat → Bool) (h : MemInv s) : MemInv (s.keepMem p) := filter_wf s.mem _ h

theorem clearRange_wf (s : State) (a n : Nat) (h : MemInv s) : MemInv (s.clearRange a n) := filter_wf s.mem _ h

theorem hubLost_wf (s : State) (keep : Bool) (h : MemInv s) : MemInv (s.hubLost keep) := filter_wf s.mem _ h

theorem dormantLost_wf (s : State) (h : MemInv s) : MemInv s.dormantLost := filter_wf s.mem _ h

theorem powerReset_wf (s : State) (k : ResetKind) (c : BitVec 4) (h : MemInv s) : MemInv (s.powerReset k c) :=
  filter_wf s.mem _ h

theorem rackOff_wf (s : State) (n : Nat) (h : MemInv s) : MemInv (s.rackOff n) := filter_wf s.mem _ h

/-- A state with the same memory has the invariant too. -/
theorem MemInv.of_eq {s t : State} (h : MemInv s) (e : t.mem = s.mem) : MemInv t := by
  unfold MemInv at *; rw [e]; exact h

/-! ## Reads after writes -/

@[simp] theorem key_setByte (s : State) (a b : Nat) (v : Byte) : (s.setByte a v).key b = s.key b := rfl

@[simp] theorem key_setBytes (s : State) (a b : Nat) (l : List Byte) : (s.setBytes a l).key b = s.key b := by
  induction l generalizing s a with
  | nil => rfl
  | cons x l ih => exact ih _ _

@[simp] theorem byteAt_setByte_same (s : State) (a : Nat) (b : Byte) : (s.setByte a b).byteAt a = b :=
  tget_tset_same _ _ _ _

theorem byteAt_setByte_ne (s : State) {a c : Nat} (b : Byte) (h : s.key c ≠ s.key a) :
    (s.setByte a b).byteAt c = s.byteAt c := tget_tset_ne _ _ _ _ h

theorem byteAt_setBytes_ne (s : State) (a c : Nat) (l : List Byte) (h : ∀ i < l.length, s.key c ≠ s.key (a + i)) :
    (s.setBytes a l).byteAt c = s.byteAt c := by
  induction l generalizing s a with
  | nil => rfl
  | cons b l ih =>
    have h0 : s.key c ≠ s.key a := by simpa using h 0 (by simp)
    refine (ih (s.setByte a b) (a + 1) (fun i hi => ?_)).trans (byteAt_setByte_ne s b h0)
    have := h (i + 1) (by simpa using hi)
    simpa [Nat.add_assoc, Nat.add_comm 1 i] using this

/-- A byte of a stored block reads as it was stored, where the block's bytes have different places. -/
theorem byteAt_setBytes_same (s : State) (a : Nat) (l : List Byte) (i : Nat) (hi : i < l.length)
    (h : ∀ j < l.length, i < j → s.key (a + i) ≠ s.key (a + j)) : (s.setBytes a l).byteAt (a + i) = l[i] := by
  induction l generalizing s a i with
  | nil => simp at hi
  | cons b l ih =>
    cases i with
    | zero =>
      refine (byteAt_setBytes_ne (s.setByte a b) (a + 1) (a + 0) l (fun j hj => ?_)).trans (byteAt_setByte_same s a b)
      have := h (j + 1) (by simpa using hj) (by omega)
      simpa [Nat.add_assoc, Nat.add_comm 1 j] using this
    | succ i =>
      have hi' : i < l.length := by simpa using hi
      have e : a + (i + 1) = a + 1 + i := by omega
      simp only [e, List.getElem_cons_succ]
      refine ih (s.setByte a b) (a + 1) i hi' (fun j hj hij => ?_)
      have := h (j + 1) (by simpa using hj) (by omega)
      simpa [Nat.add_assoc, Nat.add_comm 1 j, Nat.add_comm 1 i] using this

end Sys2Proof.Machine
end

