-- ==== Sys2Proof/Laws/Folds.lean ====
section
/-! SUPPORT. Folds that update one kind of part: what each part is afterwards, and that nothing else has changed. -/

namespace Sys2Proof.Machine

theorem over_nil {α : Type} (f : α → State → State) (s : State) : overAll [] f s = s := rfl

theorem over_cons {α : Type} (x : α) (l : List α) (f : α → State → State) (s : State) :
    overAll (x :: l) f s = overAll l f (f x s) := rfl

theorem over_append {α : Type} (a b : List α) (f : α → State → State) (s : State) :
    overAll (a ++ b) f s = overAll b f (overAll a f s) := by simp [overAll, List.foldl_append]

/-- Part by part: a listed one is updated once, another is as before. -/
theorem island_over (l : List Nat) (h : l.Nodup) (f : Nat → IslandSt → IslandSt) (s : State) (j : Nat) :
    (overAll l (fun n u => u.modIsland n (f n)) s).island j = if j ∈ l then f j (s.island j) else s.island j := by
  induction l generalizing s with
  | nil => simp [over_nil]
  | cons x l ih =>
    have hx := List.nodup_cons.mp h
    rw [over_cons, ih hx.2]
    by_cases hj : j = x
    · subst hj; simp [hx.1]
    · simp [hj, State.island_modIsland_ne _ _ _ _ hj]

theorem over_modIsland {α : Type} (l : List α) (k : α → Nat) (f : α → State → IslandSt → IslandSt) (s : State) :
    overAll l (fun x u => u.modIsland (k x) (f x u)) s =
      { s with isl := (overAll l (fun x u => u.modIsland (k x) (f x u)) s).isl } := by
  refine over_keeps (P := fun t => t = { s with isl := t.isl }) l _ (fun x _ t ht => ?_) rfl
  rw [ht]; rfl

/-- Part by part: a listed one is updated once, another is as before. -/
theorem part_over (l : List Nat) (h : l.Nodup) (f : Nat → PartSt → PartSt) (s : State) (j : Nat) :
    (overAll l (fun n u => u.modPart n (f n)) s).part j = if j ∈ l then f j (s.part j) else s.part j := by
  induction l generalizing s with
  | nil => simp [over_nil]
  | cons x l ih =>
    have hx := List.nodup_cons.mp h
    rw [over_cons, ih hx.2]
    by_cases hj : j = x
    · subst hj; simp [hx.1]
    · simp [hj, State.part_modPart_ne _ _ _ _ hj]

theorem over_modPart {α : Type} (l : List α) (k : α → Nat) (f : α → State → PartSt → PartSt) (s : State) :
    overAll l (fun x u => u.modPart (k x) (f x u)) s =
      { s with parts := (overAll l (fun x u => u.modPart (k x) (f x u)) s).parts } := by
  refine over_keeps (P := fun t => t = { s with parts := t.parts }) l _ (fun x _ t ht => ?_) rfl
  rw [ht]; rfl

/-- Part by part: a listed one is updated once, another is as before. -/
theorem rack_over (l : List Nat) (h : l.Nodup) (f : Nat → RackSt → RackSt) (s : State) (j : Nat) :
    (overAll l (fun n u => u.modRack n (f n)) s).rack j = if j ∈ l then f j (s.rack j) else s.rack j := by
  induction l generalizing s with
  | nil => simp [over_nil]
  | cons x l ih =>
    have hx := List.nodup_cons.mp h
    rw [over_cons, ih hx.2]
    by_cases hj : j = x
    · subst hj; simp [hx.1]
    · simp [hj, State.rack_modRack_ne _ _ _ _ hj]

theorem over_modRack {α : Type} (l : List α) (k : α → Nat) (f : α → State → RackSt → RackSt) (s : State) :
    overAll l (fun x u => u.modRack (k x) (f x u)) s =
      { s with racks := (overAll l (fun x u => u.modRack (k x) (f x u)) s).racks } := by
  refine over_keeps (P := fun t => t = { s with racks := t.racks }) l _ (fun x _ t ht => ?_) rfl
  rw [ht]; rfl

/-- Part by part: a listed one is updated once, another is as before. -/
theorem stack_over (l : List Nat) (h : l.Nodup) (f : Nat → StackSt → StackSt) (s : State) (j : Nat) :
    (overAll l (fun n u => u.modStack n (f n)) s).stack j = if j ∈ l then f j (s.stack j) else s.stack j := by
  induction l generalizing s with
  | nil => simp [over_nil]
  | cons x l ih =>
    have hx := List.nodup_cons.mp h
    rw [over_cons, ih hx.2]
    by_cases hj : j = x
    · subst hj; simp [hx.1]
    · simp [hj, State.stack_modStack_ne _ _ _ _ hj]

theorem over_modStack {α : Type} (l : List α) (k : α → Nat) (f : α → State → StackSt → StackSt) (s : State) :
    overAll l (fun x u => u.modStack (k x) (f x u)) s =
      { s with hbm := (overAll l (fun x u => u.modStack (k x) (f x u)) s).hbm } := by
  refine over_keeps (P := fun t => t = { s with hbm := t.hbm }) l _ (fun x _ t ht => ?_) rfl
  rw [ht]; rfl

/-- Part by part: a listed one is updated once, another is as before. -/
theorem cxlPort_over (l : List Nat) (h : l.Nodup) (f : Nat → CxlSt → CxlSt) (s : State) (j : Nat) :
    (overAll l (fun n u => u.modCxlPort n (f n)) s).cxlPort j = if j ∈ l then f j (s.cxlPort j) else s.cxlPort j := by
  induction l generalizing s with
  | nil => simp [over_nil]
  | cons x l ih =>
    have hx := List.nodup_cons.mp h
    rw [over_cons, ih hx.2]
    by_cases hj : j = x
    · subst hj; simp [hx.1]
    · simp [hj, State.cxlPort_modCxlPort_ne _ _ _ _ hj]

theorem over_modCxlPort {α : Type} (l : List α) (k : α → Nat) (f : α → State → CxlSt → CxlSt) (s : State) :
    overAll l (fun x u => u.modCxlPort (k x) (f x u)) s =
      { s with cxl := (overAll l (fun x u => u.modCxlPort (k x) (f x u)) s).cxl } := by
  refine over_keeps (P := fun t => t = { s with cxl := t.cxl }) l _ (fun x _ t ht => ?_) rfl
  rw [ht]; rfl

/-- Part by part: a listed one is updated once, another is as before. -/
theorem port_over (l : List Nat) (h : l.Nodup) (f : Nat → PortSt → PortSt) (s : State) (j : Nat) :
    (overAll l (fun n u => u.modPort n (f n)) s).port j = if j ∈ l then f j (s.port j) else s.port j := by
  induction l generalizing s with
  | nil => simp [over_nil]
  | cons x l ih =>
    have hx := List.nodup_cons.mp h
    rw [over_cons, ih hx.2]
    by_cases hj : j = x
    · subst hj; simp [hx.1]
    · simp [hj, State.port_modPort_ne _ _ _ _ hj]

theorem over_modPort {α : Type} (l : List α) (k : α → Nat) (f : α → State → PortSt → PortSt) (s : State) :
    overAll l (fun x u => u.modPort (k x) (f x u)) s =
      { s with lnk := (overAll l (fun x u => u.modPort (k x) (f x u)) s).lnk } := by
  refine over_keeps (P := fun t => t = { s with lnk := t.lnk }) l _ (fun x _ t ht => ?_) rfl
  rw [ht]; rfl

/-- Part by part: a listed one is updated once, another is as before. -/
theorem queue_over (l : List Nat) (h : l.Nodup) (f : Nat → Queue → Queue) (s : State) (j : Nat) :
    (overAll l (fun n u => u.modQueue n (f n)) s).queue j = if j ∈ l then f j (s.queue j) else s.queue j := by
  induction l generalizing s with
  | nil => simp [over_nil]
  | cons x l ih =>
    have hx := List.nodup_cons.mp h
    rw [over_cons, ih hx.2]
    by_cases hj : j = x
    · subst hj; simp [hx.1]
    · simp [hj, State.queue_modQueue_ne _ _ _ _ hj]

theorem over_modQueue {α : Type} (l : List α) (k : α → Nat) (f : α → State → Queue → Queue) (s : State) :
    overAll l (fun x u => u.modQueue (k x) (f x u)) s =
      { s with qrs := (overAll l (fun x u => u.modQueue (k x) (f x u)) s).qrs } := by
  refine over_keeps (P := fun t => t = { s with qrs := t.qrs }) l _ (fun x _ t ht => ?_) rfl
  rw [ht]; rfl

/-- Part by part: a listed one is updated once, another is as before. -/
theorem window_over (l : List Nat) (h : l.Nodup) (f : Nat → Window → Window) (s : State) (j : Nat) :
    (overAll l (fun n u => u.modWindow n (f n)) s).window j = if j ∈ l then f j (s.window j) else s.window j := by
  induction l generalizing s with
  | nil => simp [over_nil]
  | cons x l ih =>
    have hx := List.nodup_cons.mp h
    rw [over_cons, ih hx.2]
    by_cases hj : j = x
    · subst hj; simp [hx.1]
    · simp [hj, State.window_modWindow_ne _ _ _ _ hj]

theorem over_modWindow {α : Type} (l : List α) (k : α → Nat) (f : α → State → Window → Window) (s : State) :
    overAll l (fun x u => u.modWindow (k x) (f x u)) s =
      { s with qrs := (overAll l (fun x u => u.modWindow (k x) (f x u)) s).qrs } := by
  refine over_keeps (P := fun t => t = { s with qrs := t.qrs }) l _ (fun x _ t ht => ?_) rfl
  rw [ht]; rfl

/-- Part by part: a listed one is updated once, another is as before. -/
theorem snap_over (l : List Nat) (h : l.Nodup) (f : Nat → SnapSt → SnapSt) (s : State) (j : Nat) :
    (overAll l (fun n u => u.modSnap n (f n)) s).snap j = if j ∈ l then f j (s.snap j) else s.snap j := by
  induction l generalizing s with
  | nil => simp [over_nil]
  | cons x l ih =>
    have hx := List.nodup_cons.mp h
    rw [over_cons, ih hx.2]
    by_cases hj : j = x
    · subst hj; simp [hx.1]
    · simp [hj, State.snap_modSnap_ne _ _ _ _ hj]

theorem over_modSnap {α : Type} (l : List α) (k : α → Nat) (f : α → State → SnapSt → SnapSt) (s : State) :
    overAll l (fun x u => u.modSnap (k x) (f x u)) s =
      { s with snp := (overAll l (fun x u => u.modSnap (k x) (f x u)) s).snp } := by
  refine over_keeps (P := fun t => t = { s with snp := t.snp }) l _ (fun x _ t ht => ?_) rfl
  rw [ht]; rfl

/-- Part by part: a listed one is updated once, another is as before. -/
theorem recov_over (l : List Nat) (h : l.Nodup) (f : Nat → RcvSt → RcvSt) (s : State) (j : Nat) :
    (overAll l (fun n u => u.modRecov n (f n)) s).recov j = if j ∈ l then f j (s.recov j) else s.recov j := by
  induction l generalizing s with
  | nil => simp [over_nil]
  | cons x l ih =>
    have hx := List.nodup_cons.mp h
    rw [over_cons, ih hx.2]
    by_cases hj : j = x
    · subst hj; simp [hx.1]
    · simp [hj, State.recov_modRecov_ne _ _ _ _ hj]

theorem over_modRecov {α : Type} (l : List α) (k : α → Nat) (f : α → State → RcvSt → RcvSt) (s : State) :
    overAll l (fun x u => u.modRecov (k x) (f x u)) s =
      { s with rcv := (overAll l (fun x u => u.modRecov (k x) (f x u)) s).rcv } := by
  refine over_keeps (P := fun t => t = { s with rcv := t.rcv }) l _ (fun x _ t ht => ?_) rfl
  rw [ht]; rfl

end Sys2Proof.Machine
end

