-- ==== Sys2Proof/Laws/Host.lean ====
section
/-! SUPPORT. What a host command row does with a record that is taken. -/

namespace Sys2Proof.Machine

/-- A record that is taken runs its row's body on the state in which it acts. -/
theorem host_taken {s t : State} {c : Cmd} {mine : State → CmdRec → Bool} {body : RowBody} (h : Taken s c t)
    (hm : mine s c.r = true) : s.host c mine body = (body t c).1.finish c.q.val c.r.htag (body t c).2 := by
  obtain ⟨u, ⟨hp, hu⟩, hb, hc⟩ := h
  have hrun : u.process c body = (body t c).1.finish c.q.val c.r.htag (body t c).2 := by
    rcases hc with ⟨h1, h2, rfl⟩ | ⟨h1, h2, h3⟩
    · simp [State.process, hb, h1, h2]
    · simp [State.process, hb, h1, h2, h3]
  rcases hu with ⟨h1, h2, rfl⟩ | ⟨h1, rfl⟩
  · simp [State.host, State.hostBy, hm, h1, h2, hp, hrun]
  · cases hf : (s.queue c.q.val).fifo with
    | nil => simp [hf] at h1
    | cons x l =>
      have : x = c.r := by simpa [hf] using h1
      simp [State.host, State.hostBy, hm, hf, this, hp, hrun]

/-- A register write that is taken acts with the value that the write would leave. -/
theorem host_writes {s t : State} {c : Cmd} {w : WriteRow} {r : Reg} {v : Nat}
    {act : State → Cmd → Reg → Nat → State × Ending} (h : Writes s c w t r v) :
    s.host c (isWrite w) (writeBody act) = (act t c r v).1.finish c.q.val c.r.htag (act t c r v).2 := by
  obtain ⟨ht, hw, hr, ho, hs, rfl⟩ := h
  rw [host_taken ht hw]
  simp [writeBody, State.regFor, hr, ho, hs]

/-- A command register is written before its operation acts. -/
theorem host_opWrites {s t : State} {c : Cmd} {w : WriteRow} {r : Reg} {v : Nat}
    {act : State → Cmd → Reg → Nat → State × Ending} (h : Writes s c w t r v) :
    s.host c (isWrite w) (opBody act) =
      (act (t.putReg v r) c r v).1.finish c.q.val c.r.htag (act (t.putReg v r) c r v).2 := host_writes h

/-- A command that completes with OK. -/
@[simp] theorem finish_ok (s : State) (q : Nat) (h : BitVec 16) : s.finish q h ok = s.complete q h stOk 0 0 := rfl

end Sys2Proof.Machine
end

