-- ==== Sys2Proof/WellFormed.lean ====
section
/-! DEFINITION. Which commands are well formed: an operand list has the length, and a number the range, that the rule of
its row gives. A packet's body is of the kind that its header names (12_links_and_ordering.md R238). -/

namespace Sys2Proof

/-- At least one reading, and no island read twice (18_power_ladder.md R355). -/
def tempsOk (t : List Temp) : Bool := !t.isEmpty && decide (t.map (fun x => x.island)).Nodup

/-- Sectors of a stack: 48 GiB of 32 bytes (10_hbm_memory.md R203). -/
def sectorOk (n : Nat) : Bool := decide (n < 0x60000000)

/-- Symbol positions of R206: stored bytes lie at 0 to 35, address symbols at 36 to 39. -/
def patOk : ErrPat → Bool
  | .none => true
  | .one p => decide (p < 36)
  | .many n => decide (2 ≤ n ∧ n ≤ 36)
  | .wrongAddr n l => decide (1 ≤ n ∧ n ≤ 4) && (l.map (fun p => decide (36 ≤ p ∧ p < 40))).getD true

/-- The kind code that a body travels under (R238); bytes that no kind spells travel under none. -/
def bodyKind : Body → BitVec 4
  | .raw _ => 0x0
  | .gseg .. => 0x1
  | .ptile .. => 0x2
  | .snap .. => 0x4
  | .fill .. => 0x5
  | _ => 0x3

/-- Bytes that no kind spells may stand under any code. -/
def packetOk (k : Packet) : Bool :=
  match k.body with
  | .raw _ => true
  | b => k.kind == bodyKind b

/-- A command's operands are well formed. -/
def WellFormed : Instr → Bool
  | .powerOn _ => true
  | .powerLoss => true
  | .boot => true
  | .firmwareStart _ _ => true
  | .brownoutResponse _ => true
  | .brownoutEnd => true
  | .brownoutLong => true
  | .brownoutReset _ => true
  | .pinWarmReset _ => true
  | .hostWake _ => true
  | .thermalThrottle temps => tempsOk temps
  | .dutyRise temps => tempsOk temps
  | .thermalMax _ => true
  | .thermalTrip _ => true
  | .xtalCheckWindow _ => true
  | .crystalHandover => true
  | .clkLoss _ _ => true
  | .islCoast _ => true
  | .launch sweep => sweep.all (fun m => m.delays.length == 16 && m.delays.all (fun d => d.length == 4))
  | .planSwitch _ => true
  | .heartbeat => true
  | .hubFailure _ _ => true
  | .bridgeReplay _ _ => true
  | .selfTestDone failed => decide (failed.map (fun e => e.1)).Nodup
  | .deviceReady => true
  | .survey meas => meas.all (fun m => m.delays.length == 4)
  | .daily => true
  | .querosTraining _ => true
  | .trainingRetry _ => true
  | .frame bytes => bytes.length == 256
  | .credit bytes => bytes.length == 256
  | .regRead _ => true
  | .regWrite _ => true
  | .peelSet _ => true
  | .peelClose _ => true
  | .commit _ => true
  | .digestPass _ _ _ => true
  | .applyPass _ => true
  | .keyInstall _ _ _ => true
  | .debug _ _ => true
  | .attest _ _ => true
  | .nop _ => true
  | .commandWarmReset _ => true
  | .fabricReset _ => true
  | .partitionReset _ => true
  | .rackReset _ => true
  | .flush _ => true
  | .writeBurst _ _ blen data => decide (blen < 8192) && data.length == blen
  | .readBurst _ _ blen _ => decide (blen < 8192)
  | .eventSend => true
  | .challengeRead _ => true
  | .mboxAccess _ => true
  | .ageLogRead _ => true
  | .inreadyWrite _ => true
  | .clkoutWrite _ => true
  | .snpCtlWrite _ => true
  | .traceEnable _ => true
  | .counterClear _ => true
  | .readableCopy _ => true
  | .stage _ _ => true
  | .lock _ => true
  | .relock _ => true
  | .enter _ => true
  | .exit _ => true
  | .ageApply _ => true
  | .discardProposals _ => true
  | .run _ => true
  | .halt _ => true
  | .halted _ => true
  | .haltFault _ => true
  | .retry _ => true
  | .pin _ => true
  | .unpin _ => true
  | .clearCeil _ => true
  | .freeze _ => true
  | .thaw _ => true
  | .hostack _ => true
  | .hold _ => true
  | .ringSlotRelease _ => true
  | .fenceSelf _ => true
  | .rollback _ => true
  | .restore _ => true
  | .fill _ => true
  | .migrateDrain _ => true
  | .migrateDiscard _ => true
  | .hostfill _ => true
  | .addEntry _ => true
  | .clearList _ => true
  | .setArmed _ => true
  | .linkRetrain _ => true
  | .linkTakeDown _ => true
  | .apply _ => true
  | .discardStaged _ => true
  | .setrank _ => true
  | .cxlRetrain _ => true
  | .cxlTakeDown _ => true
  | .cxlEnumeration _ _ => true
  | .stepOpen _ => true
  | .descriptorFetch _ _ _ => true
  | .loop _ _ => true
  | .endDesc _ _ => true
  | .syncIssue _ _ => true
  | .latch _ _ _ => true
  | .fillDone _ _ _ _ => true
  | .pick _ => true
  | .classAgeing _ _ => true
  | .issue _ _ => true
  | .demandRelease _ _ => true
  | .resultReady _ _ _ => true
  | .whiskPass _ _ => true
  | .operationComplete _ _ => true
  | .signal _ _ _ _ => true
  | .proofTaskComplete _ _ => true
  | .statsMerge _ _ _ => true
  | .windowClose _ => true
  | .steeringRecord k => packetOk k
  | .watchdog _ => true
  | .partitionFault _ _ _ => true
  | .admission _ _ => true
  | .amax k => packetOk k
  | .scale k => packetOk k
  | .gseg k => packetOk k
  | .csum k => packetOk k
  | .replay k => packetOk k
  | .updateDone _ _ _ => true
  | .ptile k => packetOk k
  | .paramEnd k => packetOk k
  | .adopted k => packetOk k
  | .commitWord k => packetOk k
  | .clear k => packetOk k
  | .sealReady k => packetOk k
  | .seal k => packetOk k
  | .rollbackWord k => packetOk k
  | .routeChanged k => packetOk k
  | .paramResend k => packetOk k
  | .portTrained _ => true
  | .linkId _ k => packetOk k
  | .flit _ bytes _ _ => bytes.length == 512
  | .linkDown _ _ => true
  | .linkStandby _ => true
  | .linkResume _ => true
  | .fenced _ k => packetOk k
  | .packet _ k => packetOk k
  | .fence k => packetOk k
  | .drainLimit _ _ => true
  | .hbmRead _ sector _ _ pat => sectorOk sector && patOk pat
  | .hbmWrite _ sector _ _ bytes => sectorOk sector && bytes.length == 32
  | .readModifyWrite _ sector pat => sectorOk sector && patOk pat
  | .patrolScrub _ pat => patOk pat
  | .stackFail _ => true
  | .ndr _ _ => true
  | .drs _ _ _ => true
  | .timeout _ _ _ => true
  | .cxlLinkDown _ _ _ => true
  | .snap k => packetOk k
  | .snapAck k => packetOk k
  | .snapNak k => packetOk k
  | .fillReq k => packetOk k
  | .fillPacket k => packetOk k
  | .fillEnd k => packetOk k
  | .fillTimeout _ => true
  | .restored k => packetOk k
  | .resume k => packetOk k
  | .handover k => packetOk k
  | .peerTraining _ => true
  | .dutyReturn temps => tempsOk temps
  | .rungEntryDone => true
  | .voteRecord k => packetOk k
  | .traceWrite _ => true
  | .fabricResetDone => true
  | .wrstNRise => true

end Sys2Proof
end

