-- ==== Sys2Proof/Tests/Slice0.lean ====
section
/-! SUPPORT. The model's own tests: an ill-formed command for each check of WellFormed, which the check refuses, and for
every clause of the statements that has hypotheses a state and operands that meet all of them together. -/

namespace Sys2Proof.Tests

open Sys2Proof Sys2Proof.Machine

/-! ## States and records -/

/-- Every island On at its nominal plan. -/
def lit : Tab IslandSt := (List.range 79).map (fun n => (n, { IslandSt.dflt n with pow := .on }))

/-- A device that runs firmware and serves commands: queue 0 holds a key and a counter reservation. -/
def live : State :=
  { isl := lit
    hkp := { boot := .firmware, ready := true, timersOn := true, starter := false, xtalOk := true, resetting := none }
    qrs := { state := 2, width := 8 }
    cru := { keys := [(0, some { k := 1, installer := 0 })] }
    per := { hq := [(0, 1024)] } }

/-- A record with the tag that queue 0's key gives it, or the zero tag of a signed record. -/
def sign (r : CmdRec) : CmdRec := { r with tag := if signedRecord r then 0 else tagOf 1 0 0 r }

/-- A record on queue 0. -/
def host (r : CmdRec) : Cmd := ⟨0, sign r, true⟩

/-- A critical record with counter 5. -/
def record (op : BitVec 8) (arg0 : BitVec 32) (addr : BitVec 48) (data arg1 : Word64) : CmdRec :=
  { op := op, crit := true, rsv0 := 0, htag := 7, arg0 := arg0, addr := addr, rsv1 := 0, data := data, arg1 := arg1
    ctr := 5, rsv5 := 0, tag := 0 }

/-- A REG_WRITE of a whole register, and a REG_READ, by offset in the control and status space. -/
def wr (o : Nat) (v : Word64) : CmdRec := record opWrite 0 (BitVec.ofNat 48 (csrBase + o)) v (BitVec.allOnes 64)
def rd (o : Nat) : CmdRec := record opRead 0 (BitVec.ofNat 48 (csrBase + o)) 0 0

/-- The state on which an accepted record's operation acts. -/
def next (s : State) (r : CmdRec) : State := ((s.linkWoken.useCredit 0).taken 0).modQueue 0 (fun u => { u with last := r.ctr })

/-- A signed record is taken. -/
def mayTake (s : State) (r : CmdRec) : Bool :=
  let u := (s.linkWoken.useCredit 0).taken 0
  s.picks 0 && (s.queue 0).fifo.isEmpty && s.linkReady && !u.badOpcode r && r.crit && !u.dev.hub79 &&
    tget u.cru.keys none 0 == some { k := 1, installer := 0 } && u.per.serial == 0 &&
    decide ((u.queue 0).last.toNat < r.ctr.toNat) && decide ((u.queue 0).floor.toNat ≤ r.ctr.toNat) &&
    decide (r.ctr.toNat < (u.reserved 0).toNat)

theorem taken_of (s : State) (r : CmdRec) (h : mayTake s r = true) : Taken s (host r) (next s r) := by
  simp only [mayTake, Bool.and_eq_true, Bool.not_eq_true', decide_eq_true_eq, beq_iff_eq] at h
  obtain ⟨⟨⟨⟨⟨⟨⟨⟨⟨⟨hp, hf⟩, hl⟩, hb⟩, hc⟩, hh⟩, hk⟩, hs⟩, h1⟩, h2⟩, h3⟩ := h
  have hf := List.isEmpty_iff.mp hf
  refine ⟨(s.linkWoken.useCredit 0).taken 0, ⟨hp, Or.inl ⟨hf, hl, rfl⟩⟩, hb, Or.inr ⟨hc, ?_, ?_⟩⟩
  · have hr : ¬((sign r).ctr.toNat ≤ (((s.linkWoken.useCredit 0).taken 0).queue 0).last.toNat ∨
        (sign r).ctr.toNat < (((s.linkWoken.useCredit 0).taken 0).queue 0).floor.toNat) := by
      show ¬(r.ctr.toNat ≤ _ ∨ r.ctr.toNat < _)
      omega
    show ((s.linkWoken.useCredit 0).taken 0).critErr 0 (sign r) = none
    have hg : signedRecord (sign r) = signedRecord r := rfl
    have ht : tagOf 1 0 0 (sign r) = tagOf 1 0 0 r := rfl
    simp only [State.critErr, State.tagErr, State.ctrErr, Option.or_eq_none_iff, hh, hg, hk, hs]
    by_cases hsr : signedRecord r = true
    · have : (sign r).tag = 0 := by simp [sign, hsr]
      simp only [hsr, this]
      simpa using hr
    · have : (sign r).tag = tagOf 1 0 0 r := by simp [sign, hsr]
      simp only [hsr, this, ht]
      simpa using hr
  · show State.accept ((s.linkWoken.useCredit 0).taken 0) 0 r.ctr true = some (next s r)
    simp only [State.accept, h3, if_true]; rfl

/-- The state that an owner's record reaches, whose counter is judged behind the record itself. -/
def pre (s : State) : State := (s.linkWoken.useCredit 0).taken 0
def mayRecord (s : State) (r : CmdRec) : Bool :=
  s.picks 0 && (s.queue 0).fifo.isEmpty && s.linkReady && !(pre s).badOpcode (sign r) && r.crit && ((pre s).tagErr 0 (sign r)).isNone

theorem record_of (s : State) (r : CmdRec) (b : List Byte) (h : mayRecord s r = true) (hb : (pre s).installBytes r = (pre s, .ok b)) :
    TakesRecord s (host r) (pre s) b := by
  simp only [mayRecord, Bool.and_eq_true, Bool.not_eq_true', Option.isNone_iff_eq_none] at h
  obtain ⟨⟨⟨⟨⟨hp, hf⟩, hl⟩, hb'⟩, hc⟩, ht⟩ := h
  exact ⟨pre s, ⟨hp, Or.inl ⟨List.isEmpty_iff.mp hf, hl, rfl⟩⟩, hb', hc, ht, hb⟩

theorem accept_next (s : State) (r : CmdRec) (p : Bool) (h : r.ctr.toNat < ((pre s).reserved 0).toNat) :
    (pre s).accept 0 r.ctr p = some (next s r) := by
  simp only [State.accept, h, if_true]; rfl

/-- A register write is taken and reaches its register. -/
def mayWrite (s : State) (r : CmdRec) (w : WriteRow) (g : Reg) : Bool :=
  mayTake s r && isWrite w s r && regAt r.addr.toNat == some g && (next s r).isOn g.island && !setsReserved g r

theorem writes_of (s : State) (r : CmdRec) (w : WriteRow) (g : Reg) (h : mayWrite s r w g = true) :
    Writes s (host r) w (next s r) g ((next s r).wouldBe g r) := by
  simp only [mayWrite, Bool.and_eq_true, Bool.not_eq_true', beq_iff_eq] at h
  obtain ⟨⟨⟨⟨h1, h2⟩, h3⟩, h4⟩, h5⟩ := h
  exact ⟨taken_of s r h1, h2, h3, h4, h5, rfl⟩

/-- A register read is taken and reaches its register. -/
def mayRead (s : State) (r : CmdRec) (g : Reg) : Bool :=
  mayTake s r && r.op == opRead && regAt r.addr.toNat == some g && (next s r).isOn g.island

theorem reads_of (s : State) (r : CmdRec) (g : Reg) (h : mayRead s r g = true) : Reads s (host r) (next s r) g := by
  simp only [mayRead, Bool.and_eq_true, beq_iff_eq] at h
  obtain ⟨⟨⟨h1, h2⟩, h3⟩, h4⟩ := h
  exact ⟨taken_of s r h1, h2, h3, h4⟩

/-- Four facts that one computation shows, before others. -/
theorem front4 {a b c d r : Prop} (h : a ∧ b ∧ c ∧ d) (t : r) : a ∧ b ∧ c ∧ d ∧ r := ⟨h.1, h.2.1, h.2.2.1, h.2.2.2, t⟩

/-- What a computation that succeeds gives, as a pair. -/
theorem pair_some {α β : Type} (p : α × Option β) (d : β) (h : p.2.isSome = true) : p = (p.1, some (p.2.getD d)) := by
  obtain ⟨a, b⟩ := p; cases b with
  | none => cases h
  | some x => rfl

/-- A partition 0 of racks 0 and 1, in a state. -/
def parted (st : PState) : State := { live with parts := [(0, { state := st, racks := 3 })] }

/-- A frame: its header word, its payload, a zero trailer, and its CRC. -/
def frame (h : Nat) (p : List Byte) : List Byte :=
  let b := leBytes 4 h ++ p ++ List.replicate (248 - p.length) 0
  b ++ leBytes 4 (crc32 b)

/-- Firmware images of two versions, signed under the root key. -/
def image (v : BitVec 32) : FwImage := { version := v, digest := 0, pkHash := rootHash }

/-- In S1: the rack islands in retention. -/
def asleep : State :=
  { live with
    hkp := { live.hkp with rung := 1 }
    isl := (List.range 79).map (fun n => (n, { IslandSt.dflt n with pow := if n < 48 then .retention else .on })) }

/-- Island 78 coasts. -/
def coasting : State := { live with isl := tset lit (IslandSt.dflt 78) 78 { IslandSt.dflt 78 with pow := .on, coast := true } }

/-- Every island has a proposal. -/
def proposed : State :=
  { live with isl := (List.range 79).map (fun n => (n, { IslandSt.dflt n with pow := .on, pvalid := true, pcode := 200 })) }

/-- A window of 64 bytes at the top of HBM. -/
def windowed (open_ read : Bool) : State :=
  { live with qrs := { live.qrs with
      readCredits := [(7, 1)]
      windows := [(7, { isOpen := open_, isRead := read, base := hbmTop - 64, len := 64 })] } }

/-- An event, and a device that holds one. -/
def event : Event := { src := 5, code := .memCe, seq := 0, time := 0, payload := [] }

/-! ## Install records -/

/-- An install record in the mailbox: OP, owner slot 0 as signer and target, queues 0 to 15, OSEQ 1. -/
def boxOf (op : BitVec 64) : Tab (BitVec 64) := [(0, 0xA13C1057 ||| op <<< 32), (1, 0xFFFF), (3, 1), (432, 1)]
def noteOf (op : BitVec 64) : List Byte :=
  ({ live with cru := { live.cru with mbox := boxOf op } }).mailbox.take installLen

/-- The record stands in the mailbox, its signer in owner slot 0, and its challenge is the current one. -/
def boxed (op : BitVec 64) : State :=
  { live with
    cru := { live.cru with mbox := boxOf op, chalValid := true }
    per := { live.per with owners := [(0, some (installOf (noteOf op)).pkHash)] } }

/-- The same behind a newer counter of its queue. -/
def late : State := { boxed 1 with qrs := { live.qrs with queues := [(0, { last := 5 })] } }

theorem signer_ok (p : Persist) (r : InstallRec) (h : r.op ≠ 5) (h' : r.op ≠ 7) (hs : r.sslot = 0)
    (he : tget p.owners none 0 = some r.pkHash) : p.signerOk r = true := by
  simp [Persist.signerOk, h, h', hs, he]

theorem install_none (s : State) (r : InstallRec) (d : Bool) (h1 : r.ok = true) (h2 : d = decide (6 ≤ r.op))
    (h3 : r.serial = s.per.serial) (h4 : s.per.oseq.toNat < r.oseq.toNat) (h5 : s.per.signerOk r = true) :
    s.installErr r d true = none := by
  have e1 : (!r.ok || (d != decide (6 ≤ r.op))) = false := by rw [h1, ← h2]; cases d <;> rfl
  unfold State.installErr
  rw [e1, if_neg (by decide), if_neg (fun h => h h3), if_neg (Nat.not_le.mpr h4), h5, if_neg (by decide), if_neg (by decide)]

/-! ## Bytes in memory -/

theorem read_ok (s : State) (w : Who) (a n : Nat) (h : s.accessErr w false a n = none) (hc : s.cxl.ports = [] := by rfl) :
    s.read w a n = (s, .ok (s.readBytes a n)) := by simp [State.read, State.afterWrites, State.cellarWrites, hc, h]

theorem snap_ok (s : State) (a n : Nat) (h : s.accessErr .snapshot false a n = none) (hc : s.cxl.ports = [] := by rfl) :
    s.snapRead a n = (s, some (s.readBytes a n)) := by simp [State.snapRead, read_ok s .snapshot a n h hc, Except.toOption]

/-- The port of an agent does not matter to whether its access goes through. -/
theorem accessErr_port (s : State) (q : Requester) (port p : Nat) (w : Bool) (a n : Nat) :
    s.accessErr (.agent q port p) w a n = s.accessErr (.agent q 0 p) w a n := by
  have h : ∀ x, s.gateErr (.agent q port p) w x = s.gateErr (.agent q 0 p) w x := fun x => rfl
  simp only [State.accessErr, h]

theorem place_hbm (s : State) (a : Nat) (h : a < 2 ^ 20) : s.place a = .hbm (hbmLoc s.dev.spE.toNat s.dev.spW.toNat a).1
    (hbmLoc s.dev.spE.toNat s.dev.spW.toNat a).2 := by
  have : a < hbmTop := Nat.lt_trans h (by decide)
  simp [State.place, this]

theorem key_low (s : State) (hs : s.dev.spE = 0x30) (a : Nat) (h : a < 2 ^ 20) :
    s.key a = a / 256 % 6 * stackBytes + (a / 256 / 6 * 256 + a % 256) := by
  have h1 : a < hbmDie := Nat.lt_trans h (by decide)
  have h2 : a < 309237645312 := Nat.lt_trans h (by decide)
  simp [State.key, place_hbm s a h, hbmLoc, h1, hs, gib, h2]

/-- Bytes stored low in HBM read back. -/
theorem read_stored (s t : State) (a : Nat) (b : List Byte) (hs : s.dev.spE = 0x30) (ht : t.dev = s.dev)
    (hm : t.mem = (s.setBytes a b).mem) (h : a + b.length ≤ 2 ^ 20) : t.readBytes a b.length = b := by
  apply List.ext_getElem (by simp [State.readBytes])
  intro i h1 h2
  have hi : a + i < 2 ^ 20 := by omega
  have hp : t.place (a + i) = s.place (a + i) := by simp [State.place, ht]
  have hr : t.readByte (a + i) = t.byteAt (a + i) := by simp [State.readByte, place_hbm t _ hi]
  have hk : t.key (a + i) = s.key (a + i) := by simp [State.key, hp]
  have hb : t.byteAt (a + i) = (s.setBytes a b).byteAt (a + i) := by
    simp only [State.byteAt, hm, hk, key_setBytes]
  simp only [State.readBytes, List.getElem_map, List.getElem_range, hr, hb]
  refine byteAt_setBytes_same s a b i h2 (fun j hj hij => ?_)
  rw [key_low s hs _ hi, key_low s hs _ (by omega)]
  simp only [stackBytes, gib]
  omega

/-- The root key, whose hash the boot ROM holds, and records that it signs. -/
def rootBytes : List Byte := (List.range 1793).map Config.rootKey
def rootNote : List Byte :=
  (leBytes 4 0xA13C1057 ++ [7, 0, 0, 0] ++ zeros 16 ++ leBytes 8 1 ++ zeros 1600) ++
    (rootBytes ++ (zeros 31 ++ leBytes 2 1 ++ zeros 1662))
def fwBytes : List Byte :=
  (leBytes 4 0xA13CF003 ++ [1, 0, 0x10, 0] ++ leBytes 8 4096 ++ [0, 0] ++ leBytes 4 9 ++ zeros 42) ++
    (rootBytes ++ (zeros 63 ++ [1] ++ zeros 2175))
def rootedOn (m : List Host.Cell) : State := { live with mem := m, cru := { live.cru with chalValid := true } }
def stagedOn (m : List Host.Cell) : State := { live with mem := m, cru := { live.cru with fwActive := true } }
def rooted : State := rootedOn (live.setBytes 64 rootNote).mem
def staged : State := stagedOn (live.setBytes 64 fwBytes).mem

/-- A firmware header of zeros but for its length, 4096. -/
def unsigned : State := live.setByte 9 0x10

theorem ne_succ (x : BitVec 256) : x ≠ x + 1 := by
  simp

/-! ## Recipes -/

/-- Partition 0 with rack 0, and an image of its slice. -/
def partRec : PartRec :=
  { part := 0, discard := false, proofK := 6, proofSlots := 0, ageLimit := 0x4000, phase := 0, racks := [0], lfirst := 0
    llast := 15, s0 := 1, watchdog := 0, fscratch := 0, proofSeed := 1 }
def gangs0 : List GangRec := [{ rack := 0, part := some 0, gangStart := 1, exclude := 0 }]
def region (base : Nat) (k : RegionKind) : RegionRec := { base := base, size := 0x10000, owner := some 0, kind := k }
def recipe : Image :=
  { magic := 0xA13C0003, format := 1, kind := 2, part := 0, length := 0x10000, rsvOk := true, imgid := 0, pkHash := 5
    dir := [1, 2, 3, 7, 8].map (fun t => { type := t, offset := 8192 + 4096 * t, slen := 16, rsvOk := true, count := 0, size := 0, headOk := true })
    parts := [partRec], gangs := gangs0, streams := [{ rack := 0, streamId := 1, seed := 1 }], spE := 0x30, spW := 0x30
    regions := [region 0x100000 .data, region 0x200000 .steering, region 0x300000 .master, region 0x400000 .exchange]
    windows := [{ rack := 0, win := 0, base := 0x8000, size := 4096 }], decoders := [], expected := [], ide := [], links := none, seals := []
    ledger := [(9, { rung := 1 })], classes := [], groups := [], policy := [], locks := [], entries := [], rackBytes := []
    library := [], buckets := [], layers := [], rsets := [], owners := [], uprogs := [], scheds := [], snaps := []
    clocks := [], blobs := [], bad := [] }

/-- Every stack armed; owner slot 0 holds the recipe's signer. -/
def ready : State :=
  { live with
    hbm := (List.range 12).map (fun k => (k, { armed := true }))
    per := { live.per with owners := [(0, some 5)] } }

/-- A slice commit of partition 0, with the digest that its bytes give or another, in a phase. -/
def jobOf (d : BitVec 256) (i : Option Image) : CommitJob :=
  { q := 0, htag := 7, slice := true, part := 0, image := 0x1000000, length := 0x10000, digest := d, img := i, prev := .empty }
def digestOf : BitVec 256 := imageDigest (ready.readBytes 0x1000000 0x10000)
def loading (d : BitVec 256) (i : Option Image) (phase : BitVec 3) : State :=
  { ready with rcp := { job := some (jobOf d i), phase := phase }, parts := [(0, { state := .loading })] }

/-- A page of 4 KiB that begins with some bytes. -/
def page (l : List Byte) : List Byte := l ++ List.replicate (4096 - l.length) 0

def dirBytes (t off slen : Nat) : List Byte := leBytes 2 t ++ zeros 6 ++ leBytes 8 off ++ leBytes 8 slen ++ zeros 8
def headBytes (n size : Nat) : List Byte := leBytes 4 n ++ leBytes 4 size ++ zeros 8
def regionBytes (base kind : Nat) : List Byte := leBytes 8 base ++ leBytes 8 0x10000 ++ [0, BitVec.ofNat 8 kind] ++ zeros 14

/-- The slice of partition 0 as the layouts of R295 to R300 spell it, with a signature of one byte. -/
def sliceBytes : List Byte :=
  page (leBytes 4 0xA13C0003 ++ [1, 0, 2, 0] ++ leBytes 8 28672 ++ [5, 0] ++ zeros 1902 ++ [1]) ++
  (page (dirBytes 1 8192 32 ++ dirBytes 2 12288 288 ++ dirBytes 3 16384 176 ++ dirBytes 7 20480 144 ++ dirBytes 8 24576 16) ++
  (page (headBytes 1 16 ++ zeros 4 ++ [1] ++ zeros 11) ++
  (page (headBytes 1 256 ++ leBytes 8 0x40000060 ++ leBytes 8 1 ++ zeros 8 ++ leBytes 8 1 ++ leBytes 8 0x100000000 ++ zeros 216 ++
    ([0, 0, 1, 0, 1] ++ zeros 11)) ++
  (page (headBytes 4 32 ++ zeros 32 ++ regionBytes 0x100000 1 ++ regionBytes 0x200000 2 ++ regionBytes 0x300000 5 ++
    regionBytes 0x400000 4) ++
  (page (zeros 16 ++ (List.replicate 8 ([0, 0x80, 0, 0x80] ++ zeros 12)).flatten) ++ page [])))))

/-- The Ledger entries of one layer, Fixed at FP16. -/
def plainWords : List (Nat × LedgerEntry) := (List.range 8).map (fun k => (k, { cwE := 0x8000, cwO := 0x8000 }))

/-- What of it the layouts leave open. -/
def sliceLay : ImageLay :=
  { spE := 0x30, spW := 0x30, regionCount := 4, windows := [{ rack := 0, win := 0, base := 0x8000, size := 4096 }], decoderCount := 0
    expected := [], ide := [], links := none, seals := [], ledger := [⟨0, 20496, 128⟩], classes := [], groups := [], locks := [], entries := []
    rackBytes := [], library := [], buckets := [], layers := [], rsets := [], owners := [], uprogs := [], scheds := [], snaps := []
    clocks := [], blobs := [] }

/-- The image that the bytes spell. -/
def spelled : Image :=
  { recipe with
    length := 28672, parts := [{ partRec with llast := 0 }], ledger := plainWords, policy := [(0, [])]
    dir := [{ type := 1, offset := 8192, slen := 32, rsvOk := true, count := 1, size := 16, headOk := true },
            { type := 2, offset := 12288, slen := 288, rsvOk := true, count := 1, size := 256, headOk := true },
            { type := 3, offset := 16384, slen := 176, rsvOk := true, count := 4, size := 32, headOk := true },
            { type := 7, offset := 20480, slen := 144, rsvOk := true, count := 0, size := 0, headOk := true },
            { type := 8, offset := 24576, slen := 16, rsvOk := true, count := 0, size := 0, headOk := true }] }

set_option Elab.async false in
theorem sliceBytes_length : sliceBytes.length = 28672 := by decide +kernel

set_option Elab.async false in
theorem slice_spelled : { imageOf 0 sliceLay sliceBytes with pkHash := 5 } = spelled := by decide +kernel

/-- A slice commit of those bytes in its digest pass, with their key in owner slot 0. -/
def imaged (m : List Host.Cell) (h : BitVec 256) : State :=
  { ready with
    mem := m, per := { live.per with owners := [(0, some h)] }
    parts := [(0, { state := .loading })]
    rcp := { phase := 2, job := some { q := 0, htag := 7, slice := true, part := 0, image := 64, length := 28672, digest := 0, img := none
                                       prev := .empty } } }
def imaged0 : State := imaged (live.setBytes 64 sliceBytes).mem (imagePkHash sliceBytes)
def imageJob : CommitJob :=
  { q := 0, htag := 7, slice := true, part := 0, image := 64, length := 28672, digest := 0, img := none, prev := .empty }

theorem imageRead_ok (s : State) (j : CommitJob) (h : s.accessErr .processor false j.image j.length = none)
    (hc : s.cxl.ports = [] := by rfl) : s.imageRead j none = (s, some (s.readBytes j.image j.length)) := by
  have hn : s.markUes none = s := rfl
  simp [State.imageRead, hn, read_ok s .processor j.image j.length h hc]

theorem imageRead_ue (s : State) (j : CommitJob) (k : Nat) : (s.imageRead j (some k)).2 = none := by
  unfold State.imageRead
  dsimp only
  split
  · next h => cases h
  · rfl

theorem imaged_mem (m : List Host.Cell) (h : BitVec 256) : (imaged m h).mem = m := rfl

theorem signed_by (i : Image) (h : BitVec 256) (e : { i with pkHash := 5 } = spelled) (hk : i.pkHash = h) : i = { spelled with pkHash := h } := by
  subst hk
  rw [← e]

theorem imaged_read : imaged0.imageRead imageJob none = (imaged0, some sliceBytes) := by
  have h := read_stored live imaged0 64 sliceBytes rfl rfl (imaged_mem _ _) (by rw [sliceBytes_length]; decide)
  rw [sliceBytes_length] at h
  rw [imageRead_ok imaged0 imageJob (by decide +kernel)]
  exact congrArg (fun b => (imaged0, some b)) h

/-- The image, signed by the key of owner slot 0. -/
def signedImage : Image := { spelled with pkHash := imagePkHash sliceBytes }

def imageJob1 : CommitJob := { imageJob with digest := imageDigest sliceBytes, img := some (imageOf 0 sliceLay sliceBytes) }

/-- The state that its validation starts from. -/
def named0 : State :=
  overAll signedImage.parts (fun r u => { u with rcp := { u.rcp with pdigest := tset u.rcp.pdigest 0 r.part.val imageJob1.digest } }) imaged0

theorem slice_image : imageOf 0 sliceLay sliceBytes = signedImage :=
  signed_by _ _ slice_spelled (by unfold imageOf; rfl)

set_option Elab.async false in
theorem image_records : checkErr signedImage (imaged0.recordErrs signedImage (some 0) (named0.applied true signedImage)) = none := by
  decide +kernel

set_option Elab.async false in
theorem image_conflicts : imaged0.sliceConflict signedImage 0 (named0.applied true signedImage) = none := by decide +kernel

theorem image_rest : headerOk signedImage imageJob1 = true ∧ sectionErr signedImage true = none ∧ scopeErr signedImage (some 0) = none ∧ imaged0.trayErr signedImage = none ∧
    imaged0.cellarErr signedImage true = none ∧ imaged0.miswiredErr signedImage true = none := by
  decide +kernel

theorem image_signer : (List.range 4).any (fun k => tget imaged0.per.owners none k == some signedImage.pkHash) = true :=
  List.any_eq_true.mpr ⟨0, by decide, beq_iff_eq.mpr rfl⟩

theorem rejects_none (l : List (Option Reject)) (h : ∀ x ∈ l, x = none) : firstReject l = none := by
  simp only [firstReject, List.findSome?_eq_none_iff, id]
  exact h

theorem image_accepted : imaged0.imageErr imageJob1 (imageOf 0 sliceLay sliceBytes) true = none := by
  rw [slice_image]
  unfold State.imageErr
  refine rejects_none _ ?_
  simp only [List.forall_mem_cons, List.not_mem_nil, false_implies, implies_true, and_true]
  exact ⟨if_neg (by decide), if_pos image_signer, if_pos trivial, if_pos image_rest.1, image_rest.2.1, image_rest.2.2.1, image_records, image_conflicts,
    image_rest.2.2.2.1, image_rest.2.2.2.2.1, image_rest.2.2.2.2.2⟩

/-- A full recipe of that partition alone, and its commit in its apply pass. -/
def fullRecipe : Image := { recipe with kind := 1 }
def fullLoading : State :=
  { ready with
    rcp := { job := some { jobOf digestOf (some fullRecipe) with slice := false }, phase := 4 }, parts := [(0, { state := .loading })] }

/-- Partition 0 of rack 0 with its slice, in a state. -/
def slice0 : Slice := imageSlice recipe partRec
def held (x : PartSt) : State := { live with parts := [(0, { x with racks := 1 })], rcp := { slices := [(0, slice0)] } }

/-- The same in Run with steps to open, its stream active. -/
def running (x : PartSt) : State :=
  { held { x with state := .run } with racks := [(0, { stream := { state := .active, id := 1 } })] }

/-- The trace ring in a region of the Pantry, with one record in rack 47's queue. -/
def trace : TraceRec :=
  { time := 0, kind := 1, rack := 47, slot := 0, backward := false, prio := 0, proof := false, step := 0, layer := 0, opid := 0
    mb := 0, gang := 0, arg0 := 0, arg1 := 0 }
def tracing : State :=
  { live with
    rcp := { common := [{ base := pantryBase, size := 0x10000, owner := none, kind := .data }] }
    trc := { enable := true }, racks := [(47, { obs := { queue := [trace] } })] }

theorem rootBytes_length : rootBytes.length = 1793 := by simp [rootBytes]

set_option Elab.async false in
theorem rootNote_length : rootNote.length = installLen := by decide +kernel

theorem install_at (s : State) (c : CmdRec) (b : List Byte) (h0 : c.addr.toNat ≠ 0)
    (h1 : ¬(c.addr.toNat % 64 ≠ 0 ∨ hbmTop < c.addr.toNat + installLen))
    (hr : s.read .processor c.addr.toNat installLen = (s, .ok b)) : s.installBytes c = (s, .ok b) := by
  simp [State.installBytes, h0, h1, hr]

theorem rooted_mem (m : List Host.Cell) : (pre (rootedOn m)).mem = m := rfl

theorem rooted_read : (pre rooted).installBytes (record opDebug 0 64 0 0) =
    (pre rooted, .ok rootNote) := by
  have h := read_stored live (pre rooted) 64 rootNote rfl rfl (rooted_mem _) (by rw [rootNote_length]; decide)
  rw [rootNote_length] at h
  have hr := read_ok (pre rooted) .processor 64 installLen (by decide)
  rw [h] at hr
  exact install_at _ _ _ (by decide) (by decide) hr

set_option Elab.async false in
theorem rootNote_key : (rootNote.drop 1632).take 1793 = rootBytes := by
  unfold rootNote
  rw [List.drop_left' (by decide +kernel), List.take_left' rootBytes_length]

set_option Elab.async false in
theorem rooted_ok : (pre rooted).installErr (installOf rootNote) true true = none := by
  refine install_none _ _ true (by decide +kernel) (by decide +kernel) (by decide +kernel) (by decide +kernel) ?_
  have h7 : (installOf rootNote).op = 7 := by decide
  have hk : (installOf rootNote).pkHash = rootHash := congrArg digest256 rootNote_key
  have ho : (pre rooted).per.ownerCount = 0 := by decide
  simp [Persist.signerOk, h7, hk]
  exact ho

set_option Elab.async false in
theorem fwBytes_length : fwBytes.length = 4096 := by decide +kernel
theorem fwBytes_key : imagePkHash fwBytes = rootHash := by
  have h : (fwBytes.drop 64).take 1793 = rootBytes := by
    unfold fwBytes
    rw [List.drop_left' (by decide), List.take_left' rootBytes_length]
  exact congrArg digest256 h

/-- The state in which STAGE reads its image. -/
def stageAt (s : State) (a : BitVec 64) : State :=
  (next s (wr 0xF00060 (a ||| 1 <<< 48))).putReg (State.wouldBe (next s (wr 0xF00060 (a ||| 1 <<< 48))) .cruFwctl (wr 0xF00060 (a ||| 1 <<< 48))) .cruFwctl

theorem staged_mem (m : List Host.Cell) : (stageAt (stagedOn m) 64).mem = m := rfl

theorem staged_read : (stageAt staged 64).read .processor 64 4096 = (stageAt staged 64, .ok fwBytes) := by
  have h := read_stored live (stageAt staged 64) 64 fwBytes rfl rfl (staged_mem _) (by rw [fwBytes_length]; decide)
  rw [fwBytes_length] at h
  rw [read_ok _ _ _ _ (by decide), h]

/-- What STAGE reads of it. -/
def unsignedBytes (n : Nat) : List Byte :=
  (stageAt unsigned 0).readBytes
    (fieldOf (State.wouldBe (next unsigned (wr 0xF00060 (0 ||| 1 <<< 48))) .cruFwctl (wr 0xF00060 (0 ||| 1 <<< 48))) 47 0) n

/-! ## Tasks -/

/-- A descriptor of a kind, and its operation at a stage, on step 1. -/
def desc (kind : Nat) : Desc := { descBlank rackBase 1 with kind := kind, m := 1, k := 1 }
def op (kind : Nat) (st : Stage) : Op := { desc := desc kind, stage := st }

/-- Partition 0 in Run with step 1 open; slot 127 of rack 0. -/
def stepping : PartSt := { state := .run, everOpen := true, openReg := 1, nextOpen := 2, inready := 1, racks := 1 }
def slots (l : Tab Slot) (cycle : Nat) : State :=
  { held stepping with
    racks := [(0, { stream := { state := .active, id := 1, step := 1 }, slots := l, cycle := cycle })] }
def newer_ (o : Op) (st : SlotState) : State := slots [(127, { state := st, newer := some o })] 0
def older_ (o : Op) : State := slots [(127, { state := .run, older := some o })] 0

/-- A slot that fetches at the start of its rack's store, where an END or zeros stand. -/
def fetching (b : Byte) : State :=
  { slots [(127, { state := .wait, next := rackBase })] 0 with mem := if b = 0 then [] else [(rackBase, b)] }

/-- A source program of one run of one element at 0x2000 of the store. -/
def progCells : List Host.Cell :=
  [(rackBase + 0x101, 0x20), (rackBase + 0x104, 0x10), (rackBase + 0x105, 1), (rackBase + 0x106, 0x10), (rackBase + 0x118, 1),
    (rackBase + 0x128, 1), (rackBase + 0x138, 1), (rackBase + 0x148, 1), (rackBase + 0x158, 1)]

/-- A VEC of one FP16 element with that program, before and after its latch. -/
def vec (st : Stage) (l : List FillKind) (cw : BitVec 16) : Op :=
  { desc := { desc 1 with aSrc := rackBase + 0x100 }, stage := st, fills := l, cwA := cw }
def feeding (o : Op) : State :=
  { newer_ o .wait with
    mem := progCells, gov := { ledger := [(0, { cwE := 0x8000, cwO := 0x8000 })] } }

/-- A TILE of one FP16 row. -/
def tile (st : Stage) : Op := { op 0 st with cwA := 0x8000, cwB := 0x8000 }

/-- A fused kernel of one row, with two feature tiles or one key tile of one column, at an internal operation, in a state whose
memory holds its programs. -/
def fusedPar0 (k : FusedKind) (round : Nat) : Fused :=
  { kind := k
    par := { feats := 2, tiles := 1, head := 1, score := 0, konst := 0, ents := List.replicate 10 0, progs := List.replicate 13 (rackBase + 0x100) }
    words := (List.range 8).map (fun i => (i, 0x8000)), block := 1, width := 1, round := round }
def fused (k : FusedKind) (round : Nat) (st : Stage) : Op :=
  { op 2 st with
    desc := { desc 2 with aSrc := rackBase + 0x100, bSrc := rackBase + 0x100 }
    cwA := 0x8000, cwB := 0x8000, g := 1, fused := some (fusedPar0 k round) }
def fusing (o : Op) : State := { older_ o with mem := progCells }
def fp16Pair : PairInfo := (pairInfo 0x8000 0x8000).get (by decide)

theorem pair_ok {α β ε : Type} (p : α × Except ε β) (d : β) (h : p.2.toOption.isSome = true) :
    p = (p.1, .ok (p.2.toOption.getD d)) := by
  obtain ⟨a, b⟩ := p
  cases b with
  | error e => cases h
  | ok x => rfl

theorem error_pair {α β ε : Type} (p : α × Except ε β) (e : ε) (h : p.2 = .error e) : p = (p.1, .error e) := by
  obtain ⟨a, b⟩ := p
  exact congrArg (Prod.mk a) h

/-- The passes behind a tile, behind attention's last dS·K and behind a normalisation's first tile, and their writes. -/
def raws (o : Op) (f : Fused) : List (List Nat) :=
  chunks (fusedOp o.desc f).cols o.results.length (o.results.map (fun x => x.toNat))
def whiskStep : State × Except BusErr (List (BitVec 64)) := (older_ (tile .result)).runWhisk 0 0 (tile .result)
def whiskWrites : State × Except (Nat × Nat) (List Nat) :=
  whiskStep.1.writeSampled 0 0 127 (tile .result) (tile .result).desc.m (opRow (tile .result))
    ((whiskStep.2.toOption.getD []).map (fun x => (if opWide (tile .result) then fp64 else fp32).decode x.toNat)) []
def passProgs_ (o : Op) (f : Fused) : State × Except (Nat × Nat) (List (PassShape × List (OutSide × Prog))) :=
  (fusing o).passProgs 0 0 o (f.shapes o)
def passReads_ (o : Op) (f : Fused) : State × Except (Nat × Nat) (List (List (List Nat))) :=
  (passProgs_ o f).1.fusedReads 0 0 o f (f.reads o.desc.m)
def passVals (o : Op) (f : Fused) : State × Fused × List (List Sys2Proof.Machine.Num) :=
  (passReads_ o f).1.passValues 0 o f ((passReads_ o f).2.toOption.getD [])
def passWritten (o : Op) (f : Fused) : State × Except (Nat × Nat) (List Nat) :=
  (passVals o f).1.passWrites 0 0 127 o (List.zip ((passProgs_ o f).2.toOption.getD []) (passVals o f).2.2)

/-- A pass of attention that writes into the window that another slot's operation holds. -/
def writing : Op :=
  { fused .attnBwd 3 .result with desc := { (fused .attnBwd 3 .result).desc with nout := 1, out0 := rackBase + 0x100 }, cwO0 := 0x8000 }
def behindWindow : State :=
  { slots [(126, { state := .feed, newer := some (tile .latched) }), (127, { state := .drain, older := some writing })] 0 with
    mem := progCells
    rcp := { slices := [(0, { slice0 with windows := [{ rack := 0, win := 0, base := 0x2000, size := 4096 }] })] } }
def writingProgs : State × Except (Nat × Nat) (List (PassShape × List (OutSide × Prog))) :=
  behindWindow.passProgs 0 0 writing ((fusedPar0 .attnBwd 3).shapes writing)

/-- Operations at their fills: a VEC's operand, a tile's initial values, an issued kernel's operand. -/
def vecFill : Op := vec .latched [.a] 0x8000
def vecFeeds : State := { slots [(127, { state := .feed, newer := some vecFill })] 0 with mem := progCells }
def initFill : Op := { tile .latched with fills := [.init], desc := { desc 0 with init := rackBase + 0x100, acc := 1 } }
def initFeeds : State := { newer_ initFill .feed with mem := progCells }
def innerFill : Op := { fused .attnBwd 2 .latched with fills := [.b] }
def vecRun : State × Except BusErr (Nat × Nat × Nat) := vecFeeds.runFill 0 0 vecFill (feedSide vecFill .a) (opConv vecFill .a)
def initRun : State × Except BusErr (List (BitVec 64)) := initFeeds.runInit 0 0 initFill (opInit initFill).1 (opInit initFill).2
def innerRun : State × Except BusErr (Nat × Nat × Nat) :=
  (fusing innerFill).runFill 0 0 innerFill (feedSide innerFill .b) (opConv innerFill .b)

/-- Seventeen VECs in their feeders, the last of which waits for the fill engine. -/
def crowded : State :=
  slots ((List.range 17).map (fun i => (i, { state := .feed, newer := some { vecFill with feed := i } }))) 17

/-- A tile whose window holds an uncorrectable word. -/
def spoiled : State := { older_ (tile .released) with secded := [(older_ (tile .released)).winBase 0 0 / 8] }

/-! ## Packets and steering -/

/-- A word of bucket 9 and step 1 from rank 3. -/
def word (b : Body) : Packet :=
  { kind := bodyCode b, detour := 0, src := 3, dst := 0, dcoord := 0, seq := 1, step := 1, stream := 1, epoch := 0, bucket := 9
    part := 0, crcOk := true, body := b }

/-- A state with an accepted word. -/
def given (s : State) (k : Packet) : State := { s with inbox := [k] }

theorem given_takes (s : State) (k : Packet) : (given s k).takes k = true := by simp [State.takes, given]

/-- A steering group of ranks 0 and 3, which rank 3 owns. -/
def group : GroupRec :=
  { group := 2, part := 0, members := [0, 3], owner := 3, bucket := 77, lo := 0, hi := 0, policyBytes := [] }
def grouped (l : List GroupRec) : Slice := { slice0 with groups := l }
def steering (l : List GroupRec) (k : Knd) : State :=
  { live with
    parts := [(0, stepping)], rcp := { slices := [(0, grouped l)] }, knd := k
    racks := [(0, { stream := { state := .active, id := 1, step := 1 } })] }

/-- A proof slot of one narrow FP16 line and its wide values, and a proof task that has its products, at an address. -/
def copy0 (a : Nat) : ProofCopy := { index := 9, tokens := false, word := 0x8000, lines := 1, len := 1, elems := a, scales := 0, tiles := 1 }
def slotOf0 (a : Nat) : ProofSlot :=
  { slot := 0, step := 1, backward := false, m := 1, n := 1, copies := [copy0 a], values := rackBase + 0x200, todo := [9] }
def proof0 : Op := { op 0 .result with probe := some (0, 9), g := 1 }
def proving (a : Nat) (l : Tab StatRec) : State :=
  { slots [] 0 with
    gov := { ledger := [(9, { rung := 1, state := .steady })] }
    racks := [(0, { stream := { state := .active, id := 1, step := 1 }, slots := [(127, { state := .drain, older := some proof0 })]
                    proofs := [slotOf0 a], sieve := l })] }

/-- A seal domain of two ranks, or of three in which this device may stand between. -/
def sealed (domain : List Nat) (root : Nat) (x : PartSt) (k : Knd) : State :=
  { live with
    parts := [(0, x)], knd := k
    rcp := { slices := [(0, { slice0 with sealCfg := some { part := 0, domain := domain, root := root } })] } }

theorem parent_two (s : State) (p a b : Nat) (h : s.sealOrder p = [a, b]) (hab : a ≠ b) :
    s.sealParent p b = some a ∧ s.sealParent p a = none := by
  simp [State.sealParent, h, List.findIdx?_cons, hab, Nat.mod_one]

theorem child_two (s : State) (p a b : Nat) (h : s.sealOrder p = [a, b]) (hab : a ≠ b) (hr : s.lnk.rank.toNat = a) :
    b ∈ s.sealChildren p := by
  simp [State.sealChildren, h, (parent_two s p a b h hab).1, hr]

/-! ## Buckets -/

/-- Bucket 9 of one segment, owned by a rank, on rack 0. -/
def bucket (owner : Nat) : BucketRec :=
  { bid := 9, paired := false, relcnt := 1, rrack := 0, owner := owner, acc := 0x100000, nseg := 1, gret := 0x102000
    par0 := 0x100000, par1 := 0x100000, arack := 0, actr := 0, crack := 0, cctr := 0, cval := 1, lfirst := 0, llast := 0
    rset := 0 }

/-- Its one route: up to rank 3 by port 1, or down to children by port. -/
def leafRoute : Route := { parent := some 1, parentRank := 3, children := [] }
def rootRoute (l : List (Nat × Nat)) : Route := { parent := none, parentRank := 0, children := l }
def ctxOf (owner : Nat) (r : Route) : KndCtx :=
  { p := 0, b := bucket owner, r := { rset := 0, owner := owner, members := [3, 5], routes := [r] } }

/-- This device, rank 5, as a contributor, as the owner with rank 3 or with ranks 3 and 6 below it. -/
def leaf : KndCtx := ctxOf 3 leafRoute
def root : KndCtx := ctxOf 5 (rootRoute [(2, 3)])
def root2 : KndCtx := ctxOf 5 (rootRoute [(2, 3), (4, 6)])

def owned : OwnerRec :=
  { bid := 9, rset := 0, eng := 0, mw40 := false, bound := false, guardBits := 0, nstate := 0, uprog := 0, sched := 0, holders := 2
    mg0 := 0x300000, mg1 := 0x304000, sg0 := 0, sg1 := 0, spitch := 0, pmap := 0, const := 0x104000 }
def layer1 : LayerMap := { bid := 9, layer := 0, o := 1, i := 1, moff := 0, wprg := 0x100000, tprg := 0x100000 }

/-- Partition 0 in Run with that bucket. -/
def kneading (c : KndCtx) (l : List LayerMap) (k : Knd) : State :=
  { live with
    parts := [(0, { state := .run, racks := 1, everOpen := true, openReg := 1, nextOpen := 2 })], lnk := { rank := 5 }, knd := k
    gov := { ledger := [(0, { cwE := 0x8000, cwO := 0x8000 }), (1, { cwE := 0x8000, cwO := 0x8000 })] }
    racks := [(0, { stream := { state := .active, id := 1 } })]
    rcp := { slices := [(0, { slice0 with buckets := [c.b], rsets := [c.r], owners := if c.b.owner = 5 then [owned] else [], layers := l, scheds := [{ sched := 0, base := 0x108000, len := 4 }] })] } }

/-- The bucket's record at step 1, or as the parameters of step 2 find it. -/
def bkt1 : Bkt := { bid := 9, step := 1 }
def one (b : Bkt) : Knd := { bkts := [b] }
def admittedBkt : Bkt := { bkt1 with complete := true, admitted := true }

/-- A released bucket whose sums are being formed, and its first segment. -/
def summingBkt : Bkt := { bkt1 with admitted := true, released := true, own := .summing, checks := [0] }
def segment : List (BitVec 16) := List.replicate 2048 1

/-- The same with two children, or between a parent and a child. -/
def middle : KndCtx := ctxOf 3 { leafRoute with children := [(2, 3)] }

/-- A leaf that hears a scale, and converts its bucket. -/
def heard (b : Body) : State := given (kneading leaf [] (one admittedBkt)) (word b)
def scaled : State :=
  State.modBkt { heard (.scale 0 (-3) false) with inbox := (heard (.scale 0 (-3) false)).inbox.erase (word (.scale 0 (-3) false)) } 9 1
    (fun y => { y with s := -3, bound := false })
def rescaled : State :=
  (State.raiseAttempt { heard (.replay 2 (-3) false) with
    inbox := (heard (.replay 2 (-3) false)).inbox.erase (word (.replay 2 (-3) false)) } leaf 1 2).modBkt 9 1 (fun y => { y with s := -3, bound := false })

/-- An owner whose update runs, and what it reads and writes. -/
def updating : State := kneading root [layer1] (one { bkt1 with own := .updating })
def updState : State × Option (List (List Byte)) :=
  updating.readAll (engWho 0 owned) ((List.range owned.nstate).map (fun j => (stateAt owned ((1 : Step).toNat % 2) j, 4 * bktElems root.b)))
def updMaster : State × Option (List Nat) := updState.1.readMaster 0 owned ((1 : Step).toNat % 2) (bktElems root.b)
def updSum (i : Nat) : BitVec 16 := ((List.range root.b.nseg).flatMap (fun j => tget (updating.bkt 9 1).sums [] j)).getD i 0
def updRes : List (Nat × List Nat) :=
  (List.range (bktElems root.b)).map (fun i =>
    updElem (mastFmt owned) [] (updating.bkt 9 1).consts (updating.bkt 9 1).sched (updating.bkt 9 1).s (updSum i)
      ((updMaster.2.getD []).getD i 0) ((updState.2.getD []).map (fun y => (unpackBits 32 (bktElems root.b) y).getD i 0)))
def updWrite : State × Bool :=
  updMaster.1.writeAll (engWho 0 owned) (genArrays owned ((1 : Step).toNat % 2 + 1) (bktElems root.b) (updRes.map (fun x => x.1))
    ((List.range owned.nstate).map (fun j => updRes.map (fun x => x.2.getD j 0))))

theorem children_one (c : KndCtx) (x : Nat × Nat) (hx : x.1 < 8) (p : Option Nat) (n : Nat)
    (h : c.r.routes = [{ parent := p, parentRank := n, children := [x] }]) (j : Nat) : childPorts (routeOf c.r j) = [x] := by
  obtain ⟨a, b⟩ := x
  have : a ∈ List.range 8 := List.mem_range.mpr hx
  simp only [routeOf, h, List.length_singleton, Nat.mod_one, Nat.max_self, List.getD_cons_zero, childPorts]
  match a, hx with
  | 0, _ | 1, _ | 2, _ | 3, _ | 4, _ | 5, _ | 6, _ | 7, _ => rfl

theorem pair_ok_of {α β ε : Type} (p : α × Except ε β) (s : α) (d : β) (hs : p.1 = s) (h : p.2.toOption.isSome = true) :
    p = (s, .ok (p.2.toOption.getD d)) := by
  subst hs
  exact pair_ok p d h

theorem pair_some_of {α β : Type} (p : α × Option β) (s : α) (d : β) (hs : p.1 = s) (h : p.2.isSome = true) :
    p = (s, some (p.2.getD d)) := by
  subst hs
  exact pair_some p d h

theorem pair_true {α : Type} (p : α × Bool) (h : p.2 = true) : p = (p.1, true) := by
  obtain ⟨a, b⟩ := p; cases h; rfl

/-! ## Ports -/

/-- One port, or two, in a state. -/
def porting (l : Tab PortSt) : State := { live with lnk := { ports := l } }

/-- Coordinates: four devices along X, this one at 0. -/
def links4 : LinksRec :=
  { dx := 4, dy := 1, dz := 1, dw := 1, coord := 0, mirror := false, twinNamed := false, rank := 0, table := [], twinBase := 0
    twinSize := 0, drainLimit := 0 }
def placed (l : Tab PortSt) : State := { porting l with rcp := { links := some links4 } }

/-- A flit of zeros with a trailer. -/
def flitOn (z : List Byte) (trailer : Nat) : List Byte :=
  let b := z ++ leBytes 4 trailer
  b ++ leBytes 4 (crc32 b)
def flitWith (trailer : Nat) : List Byte := flitOn (List.replicate 504 0) trailer

theorem crcBit_lt (c : Nat) (h : c < 2 ^ 32) : crcBit c < 2 ^ 32 := by
  unfold crcBit
  split
  · exact Nat.xor_lt_two_pow (by omega) (by decide)
  · omega

theorem crc32_lt (m : List Byte) : crc32 m < 2 ^ 32 := by
  have h : ∀ (l : List Byte) (c : Nat), c < 2 ^ 32 → l.foldl crcByte c < 2 ^ 32 := by
    intro l
    induction l with
    | nil => exact fun _ h => h
    | cons b t ih =>
      intro c hc
      have hb : b.toNat < 2 ^ 32 := Nat.lt_trans b.isLt (by decide)
      exact ih _ (crcBit_lt _ (crcBit_lt _ (crcBit_lt _ (crcBit_lt _ (crcBit_lt _ (crcBit_lt _ (crcBit_lt _ (crcBit_lt _
        (Nat.xor_lt_two_pow hc hb)))))))))
  exact Nat.xor_lt_two_pow (h m _ (by decide)) (by decide)

theorem leNat_four (x : Nat) (h : x < 2 ^ 32) : leNat (leBytes 4 x) = x := by
  simp only [leBytes, leNat, BitVec.toNat_ofNat]
  omega

theorem flitOn_sound (z : List Byte) (hz : z.length = 504) (t : Nat) : (flitOf (flitOn z t)).crcOk = true := by
  have hl : (z ++ leBytes 4 t).length = 508 := by rw [List.length_append, hz]; rfl
  have h4 : (leBytes 4 (crc32 (z ++ leBytes 4 t))).length = 4 := rfl
  have ht := List.take_left (l₁ := z ++ leBytes 4 t) (l₂ := leBytes 4 (crc32 (z ++ leBytes 4 t)))
  have hd := List.drop_left (l₁ := z ++ leBytes 4 t) (l₂ := leBytes 4 (crc32 (z ++ leBytes 4 t)))
  rw [hl] at ht hd
  simp only [flitOf, flitOn, List.length_append (as := z ++ leBytes 4 t), hl, h4, ht, hd, List.take_of_length_le (Nat.le_of_eq h4),
    leNat_four _ (crc32_lt _), beq_self_eq_true, Bool.and_self]

theorem flitOn_trailer (z : List Byte) (hz : z.length = 504) (t : Nat) (h : t < 2 ^ 32) :
    (flitOf (flitOn z t)).type = fieldOf t 27 24 ∧ (flitOf (flitOn z t)).akind = fieldOf t 31 28 ∧
      (flitOf (flitOn z t)).fseq = BitVec.ofNat 12 t := by
  have hd : ((flitOn z t).drop 504).take 4 = leBytes 4 t := by
    simp only [flitOn, List.append_assoc]
    rw [← hz, List.drop_left]
    exact List.take_left (l₁ := leBytes 4 t)
  simp only [flitOf, hd, leNat_four t h, and_self]

theorem flit_sound (t : Nat) : (flitOf (flitWith t)).crcOk = true := flitOn_sound _ List.length_replicate t

theorem flit_trailer (t : Nat) (h : t < 2 ^ 32) : (flitOf (flitWith t)).type = fieldOf t 27 24 ∧
    (flitOf (flitWith t)).akind = fieldOf t 31 28 ∧ (flitOf (flitWith t)).fseq = BitVec.ofNat 12 t :=
  flitOn_trailer _ List.length_replicate t h

/-- A port that is up with a sequence entry of rank 3's stream 1. -/
def hearing (l : Tab SeqEnt) : State := { live with lnk := { ports := [(5, { state := .up })], seqs := l } }

/-! ## Memory controllers and the Cellar -/

def stacked (k : StackSt) : State := { live with hbm := [(11, k)] }

/-- CXL port 3 with one request of a burst's line 0, in window 7. -/
def request (write : Bool) : CxlReq :=
  { id := 4, addr := cellarBase, isWrite := write, data := if write then List.replicate 64 6 else [], dsp := 2, owner := .peel 7 1 0 }
def burst (read : Bool) : Burst :=
  { bid := 1, blen := 0, isRead := read, status := 0, waiting := [(0, 4)], mask := 0, fcode := 0, data := [] }
def requested (read : Bool) : State :=
  { live with
    cxl := { ports := [(3, { state := 2, reqs := [request !read] })] }
    qrs := { live.qrs with readCredits := [(7, 1)], windows := [(7, { isOpen := true, isRead := read, bursts := [burst read] })] } }

/-! ## Snapshots and recovery -/

/-- A ring of two slots of 2 MiB in the Cellar's first port, and the manifest of a snapshot of step 5. -/
def ringRec0 : SnapRec :=
  { part := 0, k := 4, full := false, ringBase := 0x600000, slotSize := 0x200000, rslots := 2, fillmap := 0x500000, fillTimeout := 10 }
def manifest0 : Manifest := { step := 5, rank := 0, coord := 0, part := 0, k := 4, time := 0, rdigest := 0, shards := [] }
def holds5 : RingSlot := { step := 5, used := true, manifest := some manifest0 }

/-- Partition 0 with that ring, in Run. -/
def ringed (x : SnapSt) : State :=
  { live with
    parts := [(0, { state := .run, racks := 1 })], snp := [(0, x)]
    rcp := { slices := [(0, { slice0 with snap := some ringRec0 })], links := some { links4 with coord := 0 } } }

/-- The partner behind port T at rank 4, with a twin store of 32 MiB here. -/
def twinned (x : SnapSt) : State :=
  { ringed x with
    lnk := { ports := [(8, { state := .up })], table := [(4, { state := .active, coord := 0x2000 })] }
    rcp := { slices := [(0, { slice0 with snap := some ringRec0 })]
             links := some { links4 with twinNamed := true, twinBase := 0x1000000, twinSize := 0x2000000 } } }

/-- A snapshot of step 5 that the partner is sending. -/
def twinning : State :=
  { twinned { ringOk := true } with rreg := { (twinned { ringOk := true }).rreg with twin := [{ part := 0, alt := 0, step := 5 }] } }

/-- The twin store holds the partner's acknowledged snapshot of step 5, of one shard of one byte. -/
def manifest1 : Manifest := { manifest0 with shards := [{ kind := 0, bid := 0, len := 1, soff := shardsAt, digest := 0 }] }
def twinHolds : State :=
  { (twinning.write .snapshot (twinAddr 0x1000000 0x2000000 { part := 0, alt := 0, step := 5 } 0) (manifestBytes manifest1)).1 with
    rreg := { twinning.rreg with twin := [{ part := 0, alt := 0, step := 5, acked := true }] } }

/-- A word of the partner, and one of recovery. -/
def answer (b : Body) : Packet := { word b with src := 4, step := 5, kind := bodyCode b }

/-- The partner's manifest of no shards, its slot before and after it, and the state behind its write. -/
def twinWord : Packet := answer (.snap midxManifest 0 (manifestBytes manifest0))
def twinSlot0 : TwinSlot := { part := 0, alt := 0, step := 5 }
def twinSlot1 : TwinSlot := { twinSlot0 with lens := tset [] 0 midxManifest (manifestBytes manifest0).length }
def twinWritten : State :=
  (State.write { given twinning twinWord with inbox := (given twinning twinWord).inbox.erase twinWord } .snapshot
    (twinAddr 0x1000000 0x2000000 twinSlot0 0) (manifestBytes manifest0)).1

/-- What the twin store serves of it. -/
def twinServed : State × Option (List Byte) :=
  State.twinServes { given twinHolds (answer (.fillReq 5 1 0 0 0x2000)) with inbox := [] } 0 5 0

theorem some_pair {α β : Type} (p : α × Option β) (d : β) (h : p.2 = some d) : p = (p.1, some d) := by
  obtain ⟨a, b⟩ := p
  exact congrArg (Prod.mk a) h

/-- Partition 0 in Run, recovering. -/
def recovering (y : RcvSt) : State := { sealed [0, 3] 0 { state := .run, racks := 1 } {} with rcv := [(0, y)] }
def entry (src : FillSrc) : FillEnt := { midx := 0, state := 1, src := src, tried := [], done := 0, len := 1, data := [] }
def filling (src : FillSrc) : RcvSt := { state := 2, point := 5, manifest := some manifest0, map := [entry src] }

/-- A fill that waits for host software, and the state in which HOSTFILL reads what it placed. -/
def hostWaits : State := { ringed { ringOk := true } with rcv := [(0, filling .host)] }
def hostReads : State :=
  ((next hostWaits (wr 0xD01010 7)).putReg (State.wouldBe (next hostWaits (wr 0xD01010 7)) .rcvCmd (wr 0xD01010 7)) .rcvCmd).rcvStatus 0 0
def hostPlace : Nat := hostReads.hostAt 0 0 (manifest0.soff 0) + (entry .host).done

/-- A shard of step 0, and the migration of rank 0 under discard. -/
def shard0 : SchedShard := { step := 0, streams := [], slots := [], ledger := [], groups := [] }
def migrating : State :=
  { recovering { migration := some { drain := false, m := 1, spare := 0, handedOver := true } } with
    snp := [(0, { shards := [shard0] })], lnk := { ports := [(8, { state := .up })] } }

theorem schedBytes_length (x : SchedShard) : (schedBytes x).length = 8 * (shardWords x).length := by
  have h : ∀ l : List Nat, (l.flatMap (leBytes 8)).length = 8 * l.length := by
    intro l
    induction l with
    | nil => rfl
    | cons a t ih =>
      have h8 : (leBytes 8 a).length = 8 := rfl
      rw [List.flatMap_cons, List.length_append, ih, h8, List.length_cons]
      omega
  simp only [schedBytes, padShard, List.length_map, List.length_zipIdx, h]

theorem children_two (s : State) (p a b : Nat) (h : s.sealOrder p = [a, b]) (hab : a ≠ b) (hr : s.lnk.rank.toNat = a) (r : Nat)
    (hm : r ∈ s.sealChildren p) : r = b := by
  have ho := parent_two s p a b h hab
  simp only [State.sealChildren, h, List.mem_filter, List.mem_cons, List.not_mem_nil, or_false] at hm
  obtain ⟨h1 | h1, h2⟩ := hm
  · subst h1; rw [ho.2] at h2; cases h2
  · exact h1

/-- A window at the top of HBM, and one of a committed region. -/
def readWindow : State := windowed true true

theorem pair_none {α β : Type} (p : α × Option β) (h : p.2.isNone = true) : p = (p.1, none) := by
  obtain ⟨a, b⟩ := p; cases b with
  | none => rfl
  | some x => cases h

theorem getD_set_far (j : Nat) (h : j < 8 ∨ 12 ≤ j) :
    (List.replicate 128 (0 : Byte)).getD j 0 = ((List.replicate 128 (0 : Byte)).set 9 1).getD j 0 := by
  have : (9 : Nat) ≠ j := by omega
  simp only [List.getD_eq_getElem?_getD, List.getElem?_set_ne this]

/-- Rank 5 in a seal domain of three with its step 1 done. -/
def tree5 : State := { sealed [0, 5, 6] 0 stepping {} with lnk := { rank := 5 } }

theorem meets_bootChoosesFirmware_0 : ∃ (s : State),
      s.hkp.boot = .held ∧
      s.hkp.pwrok = true ∧
      s.hkp.wrstLow = false ∧
      s.hkp.thermTripLow = false ∧
      s.hkp.rung ≠ 4 :=
  ⟨State.reset,
    by decide⟩

theorem meets_bootChoosesFirmware_1 : ∃ (s : State) (f : FwImage) (g : FwImage),
      s.hkp.boot = .rom ∧
      s.hkp.exiting = none ∧
      s.per.fwSlot0 = some f ∧
      s.per.fwSlot1 = some g ∧
      f.pkHash = rootHash ∧
      g.pkHash = rootHash ∧
      s.per.fwMin.toNat ≤ f.version.toNat ∧
      f.version.toNat < g.version.toNat :=
  ⟨{ State.reset with hkp := { boot := .rom }, per := { fwSlot0 := some (image 1), fwSlot1 := some (image 2), fwMin := 1 } }, image 1, image 2,
    rfl,
    rfl,
    rfl,
    rfl,
    rfl,
    rfl,
    by decide⟩

theorem meets_bootChoosesFirmware_2 : ∃ (s : State),
      s.hkp.boot = .rom ∧
      s.hkp.exiting = none :=
  ⟨{ State.reset with hkp := { boot := .rom } },
    by decide⟩

theorem meets_brownoutResponds_0 : ∃ (s : State) (_r : Rail),
      s.hkp.monArmed = true ∧
      s.hkp.boActive = false :=
  ⟨live, 9,
    by decide⟩

theorem meets_brownoutResponds_1 : ∃ (s : State),
      s.hkp.boActive = true ∧
      s.hkp.waitExit = false :=
  ⟨{ live with hkp := { live.hkp with boActive := true } },
    by decide⟩

theorem meets_brownoutResponds_2 : ∃ (s : State),
      s.hkp.boActive = true ∧
      s.hkp.boRaised = false ∧
      s.isOn 78 = true ∧
      s.qrs.evBuf.length < evBufMax :=
  ⟨{ live with hkp := { live.hkp with boActive := true } },
    by decide⟩

theorem meets_brownoutResponds_3 : ∃ (s : State) (_r : Rail),
      s.hkp.monArmed = true ∧
      s.dev.hub79 = false :=
  ⟨live, 0,
    by decide⟩

theorem meets_warmResetsKeepHbm_0 : ∃ (_s : State) (ns : Nat),
      ns < 200 :=
  ⟨live, 199,
    by decide⟩

theorem meets_warmResetsKeepHbm_1 : ∃ (s : State) (ns : Nat),
      1000 ≤ ns ∧
      s.hkp.pwrok = true ∧
      s.coldHeld = false :=
  ⟨live, 1000,
    by decide⟩

theorem meets_warmResetsKeepHbm_2 : ∃ (s : State) (ns : Nat),
      200 ≤ ns ∧
      ns < 1000 ∧
      s.hkp.pwrok = true ∧
      s.coldHeld = false :=
  ⟨live, 999,
    by decide⟩

theorem meets_warmResetsKeepHbm_4 : ∃ (s : State) (c : Cmd) (t : State),
      Taken s c t ∧
      isReset 1 s c.r = true ∧
      resetOk c.r = true :=
  ⟨live, host (record opReset 1 0 0 0), next live (record opReset 1 0 0 0),
    taken_of _ _ (by decide),
    by decide⟩

theorem meets_heatThrottlesAndTrips_1 : ∃ (_s : State) (t : Temp),
      100 ≤ t.celsius.toNat ∧
      dieOf t.island.val = 2 :=
  ⟨live, ⟨62, 100⟩,
    by decide⟩

theorem meets_heatThrottlesAndTrips_2 : ∃ (_s : State) (t : Temp),
      100 ≤ t.celsius.toNat ∧
      dieOf t.island.val = 0 :=
  ⟨live, ⟨0, 100⟩,
    by decide⟩

theorem meets_heatThrottlesAndTrips_3 : ∃ (_s : State) (t : Temp),
      100 ≤ t.celsius.toNat ∧
      dieOf t.island.val = 1 :=
  ⟨live, ⟨24, 100⟩,
    by decide⟩

theorem meets_heatThrottlesAndTrips_4 : ∃ (s : State) (l : List Temp),
      (s.readTemps l).coolerThan 97 = true :=
  ⟨live, [⟨62, 96⟩],
    by decide⟩

theorem meets_heatThrottlesAndTrips_5 : ∃ (_s : State) (t : Temp),
      105 ≤ t.celsius.toNat :=
  ⟨live, ⟨0, 105⟩,
    by decide⟩

theorem meets_heatThrottlesAndTrips_6 : ∃ (s : State) (l : List Temp),
      (s.readTemps l).coolerThan 100 = true ∧
      s.hkp.dutyE = 0 ∧
      s.hkp.dutyW = 0 :=
  ⟨{ live with hkp := { live.hkp with dutyE := 0, dutyW := 0 } }, [⟨0, 99⟩],
    by decide⟩

theorem meets_heatThrottlesAndTrips_7 : ∃ (s : State) (t : Temp),
      115 ≤ t.celsius.toNat ∧
      s.hkp.pwrok = true ∧
      s.dev.hub79 = false :=
  ⟨live, ⟨47, 115⟩,
    by decide⟩

theorem meets_rungsAreEnteredAndLeft_0 : ∃ (s : State) (c : Cmd) (t : State) (v : Nat),
      Writes s c .enter t .pwrCtl v :=
  ⟨live, host (wr 0x1100000 0x11), next live (wr 0x1100000 0x11), State.wouldBe (next live (wr 0x1100000 0x11)) .pwrCtl (wr 0x1100000 0x11),
    writes_of _ _ _ _ (by decide)⟩

theorem meets_rungsAreEnteredAndLeft_0a : ∃ (s : State) (c : Cmd) (t : State) (v : Nat),
      Writes s c .enter t .pwrCtl v ∧
      t.anyPart (fun x => x == .run || (x == .loading && t.rcp.job.isNone)) = true :=
  ⟨(parted .run), host (wr 0x1100000 0x11), next (parted .run) (wr 0x1100000 0x11), State.wouldBe (next (parted .run) (wr 0x1100000 0x11)) .pwrCtl (wr 0x1100000 0x11),
    writes_of _ _ _ _ (by decide),
    by decide⟩

theorem meets_rungsAreEnteredAndLeft_0b : ∃ (s : State) (c : Cmd) (t : State) (v : Nat),
      Writes s c .enter t .pwrCtl v ∧
      t.anyPart (fun x => x == .run || x == .loading) = false ∧
      t.recovering = false ∧
      t.hkp.rung = 0 ∧
      t.hkp.trans = false ∧
      t.rcp.job = none ∧
      t.hkp.armed = [] ∧
      fieldOf v 7 4 = 1 :=
  ⟨live, host (wr 0x1100000 0x11), next live (wr 0x1100000 0x11), State.wouldBe (next live (wr 0x1100000 0x11)) .pwrCtl (wr 0x1100000 0x11),
    writes_of _ _ _ _ (by decide),
    by decide⟩

theorem meets_rungsAreEnteredAndLeft_0c : ∃ (s : State) (c : Cmd) (t : State) (v : Nat),
      Writes s c .enter t .pwrCtl v ∧
      t.anyPart (fun x => x == .run || (x == .loading && t.rcp.job.isNone)) = false ∧
      (t.recovering = true ∨ t.dev.fenced = true) :=
  ⟨({ live with dev := { live.dev with fenced := true } }), host (wr 0x1100000 0x11), next ({ live with dev := { live.dev with fenced := true } }) (wr 0x1100000 0x11), State.wouldBe (next ({ live with dev := { live.dev with fenced := true } }) (wr 0x1100000 0x11)) .pwrCtl (wr 0x1100000 0x11),
    writes_of _ _ _ _ (by decide),
    by decide⟩

theorem meets_rungsAreEnteredAndLeft_0d : ∃ (s : State) (c : Cmd) (t : State) (v : Nat),
      Writes s c .enter t .pwrCtl v ∧
      t.anyPart (fun x => x == .run) = false ∧
      t.recovering = false ∧
      t.dev.fenced = false ∧
      t.hkp.rung = 0 ∧
      t.hkp.trans = false ∧
      t.rcp.job.isSome = true :=
  ⟨(loading 0 none 2), host (wr 0x1100000 0x11), next (loading 0 none 2) (wr 0x1100000 0x11), State.wouldBe (next (loading 0 none 2) (wr 0x1100000 0x11)) .pwrCtl (wr 0x1100000 0x11),
    writes_of _ _ _ _ (by decide),
    by decide⟩

theorem meets_rungsAreEnteredAndLeft_1 : ∃ (s : State),
      s.hkp.trans = true ∧
      s.hkp.exiting = none ∧
      s.hkp.entering = 1 ∧
      s.hkp.wakeHeld = false ∧
      s.hkp.armed = [] :=
  ⟨{ live with hkp := { live.hkp with trans := true, entering := 1 } },
    by decide⟩

theorem meets_rungsAreEnteredAndLeft_2 : ∃ (s : State),
      s.hkp.trans = true ∧
      s.hkp.exiting = none ∧
      2 ≤ s.hkp.entering ∧
      s.hkp.entering ≤ 4 ∧
      s.hkp.wakeHeld = false ∧
      s.hkp.armed = [] ∧
      s.cxl.ports.all (fun e => e.2.drained) = true :=
  ⟨{ live with hkp := { live.hkp with trans := true, entering := 4 } },
    by decide⟩

theorem meets_rungsAreEnteredAndLeft_3 : ∃ (s : State) (ns : Nat),
      1000 ≤ ns ∧
      s.hkp.pwrok = true ∧
      s.hkp.trans = false ∧
      s.hkp.rung = 1 ∧
      s.hkp.boActive = false :=
  ⟨asleep, 1000,
    by decide⟩

theorem meets_rungsAreEnteredAndLeft_4 : ∃ (s : State) (c : Cmd) (t : State) (v : Nat),
      Writes s c .exit t .pwrCtl v ∧
      fieldOf v 7 4 ≤ 4 ∧
      t.hkp.trans = false ∧
      t.hkp.rung = 1 ∧
      t.hkp.boActive = false :=
  ⟨asleep, host (wr 0x1100000 0x02), next asleep (wr 0x1100000 0x02), State.wouldBe (next asleep (wr 0x1100000 0x02)) .pwrCtl (wr 0x1100000 0x02),
    writes_of _ _ _ _ (by decide),
    by decide⟩

theorem meets_rungsAreEnteredAndLeft_5 : ∃ (s : State) (c : Cmd) (t : State) (v : Nat),
      Writes s c .exit t .pwrCtl v ∧
      4 < fieldOf v 7 4 :=
  ⟨asleep, host (wr 0x1100000 0x52), next asleep (wr 0x1100000 0x52), State.wouldBe (next asleep (wr 0x1100000 0x52)) .pwrCtl (wr 0x1100000 0x52),
    writes_of _ _ _ _ (by decide),
    by decide⟩

theorem meets_partsAreReset_0 : ∃ (s : State) (c : Cmd) (t : State),
      Taken s c t ∧
      isReset 2 s c.r = true :=
  ⟨live, host (record opReset 2 0 0 0), next live (record opReset 2 0 0 0),
    taken_of _ _ (by decide),
    by decide⟩

theorem meets_partsAreReset_0a : ∃ (s : State) (c : Cmd) (t : State),
      Taken s c t ∧
      isReset 2 s c.r = true ∧
      t.anyPart (fun x => x == .run || x == .loading) = true :=
  ⟨(parted .run), host (record opReset 2 0 0 0), next (parted .run) (record opReset 2 0 0 0),
    taken_of _ _ (by decide),
    by decide⟩

theorem meets_partsAreReset_0b : ∃ (s : State) (c : Cmd) (t : State),
      Taken s c t ∧
      isReset 2 s c.r = true ∧
      t.anyPart (fun x => x == .run || x == .loading) = false :=
  ⟨live, host (record opReset 2 0 0 0), next live (record opReset 2 0 0 0),
    taken_of _ _ (by decide),
    by decide⟩

theorem meets_partsAreReset_1 : ∃ (s : State) (q : Nat) (h : BitVec 16),
      s.lnk.fabJob = some (q, h) :=
  ⟨{ live with lnk := { fabJob := some (0, 7) } }, 0, 7,
    by decide⟩

theorem meets_partsAreReset_2 : ∃ (s : State) (c : Cmd) (t : State),
      Taken s c t ∧
      isReset 3 s c.r = true ∧
      ((t.part (resetTarget c.r)).state = .run ∨ (t.part (resetTarget c.r)).state = .loading) :=
  ⟨(parted .run), host (record opReset 3 0 0 0), next (parted .run) (record opReset 3 0 0 0),
    taken_of _ _ (by decide),
    by decide⟩

theorem meets_partsAreReset_3 : ∃ (s : State) (c : Cmd) (t : State),
      Taken s c t ∧
      isReset 3 s c.r = true ∧
      ((t.part (resetTarget c.r)).state = .faulted ∨ (t.part (resetTarget c.r)).state = .halted ∨ (t.part (resetTarget c.r)).state = .ready) :=
  ⟨(parted .faulted), host (record opReset 3 0 0 0), next (parted .faulted) (record opReset 3 0 0 0),
    taken_of _ _ (by decide),
    by decide⟩

theorem meets_partsAreReset_4 : ∃ (s : State) (c : Cmd) (t : State),
      Taken s c t ∧
      isReset 4 s c.r = true ∧
      (∀ p, t.partOf (resetTarget c.r) = some p → (t.part p).state ≠ .run ∧ (t.part p).state ≠ .loading ∧ (t.part p).resetting = none) :=
  ⟨(parted .halted), host (record opReset 4 0 0 0), next (parted .halted) (record opReset 4 0 0 0),
    taken_of _ _ (by decide),
    by decide,
    fun p h => by cases h; decide⟩

theorem meets_partsAreReset_5 : ∃ (s : State) (c : Cmd) (t : State) (p : Nat),
      Taken s c t ∧
      isReset 4 s c.r = true ∧
      t.partOf (resetTarget c.r) = some p ∧
      ((t.part p).state = .run ∨ (t.part p).state = .loading) :=
  ⟨(parted .loading), host (record opReset 4 0 0 0), next (parted .loading) (record opReset 4 0 0 0), 0,
    taken_of _ _ (by decide),
    by decide⟩

theorem meets_partsAreReset_6 : ∃ (s : State) (l : List (Rack × BitVec 32)) (p : Nat) (q : Nat) (h : BitVec 16),
      s.hkp.selfTest = false ∧
      p < 8 ∧
      (s.part p).resetting = some (q, h) ∧
      (∀ x < 8, x ≠ p → (s.part x).resetting = none) ∧
      (∀ n < 48, (s.rack n).resetting = none) ∧
      (∀ n ∈ s.racksOf p, n ∈ s.hkp.testing) ∧
      (∀ n ∈ s.racksOf p, failedOf l n &&& ~~~(s.rack n).exclude = 0) :=
  ⟨{ live with hkp := { live.hkp with testing := [0, 1] }, parts := [(0, { state := .faulted, racks := 3, resetting := some (2, 7) })], racks := [(0, { exclude := 4 })] }, [(0, 4)], 0, 2, 7,
    by decide⟩

theorem meets_selfTestAndReady_0 : ∃ (s : State) (_l : List (Rack × BitVec 32)),
      s.hkp.selfTest = true ∧
      (∀ n < 48, n ∈ s.hkp.testing) ∧
      (∀ p < 8, (s.part p).resetting = none) ∧
      (∀ n < 48, (s.rack n).resetting = none) :=
  ⟨{ live with hkp := { live.hkp with selfTest := true, testing := List.range 48 } }, [(47, 3)],
    by decide⟩

theorem meets_selfTestAndReady_1 : ∃ (s : State) (k : ResetKind),
      s.hkp.boot = .firmware ∧
      s.hkp.selfTest = false ∧
      s.hkp.rung = 0 ∧
      s.hkp.trans = false ∧
      s.isOn 77 = true ∧
      s.isOn 78 = true ∧
      s.hkp.ready = false ∧
      s.cxl.ports.any (fun e => e.2.state == 1) = false ∧
      s.hkp.resetting = some k ∧
      s.qrs.evBuf.length < evBufMax :=
  ⟨{ live with hkp := { live.hkp with ready := false, resetting := some .pinWarm } }, .pinWarm,
    by decide⟩

theorem meets_selfTestAndReady_2 : ∃ (s : State),
      s.hkp.boot = .firmware ∧
      s.hkp.selfTest = false ∧
      s.hkp.rung = 0 ∧
      s.hkp.trans = false ∧
      s.isOn 77 = true ∧
      s.hkp.ready = false ∧
      s.cxl.ports.any (fun e => e.2.state == 1) = false ∧
      s.hkp.resetting = none :=
  ⟨{ live with hkp := { live.hkp with ready := false } },
    by decide⟩

theorem meets_crystalIsFoundAndClkoutDriven_0 : ∃ (s : State) (n : Nat),
      s.hkp.xtalOk = false ∧
      9600 ≤ n ∧
      n ≤ 10400 ∧
      s.hkp.goodWin < 7 :=
  ⟨{ State.reset with hkp := { goodWin := 6 } }, 9600,
    by decide⟩

theorem meets_crystalIsFoundAndClkoutDriven_1 : ∃ (s : State) (n : Nat),
      s.hkp.xtalOk = false ∧
      9600 ≤ n ∧
      n ≤ 10400 ∧
      s.hkp.goodWin = 7 :=
  ⟨{ State.reset with hkp := { goodWin := 7 } }, 10400,
    by decide⟩

theorem meets_crystalIsFoundAndClkoutDriven_2 : ∃ (s : State) (n : Nat),
      s.hkp.xtalOk = false ∧
      (n < 9600 ∨ 10400 < n) :=
  ⟨{ State.reset with hkp := { goodWin := 7 } }, 10401,
    by decide⟩

theorem meets_crystalIsFoundAndClkoutDriven_3 : ∃ (s : State),
      s.hkp.xtalOk = true ∧
      s.hkp.starter = true ∧
      s.hkp.timersOn = false ∧
      s.dev.hub79 = false ∧
      s.hkp.boot = .held ∧
      (s.island 78).onStarter = false :=
  ⟨{ State.reset with hkp := { xtalOk := true } },
    by decide⟩

theorem meets_crystalIsFoundAndClkoutDriven_4 : ∃ (s : State),
      s.hkp.xtalOk = true ∧
      s.hkp.starter = true ∧
      s.hkp.timersOn = false ∧
      s.dev.hub79 = false ∧
      s.hkp.boot = .rom ∧
      (s.island 78).onStarter = true :=
  ⟨{ State.reset with hkp := { xtalOk := true, boot := .rom }, isl := [(78, { IslandSt.dflt 78 with onStarter := true })] },
    by decide⟩

theorem meets_crystalIsFoundAndClkoutDriven_5 : ∃ (s : State),
      s.hkp.xtalOk = true ∧
      s.hkp.starter = true ∧
      s.hkp.timersOn = false ∧
      s.dev.hub79 = false ∧
      s.hkp.boot = .firmware ∧
      (s.island 78).onStarter = false :=
  ⟨{ live with hkp := { live.hkp with starter := true, timersOn := false } },
    by decide⟩

theorem meets_crystalIsFoundAndClkoutDriven_6 : ∃ (s : State) (c : Cmd) (t : State) (v : Nat),
      Writes s c .clkout t .hkpClkout v ∧
      clkoutSrcOk (fieldOf v 23 16) = true ∧
      t.clkoutMax (fieldOf v 23 16) ≤ 250 * (fieldOf v 11 0 + 1) :=
  ⟨live, host (wr 0x1000010 0x80000003), next live (wr 0x1000010 0x80000003), State.wouldBe (next live (wr 0x1000010 0x80000003)) .hkpClkout (wr 0x1000010 0x80000003),
    writes_of _ _ _ _ (by decide),
    by decide⟩

theorem meets_crystalIsFoundAndClkoutDriven_7 : ∃ (s : State) (c : Cmd) (t : State) (v : Nat),
      Writes s c .clkout t .hkpClkout v ∧
      clkoutSrcOk (fieldOf v 23 16) = true ∧
      250 * (fieldOf v 11 0 + 1) < t.clkoutMax (fieldOf v 23 16) :=
  ⟨live, host (wr 0x1000010 0x80000002), next live (wr 0x1000010 0x80000002), State.wouldBe (next live (wr 0x1000010 0x80000002)) .hkpClkout (wr 0x1000010 0x80000002),
    writes_of _ _ _ _ (by decide),
    by decide⟩

theorem meets_crystalIsFoundAndClkoutDriven_8 : ∃ (s : State) (c : Cmd) (t : State) (v : Nat),
      Writes s c .clkout t .hkpClkout v ∧
      clkoutSrcOk (fieldOf v 23 16) = false :=
  ⟨live, host (wr 0x1000010 0x80830000), next live (wr 0x1000010 0x80830000), State.wouldBe (next live (wr 0x1000010 0x80830000)) .hkpClkout (wr 0x1000010 0x80830000),
    writes_of _ _ _ _ (by decide),
    by decide⟩

theorem meets_loopsCoastAndRelock_0 : ∃ (s : State) (a : Nat) (b : Nat),
      badWindow a = true ∧
      badWindow b = true ∧
      s.hkp.timersOn = true ∧
      s.hkp.xtalOk = true :=
  ⟨live, 899, 1101,
    by decide⟩

theorem meets_loopsCoastAndRelock_1 : ∃ (s : State) (n : Island),
      48 ≤ n.val ∧
      n.val < 79 ∧
      s.hkp.clkLoss = false ∧
      (s.island n.val).pow ≠ .off ∧
      (s.island n.val).coast = false ∧
      s.isOn 78 = true ∧
      s.qrs.evBuf.length < evBufMax :=
  ⟨live, 78,
    by decide⟩

theorem meets_loopsCoastAndRelock_2 : ∃ (s : State) (c : Cmd) (t : State) (v : Nat),
      Writes s c .relock t .hkpClkCtl v :=
  ⟨coasting, host (wr 0x1000008 1), next coasting (wr 0x1000008 1), State.wouldBe (next coasting (wr 0x1000008 1)) .hkpClkCtl (wr 0x1000008 1),
    writes_of _ _ _ _ (by decide)⟩

theorem meets_loopsCoastAndRelock_2a : ∃ (s : State) (c : Cmd) (t : State) (v : Nat),
      Writes s c .relock t .hkpClkCtl v ∧
      t.running = true :=
  ⟨(parted .run), host (wr 0x1000008 1), next (parted .run) (wr 0x1000008 1), State.wouldBe (next (parted .run) (wr 0x1000008 1)) .hkpClkCtl (wr 0x1000008 1),
    writes_of _ _ _ _ (by decide),
    by decide⟩

theorem meets_loopsCoastAndRelock_2b : ∃ (s : State) (c : Cmd) (t : State) (v : Nat) (n : Nat),
      Writes s c .relock t .hkpClkCtl v ∧
      t.running = false ∧
      t.hkp.xtalOk = true ∧
      t.hkp.timersOn = true ∧
      t.dev.hub79 = false ∧
      n < 79 ∧
      (t.island n).coast = true :=
  ⟨coasting, host (wr 0x1000008 1), next coasting (wr 0x1000008 1), State.wouldBe (next coasting (wr 0x1000008 1)) .hkpClkCtl (wr 0x1000008 1), 78,
    writes_of _ _ _ _ (by decide),
    by decide⟩

theorem meets_loopsCoastAndRelock_3 : ∃ (s : State) (a : Armed),
      s.hkp.armed = [a] ∧
      a.action = .relock ∧
      s.hkp.waitEnter = none ∧
      s.hkp.xtalOk = true :=
  ⟨{ live with hkp := { live.hkp with armed := [{ target := 9, islands := [3], action := .relock }] } }, { target := 9, islands := [3], action := .relock },
    by decide⟩

theorem meets_hubIsWatched_0 : ∃ (s : State) (n : Island) (f : BitVec 8) (v : BitVec 4),
      (s.island n.val).locking = some (f, v) ∧
      s.hkp.boActive = false ∧
      (s.island n.val).coast = false :=
  ⟨{ live with isl := [(0, { IslandSt.dflt 0 with locking := some (240, 3) })] }, 0, 240, 3,
    by decide⟩

theorem meets_hubIsWatched_1 : ∃ (s : State),
      s.dev.hub78 = false ∧
      s.dev.hub79 = false :=
  ⟨live,
    by decide⟩

theorem meets_hubIsWatched_2 : ∃ (s : State) (k : HubCause),
      (k = .heartbeat → s.heartbeatLate false = true) ∧
      s.dev.hub78 = false ∧
      s.dev.fenced = false :=
  ⟨{ live with hkp := { live.hkp with count := heartbeatMax } }, .heartbeat,
    by decide⟩

theorem meets_hubIsWatched_3 : ∃ (s : State) (k : HubCause),
      (k = .heartbeat → s.heartbeatLate true = true) ∧
      s.dev.fenced = false :=
  ⟨live, .monitor,
    by decide⟩

theorem meets_hubIsWatched_4 : ∃ (s : State) (is79 : Bool),
      s.heartbeatLate is79 = false :=
  ⟨live, true,
    by decide⟩

theorem meets_hubIsWatched_5 : ∃ (s : State) (b : Fin 3),
      b.val ∉ s.dev.bridgeFailed :=
  ⟨live, 2,
    by decide⟩

theorem meets_hubIsWatched_6 : ∃ (s : State) (b : Fin 3),
      b.val ∉ s.dev.bridgeFailed ∧
      tget s.dev.bridgeFails 0 b.val < 7 :=
  ⟨{ live with dev := { bridgeFails := [(2, 6)] } }, 2,
    by decide⟩

theorem meets_hubIsWatched_7 : ∃ (s : State) (b : Fin 3),
      b.val ∉ s.dev.bridgeFailed ∧
      tget s.dev.bridgeFails 0 b.val = 7 :=
  ⟨{ live with dev := { bridgeFails := [(2, 7)] } }, 2,
    by decide⟩

theorem meets_ageingIsMeasured_0 : ∃ (s : State) (_l : List Meas),
      s.hkp.rung < 2 ∧
      s.dev.hub79 = false ∧
      (∀ n, (s.island n).pcommitted = false) :=
  ⟨{ State.reset with hkp := { rung := 1 } }, [],
    by decide,
    by decide,
    fun _ => rfl⟩

theorem meets_ageingIsMeasured_1 : ∃ (s : State),
      24 ≤ s.hkp.surveyHours ∧
      s.dev.hub79 = false :=
  ⟨{ live with hkp := { live.hkp with surveyHours := 24 } },
    by decide⟩

theorem meets_ageingIsMeasured_2 : ∃ (s : State) (c : Cmd) (t : State) (v : Nat),
      Writes s c .ageApply t .ageCtl v ∧
      c.pok = true ∧
      t.running = false ∧
      t.hkp.clkLoss = false ∧
      t.dev.hub79 = false ∧
      (∀ n < 79, (t.island n).pvalid = true) :=
  ⟨proposed, host (wr 0x1200000 1), next proposed (wr 0x1200000 1), State.wouldBe (next proposed (wr 0x1200000 1)) .ageCtl (wr 0x1200000 1),
    writes_of _ _ _ _ (by decide),
    rfl,
    by decide⟩

theorem meets_ageingIsMeasured_3 : ∃ (s : State) (c : Cmd) (t : State) (v : Nat),
      Writes s c .discardProposals t .ageCtl v ∧
      (∀ n < 79, (t.island n).pvalid = true) :=
  ⟨proposed, host (wr 0x1200000 2), next proposed (wr 0x1200000 2), State.wouldBe (next proposed (wr 0x1200000 2)) .ageCtl (wr 0x1200000 2),
    writes_of _ _ _ _ (by decide),
    by decide⟩

theorem meets_ageingIsMeasured_4 : ∃ (s : State) (c : Cmd) (t : State),
      Taken s c t ∧
      c.r.op = opRead ∧
      regAt c.r.addr.toNat = some .ageLogData ∧
      t.isOn 79 = true :=
  ⟨live, host (rd 0x1200010), next live (rd 0x1200010),
    taken_of _ _ (by decide),
    by decide⟩

theorem meets_querosTrainsAndCarriesFrames_0 : ∃ (s : State),
      s.isOn 75 = true ∧
      s.dev.recordDue = false :=
  ⟨live,
    by decide⟩

theorem meets_querosTrainsAndCarriesFrames_1 : ∃ (s : State) (x : BitVec 8),
      s.isOn 75 = true ∧
      s.dev.recordDue = false ∧
      s.qrs.state = 0 ∧
      x ≠ 0xFF ∧
      (x.toNat % 16 = 0xF ∨ x.toNat / 16 = 0xF) :=
  ⟨{ live with qrs := { live.qrs with state := 0 } }, 0xF0,
    by decide⟩

theorem meets_querosTrainsAndCarriesFrames_2 : ∃ (s : State) (x : BitVec 8),
      s.isOn 75 = true ∧
      x.toNat % 16 ≠ 0xF ∧
      x.toNat / 16 ≠ 0xF :=
  ⟨live, 0xEE,
    by decide⟩

set_option Elab.async false in
theorem meets_querosTrainsAndCarriesFrames_3 : ∃ (s : State) (b : List Byte),
      s.qrs.state = 2 ∧
      (frameOf b).crcOk = true ∧
      (frameOf b).rsvOk = true ∧
      (frameOf b).akind = 0 ∧
      (frameOf b).type = 1 ∧
      (frameOf b).first = true ∧
      (frameOf b).last = true ∧
      (frameOf b).len = 64 ∧
      (frameOf b).chan < 16 ∧
      (frameOf b).fseq = s.qrs.rxNext ∧
      (s.queue (frameOf b).chan).fifo.length < 64 :=
  ⟨live, frame (0x40032F) [],
    by decide +kernel⟩

set_option Elab.async false in
theorem meets_querosTrainsAndCarriesFrames_4 : ∃ (s : State) (b : List Byte),
      s.linkReady = true ∧
      (frameOf b).crcOk = false :=
  ⟨live, List.replicate 256 1,
    by decide +kernel⟩

set_option Elab.async false in
theorem meets_querosTrainsAndCarriesFrames_5 : ∃ (s : State) (b : List Byte),
      s.qrs.state = 2 ∧
      (frameOf b).crcOk = true ∧
      (frameOf b).rsvOk = true ∧
      (frameOf b).akind = 1 ∧
      (frameOf b).type = 0 :=
  ⟨live, frame 0 (List.replicate 240 0 ++ leBytes 4 0x1000000),
    by decide +kernel⟩

theorem meets_querosTrainsAndCarriesFrames_6 : ∃ (s : State) (b : List Byte),
      s.qrs.state = 2 ∧
      (frameOf b).crcOk = true ∧
      (frameOf b).rsvOk = true ∧
      (frameOf b).akind = 2 ∧
      (frameOf b).type = 0 ∧
      (s.qrs.acked (frameOf b).ack).fails = 16 :=
  ⟨{ live with qrs := { live.qrs with fails := 16 } }, frame 0 (List.replicate 240 0 ++ leBytes 4 0x2000000),
    by decide +kernel⟩

theorem meets_querosTrainsAndCarriesFrames_7 : ∃ (s : State) (b : List Byte),
      s.qrs.state = 2 ∧
      (frameOf b).crcOk = true ∧
      (frameOf b).rsvOk = true ∧
      (frameOf b).akind = 0 ∧
      (frameOf b).type = 2 ∧
      (frameOf b).fseq = s.qrs.rxNext ∧
      (∀ w < 8, (s.window w).bursts = [] ∧ (s.window w).change = none) :=
  ⟨live, frame (0x20340) (List.replicate 24 1),
    by decide +kernel⟩

theorem meets_registersAreReadAndWritten_0 : ∃ (s : State) (c : Cmd) (t : State) (r : Reg),
      Reads s c t r ∧
      readActs (some r) = false :=
  ⟨live, host (rd 0), next live (rd 0), .devId,
    reads_of _ _ _ (by decide),
    by decide⟩

theorem meets_registersAreReadAndWritten_1 : ∃ (s : State) (c : Cmd) (t : State),
      Taken s c t ∧
      c.r.op = opRead ∧
      regAt c.r.addr.toNat = none :=
  ⟨live, host (rd 0x10), next live (rd 0x10),
    taken_of _ _ (by decide),
    by decide⟩

theorem meets_registersAreReadAndWritten_2 : ∃ (s : State) (c : Cmd) (t : State),
      Taken s c t ∧
      c.r.op = opWrite ∧
      regAt c.r.addr.toNat = none :=
  ⟨live, host (wr 4 0), next live (wr 4 0),
    taken_of _ _ (by decide),
    by decide⟩

theorem meets_registersAreReadAndWritten_3 : ∃ (s : State) (c : Cmd) (t : State) (r : Reg),
      Taken s c t ∧
      c.r.op = opRead ∧
      regAt c.r.addr.toNat = some r ∧
      readActs (some r) = false ∧
      t.isOn r.island = false :=
  ⟨{ live with isl := [(78, { IslandSt.dflt 78 with pow := .on }), (79, { IslandSt.dflt 79 with pow := .retention })] }, host (rd 0x1000000), next { live with isl := [(78, { IslandSt.dflt 78 with pow := .on }), (79, { IslandSt.dflt 79 with pow := .retention })] } (rd 0x1000000), .hkpClkStat,
    taken_of _ _ (by decide),
    by decide⟩

theorem meets_registersAreReadAndWritten_4 : ∃ (s : State) (c : Cmd) (t : State) (r : Reg),
      Taken s c t ∧
      isWrite .plain s c.r = true ∧
      regAt c.r.addr.toNat = some r :=
  ⟨asleep, host (wr 0x400318 1), next asleep (wr 0x400318 1), .obsSel 3 2,
    taken_of _ _ (by decide),
    by decide⟩

theorem meets_registersAreReadAndWritten_4a : ∃ (s : State) (c : Cmd) (t : State) (r : Reg),
      Taken s c t ∧
      isWrite .plain s c.r = true ∧
      regAt c.r.addr.toNat = some r ∧
      t.isOn r.island = false :=
  ⟨asleep, host (wr 0x400318 1), next asleep (wr 0x400318 1), .obsSel 3 2,
    taken_of _ _ (by decide),
    by decide⟩

theorem meets_registersAreReadAndWritten_4b : ∃ (s : State) (c : Cmd) (t : State) (r : Reg),
      Taken s c t ∧
      isWrite .plain s c.r = true ∧
      regAt c.r.addr.toNat = some r ∧
      t.isOn r.island = true ∧
      setsReserved r c.r = true :=
  ⟨live, host (wr 0x400318 0x800), next live (wr 0x400318 0x800), .obsSel 3 2,
    taken_of _ _ (by decide),
    by decide⟩

theorem meets_registersAreReadAndWritten_5 : ∃ (s : State) (c : Cmd) (t : State) (r : Reg) (v : Nat),
      Writes s c .plain t r v ∧
      reservedIn r c.r v = some .reject :=
  ⟨live, host (wr 0x400318 0xFF), next live (wr 0x400318 0xFF), .obsSel 3 2, State.wouldBe (next live (wr 0x400318 0xFF)) (.obsSel 3 2) (wr 0x400318 0xFF),
    writes_of _ _ _ _ (by decide),
    by decide⟩

theorem meets_registersAreReadAndWritten_6 : ∃ (s : State) (c : Cmd) (t : State) (r : Reg) (v : Nat),
      Writes s c .plain t r v ∧
      reservedIn r c.r v = none :=
  ⟨live, host (wr 8 9), next live (wr 8 9), .devScratch, State.wouldBe (next live (wr 8 9)) .devScratch (wr 8 9),
    writes_of _ _ _ _ (by decide),
    by decide⟩

theorem meets_registersAreReadAndWritten_7 : ∃ (s : State) (c : Cmd) (t : State) (v : Nat),
      Writes s c .plain t .devScratch v :=
  ⟨live, host (wr 8 9), next live (wr 8 9), State.wouldBe (next live (wr 8 9)) .devScratch (wr 8 9),
    writes_of _ _ _ _ (by decide)⟩

theorem meets_registersAreReadAndWritten_8 : ∃ (s : State) (c : Cmd) (t : State),
      Taken s c t ∧
      c.r.op = opNop :=
  ⟨live, host (record opNop 0 0 0 0), next live (record opNop 0 0 0 0),
    taken_of _ _ (by decide),
    by decide⟩

theorem meets_windowsOpenAndBurstsMoveLines_0 : ∃ (s : State) (c : Cmd) (t : State),
      Taken s c t ∧
      c.r.op = opPeelSet ∧
      (s.window (winOf c.r)).bursts = [] ∧
      (s.window (winOf c.r)).change = none ∧
      (s.window (winOf c.r)).later = [] ∧
      (windowOf c.r).valid = true :=
  ⟨live, host (record opPeelSet 7 0 64 0), next live (record opPeelSet 7 0 64 0),
    taken_of _ _ (by decide),
    by decide⟩

theorem meets_windowsOpenAndBurstsMoveLines_1 : ∃ (s : State) (c : Cmd) (t : State),
      Taken s c t ∧
      c.r.op = opPeelSet ∧
      (s.window (winOf c.r)).change = none ∧
      (windowOf c.r).valid = false :=
  ⟨live, host (record opPeelSet 7 0 63 0), next live (record opPeelSet 7 0 63 0),
    taken_of _ _ (by decide),
    by decide⟩

theorem meets_windowsOpenAndBurstsMoveLines_2 : ∃ (s : State) (c : Cmd) (t : State),
      Taken s c t ∧
      c.r.op = opPeelClose ∧
      (s.window (winOf c.r)).bursts = [] ∧
      (s.window (winOf c.r)).change = none :=
  ⟨(windowed true false), host (record opPeelClose 7 0 0 0), next (windowed true false) (record opPeelClose 7 0 0 0),
    taken_of _ _ (by decide),
    by decide⟩

theorem meets_windowsOpenAndBurstsMoveLines_3 : ∃ (s : State) (c : Cmd) (t : State),
      Taken s c t ∧
      (s.window (winOf c.r)).bursts ≠ [] ∧
      (s.window (winOf c.r)).change = none :=
  ⟨({ live with qrs := { live.qrs with windows := [(7, { bursts := [burst true] })] } }), host (record opPeelClose 7 0 0 0), next ({ live with qrs := { live.qrs with windows := [(7, { bursts := [burst true] })] } }) (record opPeelClose 7 0 0 0),
    taken_of _ _ (by decide),
    by decide⟩

theorem meets_windowsOpenAndBurstsMoveLines_4 : ∃ (s : State) (c : Cmd),
      (s.window (winOf c.r)).change.isSome = true :=
  ⟨{ live with qrs := { live.qrs with windows := [(7, { bursts := [burst true], change := some (0, record opPeelClose 7 0 0 0) })] } }, host (record opPeelClose 7 0 0 0),
    by decide⟩

theorem meets_windowsOpenAndBurstsMoveLines_5 : ∃ (s : State) (w : WinNo) (_bid : BitVec 16) (_d : List Byte),
      s.qrs.state = 2 ∧
      (s.window w.val).change.isSome = true :=
  ⟨{ live with qrs := { live.qrs with windows := [(7, { bursts := [burst true], change := some (0, record opPeelClose 7 0 0 0) })] } }, 7, 1, [],
    by decide⟩

theorem meets_windowsOpenAndBurstsMoveLines_6 : ∃ (s : State) (w : WinNo) (_bid : BitVec 16) (d : List Byte),
      s.qrs.state = 2 ∧
      (s.window w.val).isOpen = true ∧
      (s.window w.val).isRead = false ∧
      (s.window w.val).mode = 0 ∧
      d.length = 64 ∧
      (s.window w.val).cur + 64 ≤ (s.window w.val).len ∧
      (s.window w.val).bursts = [] ∧
      (s.window w.val).change = none ∧
      (s.window w.val).base + (s.window w.val).cur + 64 ≤ hbmTop ∧
      s.accessErr (.peel w.val) true ((s.window w.val).base + (s.window w.val).cur) 64 = none :=
  ⟨windowed true false, 7, 1, List.replicate 64 1,
    by decide⟩

theorem meets_windowsOpenAndBurstsMoveLines_7 : ∃ (s : State) (u : State) (w : WinNo) (_bid : BitVec 16) (ue : Option Nat),
      u = s.markUes ue ∧
      u.qrs.state = 2 ∧
      (u.window w.val).isOpen = true ∧
      (u.window w.val).isRead = true ∧
      (u.window w.val).mode = 0 ∧
      (u.window w.val).cur + 64 ≤ (u.window w.val).len ∧
      (u.window w.val).bursts = [] ∧
      (u.window w.val).change = none ∧
      (u.window w.val).base + (u.window w.val).cur + 64 ≤ hbmTop ∧
      0 < tget u.qrs.readCredits 0 w.val ∧
      u.accessErr (.peel w.val) false ((u.window w.val).base + (u.window w.val).cur) 64 = none :=
  ⟨windowed true true, windowed true true, 7, 1, none,
    rfl,
    by decide⟩

theorem meets_windowsOpenAndBurstsMoveLines_8 : ∃ (s : State) (w : WinNo) (_bid : BitVec 16) (d : List Byte),
      s.qrs.state = 2 ∧
      (s.window w.val).isOpen = false ∧
      d.length = 64 ∧
      (s.window w.val).bursts = [] ∧
      (s.window w.val).change = none :=
  ⟨windowed false false, 7, 1, List.replicate 64 1,
    by decide⟩

theorem meets_queuesFlushAndEventsLeave_0 : ∃ (s : State) (c : Cmd) (t : State) (q : Nat) (v : Nat),
      Writes s c .flush t (.qrsQcfg q) v :=
  ⟨{ live with qrs := { live.qrs with queues := [(15, { fifo := [wr 8 9] })] } }, host (wr 0xE01F00 0x101), next { live with qrs := { live.qrs with queues := [(15, { fifo := [wr 8 9] })] } } (wr 0xE01F00 0x101), 15, State.wouldBe (next { live with qrs := { live.qrs with queues := [(15, { fifo := [wr 8 9] })] } } (wr 0xE01F00 0x101)) (.qrsQcfg 15) (wr 0xE01F00 0x101),
    writes_of _ _ _ _ (by decide)⟩

theorem meets_queuesFlushAndEventsLeave_1 : ∃ (s : State) (e : Event) (l : List Event),
      s.qrs.evBuf = e :: l ∧
      0 < s.qrs.evtCredits ∧
      s.qrs.state = 2 ∧
      s.isOn 78 = true ∧
      s.qrs.lostPend = 0 :=
  ⟨{ live with qrs := { live.qrs with evBuf := [event], evtCredits := 1 } }, event, [],
    by decide⟩

theorem meets_queuesFlushAndEventsLeave_2 : ∃ (s : State) (e : Event) (l : List Event),
      s.qrs.evBuf = e :: l ∧
      0 < s.qrs.evtCredits ∧
      s.qrs.state = 2 ∧
      s.isOn 78 = true ∧
      0 < s.qrs.lostPend ∧
      l.length < 8192 :=
  ⟨{ live with qrs := { live.qrs with evBuf := [event], evtCredits := 1, lostPend := 1 } }, event, [],
    by decide⟩

theorem meets_installRecordsAct_0 : ∃ (s : State) (c : Cmd) (t : State) (v : State) (b : List Byte),
      TakesRecord s c t b ∧
      c.r.op = opKeyInstall ∧
      t.installErr (installOf b) false true = none ∧
      t.ctrErr c.q.val c.r = none ∧
      t.accept c.q.val c.r.ctr c.pok = some v ∧
      v.slotErr (installOf b) false = none ∧
      (installOf b).op = 1 :=
  ⟨(boxed 1), host (record opKeyInstall 0 0 0 0), pre (boxed 1), next (boxed 1) (record opKeyInstall 0 0 0 0), noteOf 1,
    record_of _ _ _ (by decide) rfl,
    by decide +kernel,
    install_none _ _ false (by decide +kernel) (by decide +kernel) (by decide +kernel) (by decide +kernel)
      (signer_ok _ _ (by decide +kernel) (by decide +kernel) (by decide +kernel) (congrArg some rfl)),
    by decide +kernel,
    accept_next _ _ _ (by decide),
    by decide +kernel⟩

theorem meets_installRecordsAct_1 : ∃ (s : State) (c : Cmd) (t : State) (v : State) (b : List Byte),
      TakesRecord s c t b ∧
      c.r.op = opKeyInstall ∧
      t.installErr (installOf b) false true = none ∧
      t.ctrErr c.q.val c.r = none ∧
      t.accept c.q.val c.r.ctr c.pok = some v ∧
      v.slotErr (installOf b) false = none ∧
      (installOf b).op = 4 :=
  ⟨(boxed 4), host (record opKeyInstall 0 0 0 0), pre (boxed 4), next (boxed 4) (record opKeyInstall 0 0 0 0), noteOf 4,
    record_of _ _ _ (by decide) rfl,
    by decide +kernel,
    install_none _ _ false (by decide +kernel) (by decide +kernel) (by decide +kernel) (by decide +kernel)
      (signer_ok _ _ (by decide +kernel) (by decide +kernel) (by decide +kernel) (congrArg some rfl)),
    by decide +kernel,
    accept_next _ _ _ (by decide),
    by decide +kernel⟩

theorem meets_installRecordsAct_2 : ∃ (s : State) (c : Cmd) (t : State) (b : List Byte) (sig : Bool) (_st : Bool) (e : BitVec 32),
      TakesRecord s c t b ∧
      c.r.op = opKeyInstall ∧
      t.installErr (installOf b) false sig = some e :=
  ⟨live, host (record opKeyInstall 0 0 0 0), pre live, live.mailbox.take installLen, true, true, dRecInvalid,
    record_of _ _ _ (by decide) rfl,
    by decide +kernel⟩

theorem meets_installRecordsAct_3 : ∃ (s : State) (c : Cmd) (t : State) (b : List Byte) (_st : Bool),
      TakesRecord s c t b ∧
      c.r.op = opKeyInstall ∧
      t.installErr (installOf b) false true = none ∧
      t.ctrErr c.q.val c.r = some stReplay :=
  ⟨late, host (record opKeyInstall 0 0 0 0), pre late, noteOf 1, true,
    record_of _ _ _ (by decide) rfl,
    by decide +kernel,
    install_none _ _ false (by decide +kernel) (by decide +kernel) (by decide +kernel) (by decide +kernel)
      (signer_ok _ _ (by decide +kernel) (by decide +kernel) (by decide +kernel) (congrArg some rfl)),
    by decide +kernel⟩

theorem meets_installRecordsAct_4 : ∃ (s : State) (c : Cmd) (t : State) (v : State) (b : List Byte) (_st : Bool) (e : BitVec 32),
      TakesRecord s c t b ∧
      c.r.op = opKeyInstall ∧
      t.installErr (installOf b) false true = none ∧
      t.ctrErr c.q.val c.r = none ∧
      t.accept c.q.val c.r.ctr c.pok = some v ∧
      v.slotErr (installOf b) false = some e :=
  ⟨(boxed 2), host (record opKeyInstall 0 0 0 0), pre (boxed 2), next (boxed 2) (record opKeyInstall 0 0 0 0), noteOf 2, true, dSlotState,
    record_of _ _ _ (by decide) rfl,
    by decide +kernel,
    install_none _ _ false (by decide +kernel) (by decide +kernel) (by decide +kernel) (by decide +kernel)
      (signer_ok _ _ (by decide +kernel) (by decide +kernel) (by decide +kernel) (congrArg some rfl)),
    by decide +kernel,
    accept_next _ _ _ (by decide),
    by decide +kernel⟩

theorem meets_installRecordsAct_5 : ∃ (s : State) (c : Cmd) (t : State) (v : State) (b : List Byte),
      TakesRecord s c t b ∧
      c.r.op = opDebug ∧
      c.pok = true ∧
      t.installErr (installOf b) true true = none ∧
      t.ctrErr c.q.val c.r = none ∧
      t.accept c.q.val c.r.ctr true = some v ∧
      v.slotErr (installOf b) true = none ∧
      (installOf b).op = 6 :=
  ⟨(boxed 6), host (record opDebug 0 0 0 0), pre (boxed 6), next (boxed 6) (record opDebug 0 0 0 0), noteOf 6,
    record_of _ _ _ (by decide) rfl,
    by decide +kernel,
    by decide +kernel,
    install_none _ _ true (by decide +kernel) (by decide +kernel) (by decide +kernel) (by decide +kernel)
      (signer_ok _ _ (by decide +kernel) (by decide +kernel) (by decide +kernel) (congrArg some rfl)),
    by decide +kernel,
    accept_next _ _ _ (by decide),
    by decide +kernel⟩

theorem meets_installRecordsAct_6 : ∃ (s : State) (c : Cmd) (t : State) (v : State) (b : List Byte),
      TakesRecord s c t b ∧
      c.r.op = opDebug ∧
      c.pok = true ∧
      t.installErr (installOf b) true true = none ∧
      t.ctrErr c.q.val c.r = none ∧
      t.accept c.q.val c.r.ctr true = some v ∧
      v.slotErr (installOf b) true = none ∧
      (installOf b).op = 7 :=
  ⟨rooted, host (record opDebug 0 64 0 0), pre rooted, next rooted (record opDebug 0 64 0 0), rootNote,
    record_of _ _ _ (by decide) rooted_read,
    by decide +kernel,
    by decide +kernel,
    rooted_ok,
    by decide +kernel,
    accept_next _ _ _ (by decide),
    by decide +kernel⟩

set_option Elab.async false in
theorem meets_crustAnswersAndStagesFirmware_0 : ∃ (s : State) (c : Cmd) (t : State) (sig : List Byte) (b : List Byte),
      Taken s c t ∧
      c.r.op = opAttest ∧
      c.r.addr.toNat ≠ 0 ∧
      b = (if c.r.arg0.getLsbD 0 then certBytes t.per else t.report c.r sig) ∧
      c.r.addr.toNat + b.length ≤ hbmTop ∧
      t.accessErr .processor true c.r.addr.toNat b.length = none :=
  ⟨live, host (record opAttest 1 64 0 0), next live (record opAttest 1 64 0 0), [], certBytes (next live (record opAttest 1 64 0 0)).per,
    taken_of _ _ (by decide),
    by decide,
    by decide,
    rfl,
    by decide +kernel⟩

theorem meets_crustAnswersAndStagesFirmware_1 : ∃ (s : State) (c : Cmd) (t : State),
      Reads s c t (.cruChal 0) :=
  ⟨live, host (rd 0xF00040), next live (rd 0xF00040),
    reads_of _ _ _ (by decide)⟩

theorem meets_crustAnswersAndStagesFirmware_2 : ∃ (s : State) (c : Cmd) (t : State),
      Reads s c t .cruMboxData :=
  ⟨live, host (rd 0xF00020), next live (rd 0xF00020),
    reads_of _ _ _ (by decide)⟩

theorem meets_crustAnswersAndStagesFirmware_3 : ∃ (s : State) (c : Cmd) (t : State) (v : Nat),
      Writes s c .mbox t .cruMboxData v :=
  ⟨live, host (wr 0xF00020 9), next live (wr 0xF00020 9), State.wouldBe (next live (wr 0xF00020 9)) .cruMboxData (wr 0xF00020 9),
    writes_of _ _ _ _ (by decide)⟩

theorem meets_crustAnswersAndStagesFirmware_4 : ∃ (s : State) (c : Cmd) (t : State) (v : Nat) (h : List Byte) (b : List Byte),
      Writes s c .stage t .cruFwctl v ∧
      c.pok = true ∧
      (t.putReg v .cruFwctl).read .processor (fieldOf v 47 0) 4096 = (t.putReg v .cruFwctl, .ok h) ∧
      4096 ≤ bytesField h 8 8 ∧
      bytesField h 8 8 ≤ 2 ^ 20 ∧
      (t.putReg v .cruFwctl).read .processor (fieldOf v 47 0) (bytesField h 8 8) = (t.putReg v .cruFwctl, .ok b) ∧
      fwHeadOk b = true ∧
      imagePkHash b = rootHash ∧
      t.per.fwMin.toNat ≤ (BitVec.ofNat 32 (bytesField b 18 4)).toNat ∧
      t.cru.fwActive = true :=
  ⟨staged, host (wr 0xF00060 (64 ||| 1 <<< 48)), next staged (wr 0xF00060 (64 ||| 1 <<< 48)), State.wouldBe (next staged (wr 0xF00060 (64 ||| 1 <<< 48))) .cruFwctl (wr 0xF00060 (64 ||| 1 <<< 48)), fwBytes, fwBytes,
    writes_of _ _ _ _ (by decide),
    by decide +kernel,
    staged_read,
    by decide +kernel,
    by decide +kernel,
    staged_read,
    by decide +kernel,
    fwBytes_key,
    by decide +kernel⟩

set_option Elab.async false in
theorem meets_crustAnswersAndStagesFirmware_5 : ∃ (s : State) (c : Cmd) (t : State) (v : Nat) (h : List Byte) (b : List Byte),
      Writes s c .stage t .cruFwctl v ∧
      (t.putReg v .cruFwctl).read .processor (fieldOf v 47 0) 4096 = (t.putReg v .cruFwctl, .ok h) ∧
      4096 ≤ bytesField h 8 8 ∧
      bytesField h 8 8 ≤ 2 ^ 20 ∧
      (t.putReg v .cruFwctl).read .processor (fieldOf v 47 0) (bytesField h 8 8) = (t.putReg v .cruFwctl, .ok b) :=
  ⟨unsigned, host (wr 0xF00060 (0 ||| 1 <<< 48)), next unsigned (wr 0xF00060 (0 ||| 1 <<< 48)), State.wouldBe (next unsigned (wr 0xF00060 (0 ||| 1 <<< 48))) .cruFwctl (wr 0xF00060 (0 ||| 1 <<< 48)), unsignedBytes 4096, unsignedBytes (bytesField (unsignedBytes 4096) 8 8),
    writes_of _ _ _ _ (by decide),
    read_ok _ _ _ _ (by decide),
    by decide +kernel,
    by decide +kernel,
    read_ok _ _ _ _ (by decide +kernel)⟩

theorem meets_crustAnswersAndStagesFirmware_6 : ∃ (s : State) (c : Cmd) (t : State) (v : Nat),
      Writes s c .lock t .cruFwctl v ∧
      c.pok = true :=
  ⟨live, host (wr 0xF00060 (2 <<< 48)), next live (wr 0xF00060 (2 <<< 48)), State.wouldBe (next live (wr 0xF00060 (2 <<< 48))) .cruFwctl (wr 0xF00060 (2 <<< 48)),
    writes_of _ _ _ _ (by decide),
    by decide⟩

theorem meets_commitsAreChecked_0 : ∃ (s : State) (c : Cmd) (t : State),
      Taken s c t ∧
      c.r.op = opCommit ∧
      commitArgsOk c.r = true ∧
      commitSlice c.r = true ∧
      t.admitErr c.r = none :=
  ⟨{ ready with mem := [(0x80009, 0x20)] }, host (record opCommit 2 0x300000 8192 0), next ({ ready with mem := [(0x80009, 0x20)] }) (record opCommit 2 0x300000 8192 0),
    taken_of _ _ (by decide),
    by decide⟩

theorem meets_commitsAreChecked_1 : ∃ (s : State) (c : Cmd) (t : State),
      Taken s c t ∧
      c.r.op = opCommit ∧
      commitArgsOk c.r = true ∧
      commitSlice c.r = false ∧
      t.admitErr c.r = none :=
  ⟨{ ready with mem := [(0x80009, 0x20)] }, host (record opCommit 1 0x300000 8192 0), next ({ ready with mem := [(0x80009, 0x20)] }) (record opCommit 1 0x300000 8192 0),
    taken_of _ _ (by decide),
    by decide⟩

theorem meets_commitsAreChecked_2 : ∃ (s : State) (c : Cmd) (t : State) (e : Reject),
      Taken s c t ∧
      c.r.op = opCommit ∧
      commitArgsOk c.r = true ∧
      t.admitErr c.r = some e ∧
      t.rcp.failValid = false :=
  ⟨{ live with mem := [(0x80009, 0x20)] }, host (record opCommit 1 0x300000 8192 0), next ({ live with mem := [(0x80009, 0x20)] }) (record opCommit 1 0x300000 8192 0), { code := dRetireUnarmed },
    taken_of _ _ (by decide),
    by decide⟩

theorem meets_commitsAreChecked_3 : ∃ (s : State) (c : Cmd) (t : State),
      Taken s c t ∧
      c.r.op = opCommit ∧
      commitArgsOk c.r = false :=
  ⟨live, host (record opCommit 3 0x300000 8192 0), next live (record opCommit 3 0x300000 8192 0),
    taken_of _ _ (by decide),
    by decide⟩

theorem meets_commitsAreChecked_4 : ∃ (s : State) (u : State) (j : CommitJob) (lay : ImageLay) (sigOk : Bool) (ue : Option Nat) (b : List Byte),
      s.rcp.job = some j ∧
      s.rcp.phase = 2 ∧
      s.imageRead j ue = (u, some b) ∧
      u.imageErr { j with digest := imageDigest b, img := some (imageOf s.lnk.rank.toNat lay b) } (imageOf s.lnk.rank.toNat lay b) sigOk = none :=
  ⟨imaged0, imaged0, imageJob, sliceLay, true, none, sliceBytes,
    rfl,
    rfl,
    imaged_read,
    image_accepted⟩

theorem meets_commitsAreChecked_5 : ∃ (s : State) (u : State) (j : CommitJob) (lay : ImageLay) (sigOk : Bool) (ue : Option Nat) (r : Option (List Byte)) (e : Reject),
      s.rcp.job = some j ∧
      s.rcp.phase = 2 ∧
      s.imageRead j ue = (u, r) ∧
      s.hkp.waitEnter = none ∧
      u.hkp.waitEnter = none ∧
      u.rcp.failValid = false ∧
      (r = none ∧ e = { code := dImageUe } ∨ ∃ b, r = some b ∧ u.imageErr { j with digest := imageDigest b, img := some (imageOf s.lnk.rank.toNat lay b) } (imageOf s.lnk.rank.toNat lay b) sigOk = some e) :=
  ⟨loading 0 none 2, (State.imageRead (loading 0 none 2) (jobOf 0 none) (some 1)).1, jobOf 0 none, sliceLay, true, some 1, none, { code := dImageUe },
    rfl,
    by decide,
    pair_none _ (by rw [imageRead_ue]; rfl),
    by decide,
    by decide +kernel,
    by decide +kernel,
    Or.inl ⟨rfl, rfl⟩⟩

theorem meets_commitsAreApplied_0 : ∃ (s : State) (u : State) (j : CommitJob) (i : Image) (r : PartRec) (ue : Option Nat) (b : List Byte),
      s.rcp.job = some j ∧
      j.img = some i ∧
      s.rcp.phase = 4 ∧
      j.slice = true ∧
      i.parts = [r] ∧
      r.part = j.part ∧
      s.imageRead j ue = (u, some b) ∧
      imageDigest b = j.digest ∧
      u.hkp.waitEnter = none ∧
      ((u.applied true i).commitDone j i).lnk.lostAt = [] :=
  ⟨loading digestOf (some recipe) 4, loading digestOf (some recipe) 4, jobOf digestOf (some recipe), recipe, partRec, none, ready.readBytes 0x1000000 0x10000,
    rfl,
    front4 (by decide) ⟨by decide,
    imageRead_ok _ _ (by decide +kernel),
    rfl,
    by decide,
    by decide +kernel⟩⟩

theorem meets_commitsAreApplied_1 : ∃ (s : State) (u : State) (j : CommitJob) (i : Image) (ue : Option Nat) (b : List Byte),
      s.rcp.job = some j ∧
      j.img = some i ∧
      s.rcp.phase = 4 ∧
      j.slice = false ∧
      s.imageRead j ue = (u, some b) ∧
      imageDigest b = j.digest ∧
      u.hkp.waitEnter = none ∧
      ((u.applied false i).commitDone j i).lnk.lostAt = [] :=
  ⟨fullLoading, fullLoading, { jobOf digestOf (some fullRecipe) with slice := false }, fullRecipe, none, ready.readBytes 0x1000000 0x10000,
    rfl,
    by decide,
    by decide,
    by decide,
    imageRead_ok _ _ (by decide +kernel),
    rfl,
    by decide,
    by decide +kernel⟩

theorem meets_commitsAreApplied_2 : ∃ (s : State) (u : State) (j : CommitJob) (i : Image) (ue : Option Nat) (x : Option (List Byte)),
      s.rcp.job = some j ∧
      j.img = some i ∧
      s.rcp.phase = 4 ∧
      j.slice = true ∧
      s.imageRead j ue = (u, x) ∧
      x.map imageDigest ≠ some j.digest ∧
      u.hkp.waitEnter = none ∧
      u.rcp.failValid = false :=
  ⟨loading (digestOf + 1) (some recipe) 4, loading (digestOf + 1) (some recipe) 4, jobOf (digestOf + 1) (some recipe), recipe, none, some (ready.readBytes 0x1000000 0x10000),
    rfl,
    by decide,
    by decide,
    by decide,
    imageRead_ok _ _ (by decide +kernel),
    fun h => ne_succ digestOf (Option.some.inj h),
    by decide⟩

theorem meets_partitionsRunAndHalt_0 : ∃ (s : State) (c : Cmd) (t : State) (p : Nat) (v : Nat) (d : Slice),
      Writes s c .run t (.recPctl p) v ∧
      (t.part p).state = .ready ∧
      t.slice p = some d ∧
      (∀ n ∈ t.racksOf p, (t.rack n).stream.state = .idle) ∧
      ((t.setPctl p 0).startPart p).lnk.lostAt = [] :=
  ⟨(held { state := .ready }), host (wr 0x800100 1), next (held { state := .ready }) (wr 0x800100 1), 0, State.wouldBe (next (held { state := .ready }) (wr 0x800100 1)) (.recPctl 0) (wr 0x800100 1), slice0,
    writes_of _ _ _ _ (by decide),
    by decide +kernel⟩

theorem meets_partitionsRunAndHalt_1 : ∃ (s : State) (c : Cmd) (t : State) (p : Nat) (v : Nat),
      Writes s c .run t (.recPctl p) v ∧
      (t.part p).state = .halted :=
  ⟨(held { state := .halted }), host (wr 0x800100 1), next (held { state := .halted }) (wr 0x800100 1), 0, State.wouldBe (next (held { state := .halted }) (wr 0x800100 1)) (.recPctl 0) (wr 0x800100 1),
    writes_of _ _ _ _ (by decide),
    by decide⟩

theorem meets_partitionsRunAndHalt_2 : ∃ (s : State) (c : Cmd) (t : State) (p : Nat) (v : Nat),
      Writes s c .run t (.recPctl p) v ∧
      (t.part p).state ≠ .ready ∧
      (t.part p).state ≠ .halted :=
  ⟨live, host (wr 0x800138 1), next live (wr 0x800138 1), 7, State.wouldBe (next live (wr 0x800138 1)) (.recPctl 7) (wr 0x800138 1),
    writes_of _ _ _ _ (by decide),
    by decide⟩

theorem meets_partitionsRunAndHalt_3 : ∃ (s : State) (c : Cmd) (t : State) (p : Nat) (v : Nat),
      Writes s c .halt t (.recPctl p) v ∧
      (t.part p).state = .run :=
  ⟨(held { state := .run }), host (wr 0x800100 2), next (held { state := .run }) (wr 0x800100 2), 0, State.wouldBe (next (held { state := .run }) (wr 0x800100 2)) (.recPctl 0) (wr 0x800100 2),
    writes_of _ _ _ _ (by decide),
    by decide⟩

theorem meets_partitionsRunAndHalt_4 : ∃ (s : State) (p : Part),
      (s.part p.val).state = .run ∧
      (s.part p.val).halting = true ∧
      (∀ n ∈ s.racksOf p.val, ∀ e ∈ (s.rack n).slots, e.2.quiet = true) :=
  ⟨running { halting := true }, 0,
    by decide⟩

theorem meets_partitionsRunAndHalt_5 : ∃ (s : State) (c : Cmd) (t : State) (p : Nat) (v : Nat),
      Writes s c .haltFault t (.recPctl p) v ∧
      ((t.part p).state = .run ∨ (t.part p).state = .halted ∨ (t.part p).state = .ready) ∧
      t.fullCommit = false :=
  ⟨(held { state := .ready }), host (wr 0x800100 3), next (held { state := .ready }) (wr 0x800100 3), 0, State.wouldBe (next (held { state := .ready }) (wr 0x800100 3)) (.recPctl 0) (wr 0x800100 3),
    writes_of _ _ _ _ (by decide),
    by decide⟩

theorem meets_partitionsRunAndHalt_6 : ∃ (s : State) (c : Cmd) (t : State) (p : Nat) (v : Nat),
      Writes s c .haltFault t (.recPctl p) v ∧
      ((t.part p).state = .run ∨ (t.part p).state = .halted ∨ (t.part p).state = .ready) ∧
      t.fullCommit = true :=
  ⟨{ held { state := .ready } with rcp := { slices := [(0, slice0)], job := some { jobOf 0 none with slice := false } } }, host (wr 0x800100 3), next ({ held { state := .ready } with rcp := { slices := [(0, slice0)], job := some { jobOf 0 none with slice := false } } }) (wr 0x800100 3), 0, State.wouldBe (next ({ held { state := .ready } with rcp := { slices := [(0, slice0)], job := some { jobOf 0 none with slice := false } } }) (wr 0x800100 3)) (.recPctl 0) (wr 0x800100 3),
    writes_of _ _ _ _ (by decide),
    by decide⟩

theorem meets_partitionsRunAndHalt_7 : ∃ (s : State) (c : Cmd) (t : State) (p : Nat) (v : Nat),
      (Writes s c .haltFault t (.recPctl p) v ∨ Writes s c .halt t (.recPctl p) v) ∧
      ((t.part p).state = .empty ∨ (t.part p).state = .loading ∨ (t.part p).state = .faulted) :=
  ⟨(held { state := .loading }), host (wr 0x800100 2), next (held { state := .loading }) (wr 0x800100 2), 0, State.wouldBe (next (held { state := .loading }) (wr 0x800100 2)) (.recPctl 0) (wr 0x800100 2),
    Or.inr (writes_of _ _ _ _ (by decide)),
    by decide⟩

theorem meets_racksAreObserved_0 : ∃ (s : State) (n : Rack),
      s.isOn n.val = true ∧
      (s.island n.val).stopped = false ∧
      (s.rack n.val).obs.freeze = false :=
  ⟨live, 47,
    by decide⟩

theorem meets_racksAreObserved_1 : ∃ (s : State) (c : Cmd) (t : State) (n : Nat) (v : Nat),
      Writes s c .counterClear t (.obsCtl n) v :=
  ⟨live, host (wr 0x402F00 4), next live (wr 0x402F00 4), 47, State.wouldBe (next live (wr 0x402F00 4)) (.obsCtl 47) (wr 0x402F00 4),
    writes_of _ _ _ _ (by decide)⟩

theorem meets_racksAreObserved_2 : ∃ (s : State) (c : Cmd) (t : State) (v : Nat),
      Writes s c .traceEnable t .obsTrcCtl v ∧
      fieldOf v 7 4 ≤ 8 ∧
      (t.putReg v .obsTrcCtl).tracePlaced = true :=
  ⟨tracing, host (wr 0x4F0000 3), next tracing (wr 0x4F0000 3), State.wouldBe (next tracing (wr 0x4F0000 3)) .obsTrcCtl (wr 0x4F0000 3),
    writes_of _ _ _ _ (by decide),
    by decide⟩

theorem meets_racksAreObserved_3 : ∃ (s : State) (c : Cmd) (t : State) (v : Nat),
      Writes s c .traceEnable t .obsTrcCtl v ∧
      fieldOf v 7 4 ≤ 8 ∧
      (t.putReg v .obsTrcCtl).tracePlaced = false :=
  ⟨live, host (wr 0x4F0000 0x81), next live (wr 0x4F0000 0x81), State.wouldBe (next live (wr 0x4F0000 0x81)) .obsTrcCtl (wr 0x4F0000 0x81),
    writes_of _ _ _ _ (by decide),
    by decide⟩

theorem meets_racksAreObserved_4 : ∃ (s : State) (n : Rack) (r : TraceRec) (l : List TraceRec),
      (s.rack n.val).obs.queue = r :: l ∧
      s.trc.enable = true ∧
      s.isOn 78 = true ∧
      s.isOn n.val = true ∧
      (s.island n.val).stopped = false ∧
      s.accessErr .processor true (s.trc.base.toNat + 32 * (s.trc.head.toNat % s.trc.slots)) 32 = none ∧
      s.trc.full = false ∧
      s.traceFaulted = false ∧
      s.trc.lostRun = 0 ∧
      s.trc.size.toNat ≤ 8 ∧
      pantryBase ≤ s.trc.base.toNat ∧
      s.trc.base.toNat + s.trc.ringBytes ≤ pantryBase + 2 * pantrySize :=
  ⟨tracing, 47, trace, [],
    by decide⟩

theorem meets_stepsOpenInOrder_0 : ∃ (s : State) (p : Part),
      s.mayOpen p.val = true ∧
      (s.part p.val).nextOpen ≠ 0xFFFFFFFF :=
  ⟨running { inready := 1, nextOpen := 1 }, 0,
    by decide⟩

theorem meets_stepsOpenInOrder_1 : ∃ (s : State) (p : Part),
      s.mayOpen p.val = true ∧
      (s.part p.val).nextOpen = 0xFFFFFFFF ∧
      (s.part p.val).stepLimit = false ∧
      s.isOn 78 = true ∧
      s.qrs.evBuf.length < evBufMax :=
  ⟨running { inready := 0xFFFFFFFF, nextOpen := 0xFFFFFFFF, lastSeal := 0xFFFFFFFE }, 0,
    by decide⟩

theorem meets_stepsOpenInOrder_2 : ∃ (s : State) (p : Part),
      s.mayOpen p.val = true ∧
      (s.part p.val).nextOpen = 0xFFFFFFFF ∧
      (s.part p.val).stepLimit = true :=
  ⟨running { inready := 0xFFFFFFFF, nextOpen := 0xFFFFFFFF, lastSeal := 0xFFFFFFFE, stepLimit := true }, 0,
    by decide⟩

theorem meets_stepsOpenInOrder_3 : ∃ (s : State) (p : Part),
      s.mayOpen p.val = false :=
  ⟨live, 7,
    by decide⟩

theorem meets_descriptorsAreFetched_0 : ∃ (s : State) (n : Rack) (i : SlotNo) (p : Nat) (b : List Byte),
      s.active n.val = some p ∧
      (s.slot n.val i.val).fetches = true ∧
      inStore n.val (s.slot n.val i.val).next = true ∧
      s.read (.rack n.val) (s.slot n.val i.val).next 128 = (s, .ok b) ∧
      s.descErr n.val p (descOf (s.slot n.val i.val).next (s.slot n.val i.val).tstep b) = none :=
  ⟨fetching 5, 0, 127, 0, (fetching 5).readBytes rackBase 128,
    by decide,
    by decide,
    by decide,
    read_ok _ _ _ _ (by decide),
    by decide⟩

theorem meets_descriptorsAreFetched_1 : ∃ (s : State) (n : Rack) (i : SlotNo) (p : Nat) (f : Nat) (b : List Byte),
      s.active n.val = some p ∧
      (s.slot n.val i.val).fetches = true ∧
      inStore n.val (s.slot n.val i.val).next = true ∧
      s.read (.rack n.val) (s.slot n.val i.val).next 128 = (s, .ok b) ∧
      s.descErr n.val p (descOf (s.slot n.val i.val).next (s.slot n.val i.val).tstep b) = some f :=
  ⟨fetching 0, 0, 127, 0, 5, (fetching 0).readBytes rackBase 128,
    by decide,
    by decide,
    by decide,
    read_ok _ _ _ _ (by decide),
    by decide⟩

theorem meets_descriptorsAreFetched_2 : ∃ (s : State) (n : Rack) (i : SlotNo) (p : Nat) (_a : Nat),
      s.active n.val = some p ∧
      (s.slot n.val i.val).fetches = true ∧
      inStore n.val (s.slot n.val i.val).next = true :=
  ⟨fetching 5, 0, 127, 0, 7,
    by decide⟩

theorem meets_descriptorsAreFetched_3 : ∃ (s : State) (n : Rack) (i : SlotNo) (p : Nat),
      s.active n.val = some p ∧
      (s.slot n.val i.val).fetches = true ∧
      inStore n.val (s.slot n.val i.val).next = false :=
  ⟨slots [(127, { state := .wait, next := 0 })] 0, 0, 127, 0,
    by decide⟩

theorem meets_descriptorsAreFetched_4 : ∃ (s : State) (n : Rack) (i : SlotNo) (p : Nat) (o : Op),
      s.active n.val = some p ∧
      (s.slot n.val i.val).newer = some o ∧
      o.desc.kind = 4 :=
  ⟨newer_ (op 4 .fetched) .wait, 0, 127, 0, op 4 .fetched,
    by decide⟩

theorem meets_descriptorsAreFetched_5 : ∃ (s : State) (n : Rack) (i : SlotNo) (p : Nat) (o : Op),
      s.active n.val = some p ∧
      (s.slot n.val i.val).newer = some o ∧
      o.desc.kind = 5 ∧
      (s.slot n.val i.val).older = none ∧
      (s.slot n.val i.val).state ≠ .faulted :=
  ⟨newer_ (op 5 .fetched) .wait, 0, 127, 0, op 5 .fetched,
    by decide⟩

theorem meets_descriptorsAreFetched_6 : ∃ (s : State) (n : Rack) (i : SlotNo) (p : Nat) (o : Op) (q : Op),
      s.active n.val = some p ∧
      (s.slot n.val i.val).newer = some o ∧
      o.desc.kind = 5 ∧
      (s.slot n.val i.val).older = some q :=
  ⟨slots [(127, { state := .run, newer := some (op 5 .fetched), older := some (op 1 .result) })] 0, 0, 127, 0, op 5 .fetched, op 1 .result,
    by decide⟩

theorem meets_descriptorsAreFetched_7 : ∃ (s : State) (n : Rack) (i : SlotNo) (p : Nat) (o : Op),
      s.active n.val = some p ∧
      (s.slot n.val i.val).newer = some o ∧
      o.desc.kind = 3 ∧
      (s.part p).halting = false ∧
      s.stepIsOpen p o.desc.step = true ∧
      s.descWait o.desc = true ∧
      (s.slot n.val i.val).older = none :=
  ⟨newer_ (op 3 .fetched) .wait, 0, 127, 0, op 3 .fetched,
    by decide⟩

theorem meets_descriptorsAreFetched_8 : ∃ (s : State) (n : Rack) (i : SlotNo) (p : Nat) (o : Op),
      s.active n.val = some p ∧
      (s.slot n.val i.val).newer = some o ∧
      o.desc.kind = 3 ∧
      (s.descWait o.desc = false ∨ (s.slot n.val i.val).older ≠ none ∨ s.stepIsOpen p o.desc.step = false) :=
  ⟨slots [(127, { state := .run, newer := some (op 3 .fetched), older := some (op 1 .result) })] 0, 0, 127, 0, op 3 .fetched,
    by decide⟩

theorem meets_operationsAreFedAndPicked_0 : ∃ (s : State) (r : State) (u : State) (n : Rack) (i : SlotNo) (p : Nat) (o : Op) (q : Op),
      s.active n.val = some p ∧
      (s.slot n.val i.val).newer = some o ∧
      o.desc.kind < 3 ∧
      s.mayLatch n.val p o = true ∧
      s.latchAll n.val p o = (r, .ok q) ∧
      formatErr q = false ∧
      r.feedCheck n.val p i.val ((s.rack n.val).sizeOp q) = (u, none) ∧
      opFills ((s.rack n.val).sizeOp q) ≠ [] :=
  ⟨feeding (vec .fetched [] 0), feeding (vec .fetched [] 0), ((feeding (vec .fetched [] 0)).feedCheck 0 0 127 (((feeding (vec .fetched [] 0)).rack 0).sizeOp (vec .latched [] 0x8000))).1, 0, 127, 0, vec .fetched [] 0, vec .latched [] 0x8000,
    front4 (by decide) ⟨by rfl,
    by decide,
    pair_none _ (by decide),
    by decide⟩⟩

theorem meets_operationsAreFedAndPicked_1 : ∃ (s : State) (n : Rack) (i : SlotNo) (p : Nat) (o : Op) (q : Op),
      s.active n.val = some p ∧
      (s.slot n.val i.val).newer = some o ∧
      o.desc.kind < 3 ∧
      s.mayLatch n.val p o = true ∧
      s.latchAll n.val p o = (s, .ok q) ∧
      formatErr q = true :=
  ⟨newer_ (vec .fetched [] 0) .wait, 0, 127, 0, vec .fetched [] 0, vec .latched [] 0,
    front4 (by decide) ⟨by rfl,
    by decide⟩⟩

theorem meets_operationsAreFedAndPicked_2 : ∃ (s : State) (n : Rack) (i : SlotNo) (p : Nat) (o : Op),
      s.active n.val = some p ∧
      (s.slot n.val i.val).newer = some o ∧
      o.desc.kind = 0 ∧
      s.mayLatch n.val p o = true :=
  ⟨newer_ (op 0 .fetched) .wait, 0, 127, 0, op 0 .fetched,
    by decide⟩

theorem meets_operationsAreFedAndPicked_3 : ∃ (s : State) (r : State) (n : Rack) (i : SlotNo) (p : Nat) (o : Op) (b : Nat × Nat × Nat),
      s.working n.val = some p ∧
      (s.slot n.val i.val).filling .a = some (o, false) ∧
      o.fills = [.a] ∧
      (s.rack n.val).fillsBefore o .a < 16 ∧
      s.runFill n.val p o (feedSide o .a) (opConv o .a) = (r, .ok b) ∧
      (r.slot n.val i.val).state = .feed :=
  ⟨vecFeeds, vecRun.1, 0, 127, 0, vecFill, vecRun.2.toOption.getD (0, 0, 0),
    front4 (by decide) ⟨pair_ok _ _ (by decide),
    by decide⟩⟩

theorem meets_operationsAreFedAndPicked_4 : ∃ (s : State) (r : State) (n : Rack) (i : SlotNo) (p : Nat) (o : Op) (b : Nat × Nat × Nat),
      s.working n.val = some p ∧
      (s.slot n.val i.val).filling .b = some (o, true) ∧
      (s.rack n.val).fillsBefore o .b < 16 ∧
      s.runFill n.val p o (feedSide o .b) (opConv o .b) = (r, .ok b) :=
  ⟨fusing innerFill, innerRun.1, 0, 127, 0, innerFill, innerRun.2.toOption.getD (0, 0, 0),
    by decide,
    by decide,
    by decide,
    pair_ok _ _ (by decide)⟩

theorem meets_operationsAreFedAndPicked_5 : ∃ (s : State) (r : State) (n : Rack) (i : SlotNo) (p : Nat) (o : Op) (v : List (BitVec 64)),
      s.working n.val = some p ∧
      (s.slot n.val i.val).filling .init = some (o, false) ∧
      o.fills = [.init] ∧
      (o.hasHalf = true ∨ (s.rack n.val).halfFree o = true) ∧
      s.runInit n.val p o (opInit o).1 (opInit o).2 = (r, .ok v) :=
  ⟨initFeeds, initRun.1, 0, 127, 0, initFill, initRun.2.toOption.getD [],
    front4 (by decide) (pair_ok _ _ (by decide))⟩

theorem meets_operationsAreFedAndPicked_6 : ∃ (s : State) (n : Rack) (i : SlotNo) (p : Nat) (o : Op) (k : FillKind),
      s.working n.val = some p ∧
      (s.slot n.val i.val).filling k = some (o, false) ∧
      k ≠ .init ∧
      16 ≤ (s.rack n.val).fillsBefore o k :=
  ⟨crowded, 0, 16, 0, { vecFill with feed := 16 }, .a,
    by decide⟩

theorem meets_operationsAreFedAndPicked_7 : ∃ (s : State) (n : Rack) (i : SlotNo) (p : Nat) (o : Op) (k : FillKind) (older : Bool) (_a : Nat),
      s.working n.val = some p ∧
      (s.slot n.val i.val).filling k = some (o, older) ∧
      (k = .init ∨ (s.rack n.val).fillsBefore o k < 16) :=
  ⟨newer_ vecFill .feed, 0, 127, 0, vecFill, .a, false, 9,
    by decide⟩

theorem meets_operationsAreFedAndPicked_8 : ∃ (s : State) (n : Rack) (p : Nat) (j : Nat) (o : Op),
      s.active n.val = some p ∧
      s.holdCode n.val p ((s.rack n.val).cycle + 1) = 0 ∧
      (s.rack n.val).obs.enable = false ∧
      (s.rack n.val).obs.queue.length < 8 ∧
      (s.rack n.val).readyOps = [(j, o)] ∧
      (s.rack n.val).gangReady o = true ∧
      (s.rack n.val).fits o = true :=
  ⟨newer_ (op 1 .ready) .ready, 0, 0, 127, op 1 .ready,
    by decide⟩

theorem meets_operationsAreFedAndPicked_9 : ∃ (s : State) (n : Rack) (p : Nat) (j : Nat) (k : Nat) (o : Op) (q : Op),
      s.active n.val = some p ∧
      s.holdCode n.val p ((s.rack n.val).cycle + 1) = 0 ∧
      (s.rack n.val).obs.enable = false ∧
      (s.rack n.val).obs.queue.length < 8 ∧
      ((s.rack n.val).readyOps = [(j, o), (k, q)] ∨ (s.rack n.val).readyOps = [(k, q), (j, o)]) ∧
      (s.rack n.val).gangReady o = true ∧
      (s.rack n.val).fits o = true ∧
      (s.rack n.val).gangReady q = true ∧
      (s.rack n.val).fits q = true ∧
      RackSt.effClass { s.rack n.val with cycle := (s.rack n.val).cycle + 1 } o < RackSt.effClass { s.rack n.val with cycle := (s.rack n.val).cycle + 1 } q ∧
      (s.slot n.val j).older = none :=
  ⟨slots [(0, { state := .ready, newer := some (op 1 .ready) }), (127, { state := .ready, newer := some { op 1 .ready with desc := { desc 1 with prio := 1 } } })] 0, 0, 0, 0, 127, op 1 .ready, { op 1 .ready with desc := { desc 1 with prio := 1 } },
    by decide⟩

theorem meets_operationsAreFedAndPicked_10 : ∃ (s : State) (n : Rack) (p : Nat) (c : Nat),
      s.active n.val = some p ∧
      s.holdCode n.val p ((s.rack n.val).cycle + 1) = c ∧
      c ≠ 0 :=
  ⟨{ newer_ (op 1 .ready) .ready with hkp := { live.hkp with boActive := true } }, 0, 0, State.holdCode { newer_ (op 1 .ready) .ready with hkp := { live.hkp with boActive := true } } 0 0 1,
    by decide⟩

theorem meets_operationsAreFedAndPicked_11 : ∃ (s : State) (n : Rack) (i : SlotNo) (p : Nat) (o : Op),
      s.active n.val = some p ∧
      (s.slot n.val i.val).competing = some o ∧
      o.desc.proof = false ∧
      (s.rack n.val).ageLimit ≠ 0 ∧
      (o.aged + 1) * (s.rack n.val).ageLimit.toNat ≤ (s.rack n.val).cycle - o.readyAt :=
  ⟨slots [(127, { state := .ready, newer := some (op 1 .ready) })] 0x4000, 0, 127, 0, op 1 .ready,
    by decide⟩

theorem meets_operationsIssueAndComplete_0 : ∃ (s : State) (n : Rack) (i : SlotNo) (p : Nat) (o : Op),
      s.active n.val = some p ∧
      (s.slot n.val i.val).primedOp = some o ∧
      s.holdCode n.val p (s.rack n.val).cycle = 0 ∧
      o.unordered = false :=
  ⟨newer_ (op 1 .primed) .primed, 0, 127, 0, op 1 .primed,
    by decide⟩

theorem meets_operationsIssueAndComplete_1 : ∃ (s : State) (n : Rack) (i : SlotNo) (p : Nat) (o : Op),
      s.active n.val = some p ∧
      (s.slot n.val i.val).primedOp = some o ∧
      s.holdCode n.val p (s.rack n.val).cycle = 0 ∧
      o.unordered = true :=
  ⟨older_ (fused .attnBwd 2 .primed), 0, 127, 0, fused .attnBwd 2 .primed,
    by decide⟩

theorem meets_operationsIssueAndComplete_2 : ∃ (s : State) (n : Rack) (_i : SlotNo) (p : Nat),
      s.active n.val = some p ∧
      s.holdCode n.val p (s.rack n.val).cycle ≠ 0 :=
  ⟨{ newer_ (op 0 .primed) .primed with hkp := { live.hkp with boActive := true } }, 0, 127, 0,
    by decide⟩

theorem meets_operationsIssueAndComplete_3 : ∃ (s : State) (n : Rack) (i : SlotNo) (p : Nat) (o : Op),
      s.working n.val = some p ∧
      (s.slot n.val i.val).older = some o ∧
      o.stage = .issued :=
  ⟨older_ (op 0 .issued), 0, 127, 0, op 0 .issued,
    by decide⟩

theorem meets_operationsIssueAndComplete_4 : ∃ (s : State) (r : State) (n : Rack) (i : SlotNo) (p : Nat) (o : Op) (v : List (BitVec 64)),
      s.working n.val = some p ∧
      (s.slot n.val i.val).older = some o ∧
      o.stage = .released ∧
      o.desc.proof = false ∧
      s.tileValues n.val p o = (r, .ok v) :=
  ⟨older_ (tile .released), ((older_ (tile .released)).tileValues 0 0 (tile .released)).1, 0, 127, 0, tile .released, ((older_ (tile .released)).tileValues 0 0 (tile .released)).2.toOption.getD [],
    front4 (by decide) (pair_ok _ _ (by decide))⟩

theorem meets_operationsIssueAndComplete_5 : ∃ (s : State) (r : State) (n : Rack) (i : SlotNo) (p : Nat) (o : Op) (e : BusErr),
      s.working n.val = some p ∧
      (s.slot n.val i.val).older = some o ∧
      o.stage = .released ∧
      o.desc.proof = false ∧
      s.tileValues n.val p o = (r, .error e) ∧
      e.code ≠ 0 :=
  ⟨spoiled, (spoiled.tileValues 0 0 (tile .released)).1, 0, 127, 0, tile .released, ⟨1, 0⟩,
    front4 (by decide) ⟨error_pair _ _ rfl,
    by decide⟩⟩

theorem meets_operationsIssueAndComplete_6 : ∃ (s : State) (n : Rack) (i : SlotNo) (p : Nat) (_a : Nat) (o : Op),
      s.working n.val = some p ∧
      (s.slot n.val i.val).older = some o ∧
      o.stage = .released ∧
      o.desc.proof = false :=
  ⟨older_ (tile .released), 0, 127, 0, 9, tile .released,
    by decide⟩

theorem meets_operationsIssueAndComplete_7 : ∃ (s : State) (n : Rack) (i : SlotNo) (p : Nat) (o : Op),
      s.working n.val = some p ∧
      (s.slot n.val i.val).older = some o ∧
      o.stage = .released ∧
      o.fused = none ∧
      o.desc.proof = true :=
  ⟨older_ { op 0 .released with desc := { desc 0 with proof := true } }, 0, 127, 0, { op 0 .released with desc := { desc 0 with proof := true } },
    by decide⟩

theorem meets_operationsIssueAndComplete_8 : ∃ (s : State) (a : State) (b : State) (r : State) (n : Rack) (i : SlotNo) (p : Nat) (o : Op) (l : List (OutSide × Prog)) (v : List (BitVec 64)) (q : List Nat),
      s.working n.val = some p ∧
      (s.slot n.val i.val).older = some o ∧
      o.stage = .result ∧
      (s.rack n.val).whiskTurn o = true ∧
      o.poisoned = false ∧
      o.fused = none ∧
      o.desc.proof = false ∧
      s.outProgs n.val p o o.desc.m (opRow o) (opOuts o) = (a, .ok l) ∧
      l.any (s.outHeld n.val i.val p o) = false ∧
      a.runWhisk n.val p o = (b, .ok v) ∧
      b.writeSampled n.val p i.val o o.desc.m (opRow o) (v.map (fun x => (if opWide o then fp64 else fp32).decode x.toNat)) l = (r, .ok q) :=
  ⟨older_ (tile .result), older_ (tile .result), whiskStep.1, whiskWrites.1, 0, 127, 0, tile .result, [], whiskStep.2.toOption.getD [], whiskWrites.2.toOption.getD [],
    front4 (by decide) ⟨by decide,
    by decide,
    by decide,
    rfl,
    by decide,
    pair_ok _ _ (by decide),
    pair_ok _ _ (by decide)⟩⟩

theorem meets_operationsIssueAndComplete_9 : ∃ (s : State) (a : State) (b : State) (r : State) (u : State) (n : Rack) (i : SlotNo) (p : Nat) (o : Op) (f : Fused) (g : Fused) (l : List (PassShape × List (OutSide × Prog))) (read : List (List (List Nat))) (v : List (List Sys2Proof.Machine.Num)) (q : List Nat),
      s.working n.val = some p ∧
      (s.slot n.val i.val).older = some o ∧
      o.stage = .result ∧
      (s.rack n.val).whiskTurn o = true ∧
      o.poisoned = false ∧
      o.fused = some f ∧
      o.desc.proof = false ∧
      s.passProgs n.val p o (f.shapes o) = (a, .ok l) ∧
      l.any (fun x => x.2.any (s.outHeld n.val i.val p o)) = false ∧
      a.fusedReads n.val p o f (f.reads o.desc.m) = (b, .ok read) ∧
      b.passValues n.val o f read = (r, g, v) ∧
      r.passWrites n.val p i.val o (List.zip l v) = (u, .ok q) :=
  ⟨fusing (fused .attnBwd 3 .result), (passProgs_ (fused .attnBwd 3 .result) (fusedPar0 .attnBwd 3)).1, (passReads_ (fused .attnBwd 3 .result) (fusedPar0 .attnBwd 3)).1, (passVals (fused .attnBwd 3 .result) (fusedPar0 .attnBwd 3)).1, (passWritten (fused .attnBwd 3 .result) (fusedPar0 .attnBwd 3)).1, 0, 127, 0, fused .attnBwd 3 .result, fusedPar0 .attnBwd 3, (passVals (fused .attnBwd 3 .result) (fusedPar0 .attnBwd 3)).2.1,
    (passProgs_ (fused .attnBwd 3 .result) (fusedPar0 .attnBwd 3)).2.toOption.getD [], (passReads_ (fused .attnBwd 3 .result) (fusedPar0 .attnBwd 3)).2.toOption.getD [], (passVals (fused .attnBwd 3 .result) (fusedPar0 .attnBwd 3)).2.2, (passWritten (fused .attnBwd 3 .result) (fusedPar0 .attnBwd 3)).2.toOption.getD [],
    front4 (by decide) ⟨by decide,
    by decide,
    by decide,
    pair_ok _ _ (by decide),
    by decide,
    pair_ok _ _ (by decide),
    rfl,
    pair_ok _ _ (by decide)⟩⟩

theorem meets_operationsIssueAndComplete_10 : ∃ (s : State) (a : State) (n : Rack) (i : SlotNo) (p : Nat) (o : Op) (f : Fused) (l : List (PassShape × List (OutSide × Prog))),
      s.working n.val = some p ∧
      (s.slot n.val i.val).older = some o ∧
      o.stage = .result ∧
      (s.rack n.val).whiskTurn o = true ∧
      o.poisoned = false ∧
      o.fused = some f ∧
      o.desc.proof = false ∧
      s.passProgs n.val p o (f.shapes o) = (a, .ok l) ∧
      l.any (fun x => x.2.any (s.outHeld n.val i.val p o)) = true :=
  ⟨behindWindow, writingProgs.1, 0, 127, 0, writing, fusedPar0 .attnBwd 3, writingProgs.2.toOption.getD [],
    front4 (by decide) ⟨by decide,
    by decide,
    by decide,
    pair_ok _ _ (by decide),
    by decide⟩⟩

theorem meets_operationsIssueAndComplete_11 : ∃ (s : State) (n : Rack) (i : SlotNo) (p : Nat) (o : Op),
      s.working n.val = some p ∧
      (s.slot n.val i.val).older = some o ∧
      o.stage = .result ∧
      o.desc.proof = false ∧
      (s.rack n.val).whiskTurn o = true ∧
      o.poisoned = true :=
  ⟨older_ { op 0 .result with poisoned := true }, 0, 127, 0, { op 0 .result with poisoned := true },
    by decide⟩

theorem meets_operationsIssueAndComplete_12 : ∃ (s : State) (n : Rack) (i : SlotNo) (p : Nat) (o : Op),
      s.working n.val = some p ∧
      (s.slot n.val i.val).older = some o ∧
      o.stage = .drained ∧
      o.reqs = [] ∧
      (s.rack n.val).outstanding o.order = false ∧
      o.writeErr = 0 ∧
      o.poisoned = false ∧
      o.desc.brel = false :=
  ⟨older_ (op 0 .drained), 0, 127, 0, op 0 .drained,
    by decide⟩

theorem meets_operationsIssueAndComplete_13 : ∃ (s : State) (n : Rack) (i : SlotNo) (p : Nat) (o : Op),
      s.working n.val = some p ∧
      (s.slot n.val i.val).older = some o ∧
      o.stage = .drained ∧
      o.reqs = [] ∧
      (s.rack n.val).outstanding o.order = false ∧
      o.writeErr = 0 ∧
      o.poisoned = false ∧
      o.desc.brel = true ∧
      o.desc.kind ≠ 3 :=
  ⟨older_ { op 0 .drained with desc := { desc 0 with brel := true } }, 0, 127, 0, { op 0 .drained with desc := { desc 0 with brel := true } },
    by decide⟩

theorem meets_operationsIssueAndComplete_14 : ∃ (s : State) (n : Rack) (i : SlotNo) (p : Nat) (o : Op),
      s.working n.val = some p ∧
      (s.slot n.val i.val).older = some o ∧
      o.stage = .drained ∧
      o.reqs = [] ∧
      (s.rack n.val).outstanding o.order = false ∧
      (o.writeErr ≠ 0 ∨ o.poisoned = true) :=
  ⟨older_ { op 0 .drained with writeErr := 3 }, 0, 127, 0, { op 0 .drained with writeErr := 3 },
    by decide⟩

theorem meets_operationsIssueAndComplete_15 : ∃ (s : State) (n : Rack) (i : SlotNo) (p : Nat) (o : Op),
      s.working n.val = some p ∧
      (s.slot n.val i.val).older = some o ∧
      (o.stage ≠ .drained ∨ o.reqs ≠ [] ∨ (s.rack n.val).outstanding o.order = true) :=
  ⟨older_ { op 0 .drained with reqs := [4] }, 0, 127, 0, { op 0 .drained with reqs := [4] },
    by decide⟩

theorem meets_signalsReachTheirHalf_0 : ∃ (s : State) (n : Rack) (c : Fin 64) (_k : BitVec 16) (e : Step),
      s.clearsOf n.val c.val = [] ∧
      (tget (s.rack n.val).halves {} (2 * c.val + e.toNat % 2)).tag = e :=
  ⟨live, 47, 63, 0xFFFF, 0,
    by decide⟩

theorem meets_signalsReachTheirHalf_1 : ∃ (s : State) (n : Rack) (c : Fin 64) (_k : BitVec 16) (e : Step),
      s.clearsOf n.val c.val = [] ∧
      newer e (tget (s.rack n.val).halves {} (2 * c.val + e.toNat % 2)).tag = true :=
  ⟨live, 47, 63, 1, 1,
    by decide⟩

theorem meets_signalsReachTheirHalf_2 : ∃ (s : State) (n : Rack) (c : Fin 64) (_k : BitVec 16) (e : Step),
      s.clearsOf n.val c.val = [] ∧
      (tget (s.rack n.val).halves {} (2 * c.val + e.toNat % 2)).tag ≠ e ∧
      newer e (tget (s.rack n.val).halves {} (2 * c.val + e.toNat % 2)).tag = false :=
  ⟨{ live with racks := [(47, { halves := [(127, { tag := 3 })] })] }, 47, 63, 1, 1,
    by decide⟩

theorem meets_faultsStopTasksAndPartitions_0 : ∃ (s : State) (c : Cmd) (t : State) (n : Nat) (v : Nat) (o : Op),
      Writes s c .retry t (.tskCmd n) v ∧
      (t.slot n (fieldOf v 6 0)).state = .faulted ∧
      (t.slot n (fieldOf v 6 0)).faultCode = 4 ∧
      (t.slot n (fieldOf v 6 0)).faultOp = some o ∧
      o.desc.proof = false :=
  ⟨(slots [(127, { state := .faulted, faultCode := 4, faultOp := some (op 0 .fetched) })] 0), host (wr 0x200018 0x17F), next (slots [(127, { state := .faulted, faultCode := 4, faultOp := some (op 0 .fetched) })] 0) (wr 0x200018 0x17F), 0, State.wouldBe (next (slots [(127, { state := .faulted, faultCode := 4, faultOp := some (op 0 .fetched) })] 0) (wr 0x200018 0x17F)) (.tskCmd 0) (wr 0x200018 0x17F), op 0 .fetched,
    writes_of _ _ _ _ (by decide),
    by decide⟩

theorem meets_faultsStopTasksAndPartitions_1 : ∃ (s : State) (c : Cmd) (t : State) (n : Nat) (v : Nat) (o : Op),
      Writes s c .retry t (.tskCmd n) v ∧
      (t.slot n (fieldOf v 6 0)).state = .faulted ∧
      (t.slot n (fieldOf v 6 0)).faultCode = 4 ∧
      (t.slot n (fieldOf v 6 0)).faultOp = some o ∧
      o.desc.proof = true :=
  ⟨(slots [(127, { state := .faulted, faultCode := 4, faultOp := some ({ op 0 .released with desc := { desc 0 with proof := true } }) })] 0), host (wr 0x200018 0x17F), next (slots [(127, { state := .faulted, faultCode := 4, faultOp := some ({ op 0 .released with desc := { desc 0 with proof := true } }) })] 0) (wr 0x200018 0x17F), 0, State.wouldBe (next (slots [(127, { state := .faulted, faultCode := 4, faultOp := some ({ op 0 .released with desc := { desc 0 with proof := true } }) })] 0) (wr 0x200018 0x17F)) (.tskCmd 0) (wr 0x200018 0x17F), { op 0 .released with desc := { desc 0 with proof := true } },
    writes_of _ _ _ _ (by decide),
    by decide⟩

theorem meets_faultsStopTasksAndPartitions_2 : ∃ (s : State) (c : Cmd) (t : State) (n : Nat) (v : Nat),
      Writes s c .retry t (.tskCmd n) v ∧
      ((t.slot n (fieldOf v 6 0)).state ≠ .faulted ∨ (t.slot n (fieldOf v 6 0)).faultCode ≠ 4) :=
  ⟨live, host (wr 0x202F18 0x17F), next live (wr 0x202F18 0x17F), 47, State.wouldBe (next live (wr 0x202F18 0x17F)) (.tskCmd 47) (wr 0x202F18 0x17F),
    writes_of _ _ _ _ (by decide),
    by decide⟩

theorem meets_faultsStopTasksAndPartitions_3 : ∃ (s : State) (p : Part) (d : Slice),
      (s.part p.val).state = .run ∧
      s.slice p.val = some d ∧
      d.part.watchdog ≠ 0 ∧
      s.fullCommit = false :=
  ⟨{ held stepping with rcp := { slices := [(0, { slice0 with part := { partRec with watchdog := 5 } })] } }, 0, { slice0 with part := { partRec with watchdog := 5 } },
    by decide⟩

theorem meets_faultsStopTasksAndPartitions_4 : ∃ (s : State) (p : Part),
      (s.part p.val).state ≠ .run :=
  ⟨held { state := .halted }, 0,
    by decide⟩

theorem meets_faultsStopTasksAndPartitions_5 : ∃ (s : State) (p : Part) (k : FaultCause) (n : Island),
      ((s.part p.val).state = .run ∨ (s.part p.val).state = .halted ∨ (s.part p.val).state = .ready) ∧
      s.fullCommit = false ∧
      (((k = .island ∨ k = .engine ∨ k = .stateUe) ∧ n.val ∈ s.racksOf p.val) ∨ (k = .tray ∧ s.trayFails p.val = true)) :=
  ⟨held { state := .ready }, 0, .engine, 0,
    by decide⟩

theorem meets_faultsStopTasksAndPartitions_5t : ∃ (s : State) (p : Part) (k : FaultCause),
      (s.part p.val).state = .run ∧
      k = .tray ∧
      s.trayFails p.val = true :=
  ⟨{ held { state := .run } with racks := [(0, { failed := 8, exclude := 4 })] }, 0, .tray,
    by decide⟩

theorem meets_faultsStopTasksAndPartitions_6 : ∃ (s : State) (p : Part) (n : Island),
      ((s.part p.val).state = .run ∨ (s.part p.val).state = .halted ∨ (s.part p.val).state = .ready) ∧
      (∀ q, (s.part q).state ≠ .loading) ∧
      s.fullCommit = false ∧
      48 ≤ n.val ∧
      p.val ∈ s.dependents n.val :=
  ⟨held { state := .ready }, 0, 48,
    by decide,
    by intro q; match q with | 0 => decide | n + 1 => exact (by decide : PState.empty ≠ .loading),
    by decide⟩

theorem meets_faultsStopTasksAndPartitions_7 : ∃ (s : State) (p : Part) (n : Island),
      (p.val ∉ s.dependents n.val ∨ n.val < 48) :=
  ⟨held { state := .ready }, 0, 75,
    by decide⟩

theorem meets_faultsStopTasksAndPartitions_8 : ∃ (s : State) (p : Part) (k : FaultCause) (n : Island),
      (k = .island ∨ k = .engine ∨ k = .stateUe) ∧
      n.val ∉ s.racksOf p.val :=
  ⟨held { state := .ready }, 0, .island, 5,
    by decide⟩

theorem meets_faultsStopTasksAndPartitions_9 : ∃ (s : State) (p : Part) (_n : Island),
      s.trayFails p.val = false :=
  ⟨held { state := .ready }, 0, 79,
    by decide⟩

theorem meets_faultsStopTasksAndPartitions_10 : ∃ (s : State) (p : Part) (_n : Island),
      (s.part p.val).state ≠ .run :=
  ⟨held { state := .ready }, 7, 79,
    by decide⟩

theorem meets_faultsStopTasksAndPartitions_12 : ∃ (s : State) (p : Part) (k : FaultCause) (_n : Island),
      (s.part p.val).state = .faulted ∧
      k ≠ .shared :=
  ⟨held { state := .faulted }, 0, .host, 79,
    by decide⟩

theorem meets_statisticsJoinTheirRecord_0 : ∃ (s : State) (n : Rack) (i : SlotNo) (p : Nat) (slot : Nat) (index : Nat) (a : Nat) (o : Op) (x : ProofSlot) (c : ProofCopy) (v : BitVec 64 × BitVec 64),
      s.working n.val = some p ∧
      (s.slot n.val i.val).older = some o ∧
      o.stage = .result ∧
      o.probe = some (slot, index) ∧
      (s.rack n.val).proofs.find? (fun y => y.slot == slot) = some x ∧
      x.copies.find? (fun y => y.index == index) = some c ∧
      s.prove n.val p x c o.g = (s, .ok v) ∧
      s.proofWindow p x.step = some (x.step, false) ∧
      s.statAddr p index (x.step.toNat % 2) = some a ∧
      tfind (s.rack n.val).sieve (lineKey index x.step) = none ∧
      (s.rack n.val).sieve.length < 512 :=
  ⟨proving (rackBase + 0x100) [], 0, 127, 0, 0, 9, 0x200080, proof0, slotOf0 (rackBase + 0x100), copy0 (rackBase + 0x100), (State.prove (proving (rackBase + 0x100) []) 0 0 (slotOf0 (rackBase + 0x100)) (copy0 (rackBase + 0x100)) 1).2.toOption.getD (0, 0),
    front4 (by decide) ⟨by decide,
    by decide,
    pair_ok_of _ _ _ rfl (by decide),
    by decide⟩⟩

theorem meets_statisticsJoinTheirRecord_1 : ∃ (s : State) (n : Rack) (i : SlotNo) (p : Nat) (slot : Nat) (index : Nat) (a : Nat) (o : Op) (x : ProofSlot) (c : ProofCopy) (v : BitVec 64 × BitVec 64) (w : Step) (late : Bool) (r : StatRec),
      s.working n.val = some p ∧
      (s.slot n.val i.val).older = some o ∧
      o.stage = .result ∧
      o.probe = some (slot, index) ∧
      (s.rack n.val).proofs.find? (fun y => y.slot == slot) = some x ∧
      x.copies.find? (fun y => y.index == index) = some c ∧
      s.prove n.val p x c o.g = (s, .ok v) ∧
      s.proofWindow p x.step = some (w, late) ∧
      s.statAddr p index (w.toNat % 2) = some a ∧
      tfind (s.rack n.val).sieve (lineKey index w) = some r ∧
      r.step = w ∧
      r.hasData = true :=
  ⟨proving (rackBase + 0x100) [(19, { step := 1, hasData := true, pcount := 65535 })], 0, 127, 0, 0, 9, 0x200080, proof0, slotOf0 (rackBase + 0x100), copy0 (rackBase + 0x100), (State.prove (proving (rackBase + 0x100) [(19, { step := 1, hasData := true, pcount := 65535 })]) 0 0 (slotOf0 (rackBase + 0x100)) (copy0 (rackBase + 0x100)) 1).2.toOption.getD (0, 0), 1, false, { step := 1, hasData := true, pcount := 65535 },
    front4 (by decide) ⟨by decide,
    by decide,
    pair_ok_of _ _ _ rfl (by decide),
    by decide⟩⟩

theorem meets_statisticsJoinTheirRecord_2 : ∃ (s : State) (n : Rack) (i : SlotNo) (p : Nat) (slot : Nat) (index : Nat) (o : Op) (x : ProofSlot) (c : ProofCopy) (v : BitVec 64 × BitVec 64),
      s.working n.val = some p ∧
      (s.slot n.val i.val).older = some o ∧
      o.stage = .result ∧
      o.probe = some (slot, index) ∧
      (s.rack n.val).proofs.find? (fun y => y.slot == slot) = some x ∧
      x.copies.find? (fun y => y.index == index) = some c ∧
      s.prove n.val p x c o.g = (s, .ok v) ∧
      s.proofWindow p x.step = none :=
  ⟨{ proving (rackBase + 0x100) [] with gov := { closed := [(0, 1)] } }, 0, 127, 0, 0, 9, proof0, slotOf0 (rackBase + 0x100), copy0 (rackBase + 0x100), (State.prove ({ proving (rackBase + 0x100) [] with gov := { closed := [(0, 1)] } }) 0 0 (slotOf0 (rackBase + 0x100)) (copy0 (rackBase + 0x100)) 1).2.toOption.getD (0, 0),
    front4 (by decide) ⟨by decide,
    by decide,
    pair_ok_of _ _ _ rfl (by decide),
    by decide⟩⟩

theorem meets_statisticsJoinTheirRecord_3 : ∃ (s : State) (n : Rack) (i : SlotNo) (p : Nat) (slot : Nat) (index : Nat) (o : Op) (x : ProofSlot) (c : ProofCopy) (e : BusErr),
      s.working n.val = some p ∧
      (s.slot n.val i.val).older = some o ∧
      o.stage = .result ∧
      o.probe = some (slot, index) ∧
      (s.rack n.val).proofs.find? (fun y => y.slot == slot) = some x ∧
      x.copies.find? (fun y => y.index == index) = some c ∧
      s.prove n.val p x c o.g = (s, .error e) :=
  ⟨proving (2 ^ 47) [], 0, 127, 0, 0, 9, proof0, slotOf0 (2 ^ 47), copy0 (2 ^ 47), { code := eUnmapped },
    front4 (by decide) ⟨by decide,
    by decide,
    rfl⟩⟩

theorem meets_statisticsJoinTheirRecord_4 : ∃ (s : State) (n : Rack) (p : Nat) (index : Nat) (a : Nat) (odd : Bool) (l : StatRec),
      s.isOn n.val = true ∧
      s.partOf n.val = some p ∧
      tfind (s.rack n.val).sieve (2 * index + (if odd then 1 else 0)) = some l ∧
      s.statAddr p index (l.step.toNat % 2) = some a ∧
      a + 128 ≤ hbmTop ∧
      s.accessErr (.agent .mergeUnit 0 p) false a 128 = none ∧
      s.accessErr (.agent .mergeUnit 0 p) true a 128 = none :=
  ⟨proving (rackBase + 0x100) [(19, { step := 1, hasData := true, pcount := 65535 })], 0, 0, 9, 0x200080, true, { step := 1, hasData := true, pcount := 65535 },
    by decide⟩

theorem meets_statisticsJoinTheirRecord_5 : ∃ (s : State) (n : Rack) (index : Nat) (odd : Bool),
      tfind (s.rack n.val).sieve (2 * index + (if odd then 1 else 0)) = none :=
  ⟨live, 47, 0x1FFFF, true,
    by decide⟩

theorem meets_votesAreCombined_0 : ∃ (s : State) (p : Part) (n : Step) (l : List Step) (c : Slice),
      s.openWindows p.val = n :: l ∧
      s.isOn 78 = true ∧
      s.stepDone p.val n = true ∧
      s.conversionsDone p.val n = true ∧
      s.slice p.val = some c ∧
      c.groups = [] :=
  ⟨steering [] { sealWords := [(0, 1, 0)] }, 0, 1, [], grouped [],
    by decide⟩

theorem meets_votesAreCombined_1 : ∃ (s : State) (p : Part) (n : Step) (l : List Step) (c : Slice) (g : GroupRec) (up : Nat),
      s.openWindows p.val = n :: l ∧
      s.isOn 78 = true ∧
      s.stepDone p.val n = true ∧
      s.conversionsDone p.val n = true ∧
      s.slice p.val = some c ∧
      c.groups = [g] ∧
      s.steerRoute c g = (some up, []) ∧
      s.vote g.group.val n = { group := g.group.val, step := n } :=
  ⟨steering [group] {}, 0, 1, [], grouped [group], group, 3,
    by decide⟩

theorem meets_votesAreCombined_2 : ∃ (s : State) (p : Part) (n : Step) (l : List Step),
      s.openWindows p.val = n :: l ∧
      (s.isOn 78 = false ∨ s.stepDone p.val n = false ∨ s.conversionsDone p.val n = false) :=
  ⟨{ steering [] {} with isl := [] }, 0, 1, [],
    by decide⟩

theorem meets_votesAreCombined_3 : ∃ (s : State) (k : Packet) (tag : BitVec 32) (w : List (BitVec 64)) (m : Bool) (p : Nat) (r : Nat) (c : Slice) (g : GroupRec),
      s.takes k = true ∧
      k.body = .votes tag w m ∧
      s.steerBucket k.bucket = some (p, c, g) ∧
      newer k.step (s.part p).lastSeal = true ∧
      (s.vote g.group.val k.step).forwarded = false ∧
      r ∈ s.lnk.rank.toNat :: (s.steerRoute c g).2 ∧
      r ≠ k.src.toNat ∧
      (∀ a ∈ (s.vote g.group.val k.step).words, a.1 ≠ r) :=
  ⟨given (steering [group] {}) { word (.votes 0 [] false) with bucket := 77 }, { word (.votes 0 [] false) with bucket := 77 }, 0, [], false, 0, 0, grouped [group], group,
    given_takes _ _,
    by decide⟩

theorem meets_votesAreCombined_4 : ∃ (s : State) (k : Packet) (tag : BitVec 32) (w : List (BitVec 64)) (m : Bool) (p : Nat) (up : Nat) (c : Slice) (g : GroupRec),
      s.takes k = true ∧
      k.body = .votes tag w m ∧
      s.steerBucket k.bucket = some (p, c, g) ∧
      newer k.step (s.part p).lastSeal = true ∧
      (s.vote g.group.val k.step).forwarded = false ∧
      (s.steerRoute c g).1 = some up ∧
      (∀ r ∈ s.lnk.rank.toNat :: (s.steerRoute c g).2, r = k.src.toNat ∨ ∃ a ∈ (s.vote g.group.val k.step).words, a.1 = r) :=
  ⟨given ({ steering [group] {} with gov := { votes := [{ group := 2, step := 1, words := [(0, 0, [], false)] }] } }) { word (.votes 0 [] false) with bucket := 77 }, { word (.votes 0 [] false) with bucket := 77 }, 0, [], false, 0, 3, grouped [group], group,
    given_takes _ _,
    by decide⟩

theorem meets_votesAreCombined_5 : ∃ (s : State) (k : Packet) (w : List (BitVec 64)) (m : Bool) (p : Nat) (up : Nat) (c : Slice) (g : GroupRec),
      s.takes k = true ∧
      k.body = .combined w m ∧
      s.steerBucket k.bucket = some (p, c, g) ∧
      newer k.step (s.part p).lastSeal = true ∧
      (s.vote g.group.val k.step).result = none ∧
      (s.vote g.group.val k.step).adoptedBy = [] ∧
      (s.vote g.group.val k.step).acked = false ∧
      s.steerRoute c g = (some up, []) :=
  ⟨given (steering [group] {}) { word (.combined [] false) with bucket := 77 }, { word (.combined [] false) with bucket := 77 }, [], false, 0, 3, grouped [group], group,
    given_takes _ _,
    by decide⟩

theorem meets_votesAreCombined_6 : ∃ (s : State) (k : Packet),
      s.takes k = false :=
  ⟨live, word .sealReady,
    by decide⟩

theorem meets_stepsAreSealed_0 : ∃ (s : State) (c : Cmd) (t : State) (p : Nat) (v : Nat),
      Writes s c .inready t (.trnInready p) v ∧
      (t.part p).inready.toNat ≤ v % 2 ^ 32 :=
  ⟨(held { inready := 5 }), host (wr 0x700000 5), next (held { inready := 5 }) (wr 0x700000 5), 0, State.wouldBe (next (held { inready := 5 }) (wr 0x700000 5)) (.trnInready 0) (wr 0x700000 5),
    writes_of _ _ _ _ (by decide),
    by decide⟩

theorem meets_stepsAreSealed_1 : ∃ (s : State) (c : Cmd) (t : State) (p : Nat) (v : Nat),
      Writes s c .inready t (.trnInready p) v ∧
      v % 2 ^ 32 < (t.part p).inready.toNat :=
  ⟨(held { inready := 5 }), host (wr 0x700000 4), next (held { inready := 5 }) (wr 0x700000 4), 0, State.wouldBe (next (held { inready := 5 }) (wr 0x700000 4)) (.trnInready 0) (wr 0x700000 4),
    writes_of _ _ _ _ (by decide),
    by decide⟩

theorem meets_stepsAreSealed_2 : ∃ (s : State) (k : Packet),
      s.takes k = true ∧
      k.body = .sealReady ∧
      newer k.step (s.part k.part.val).lastSeal = true ∧
      k.src.toNat ∈ s.sealChildren k.part.val ∧
      s.sealHeard k.part.val k.step k.src.toNat = false ∧
      (k.step ≠ (s.part k.part.val).lastSeal + 1 → s.sealable k.part.val = false) ∧
      (k.step = (s.part k.part.val).lastSeal + 1 → s.stepDone k.part.val k.step = false) :=
  ⟨given (sealed [0, 3] 0 {} {}) { word .sealReady with step := 2 }, { word .sealReady with step := 2 },
    given_takes _ _,
    by decide,
    by decide,
    child_two _ 0 0 3 rfl (by decide) rfl,
    by decide⟩

theorem meets_stepsAreSealed_4 : ∃ (s : State) (k : Packet),
      s.takes k = true ∧
      k.body = .seal ∧
      k.step = (s.part k.part.val).lastSeal + 1 ∧
      ((s.part k.part.val).state = .run ∨ (s.part k.part.val).state = .halted) ∧
      s.sealParent k.part.val s.lnk.rank.toNat = some k.src.toNat :=
  ⟨given (sealed [0, 3] 3 stepping {}) (word .seal), word .seal,
    given_takes _ _,
    by decide,
    by decide,
    by decide,
    (parent_two _ 0 3 0 rfl (by decide)).1⟩

theorem meets_stepsAreSealed_5 : ∃ (s : State) (k : Packet),
      s.takes k = true ∧
      k.body = .seal ∧
      (k.step ≠ (s.part k.part.val).lastSeal + 1 ∨ s.sealParent k.part.val s.lnk.rank.toNat ≠ some k.src.toNat) :=
  ⟨given (live) { word .seal with step := 5 }, { word .seal with step := 5 },
    given_takes _ _,
    by decide⟩

theorem meets_stepsAreSealed_6 : ∃ (s : State) (k : Packet),
      s.takes k = false :=
  ⟨live, word .seal,
    by decide⟩

theorem meets_stepsAreSealed_7 : ∃ (s : State),
      (∀ p < 8, s.sealable p = false) :=
  ⟨live,
    by decide⟩

theorem meets_rollbackReopensTheStep_0 : ∃ (s : State) (k : Packet) (e : BitVec 16),
      s.takes k = true ∧
      k.body = .rollback e ∧
      e = (s.recov k.part.val).repoch ∧
      s.dev.fenced = false ∧
      (s.recov k.part.val).rolled ≠ some (e, k.step) ∧
      k.step = (s.part k.part.val).lastSeal + 1 ∧
      ((s.part k.part.val).state = .run ∨ (s.part k.part.val).state = .halted ∨ (s.part k.part.val).state = .ready) ∧
      (s.part k.part.val).everOpen = true ∧
      (s.recov k.part.val).migration = none :=
  ⟨given (running { everOpen := true, openReg := 1, nextOpen := 2 }) (word (.rollback 0)), word (.rollback 0), 0,
    given_takes _ _,
    by decide⟩

theorem meets_rollbackReopensTheStep_1 : ∃ (s : State) (k : Packet) (e : BitVec 16),
      s.takes k = true ∧
      k.body = .rollback e ∧
      e = (s.recov k.part.val).repoch ∧
      s.dev.fenced = false ∧
      (s.recov k.part.val).rolled ≠ some (e, k.step) ∧
      k.step = (s.part k.part.val).lastSeal + 1 ∧
      ((s.part k.part.val).state = .run ∨ (s.part k.part.val).state = .halted ∨ (s.part k.part.val).state = .ready) ∧
      (s.part k.part.val).everOpen = false ∧
      (s.recov k.part.val).migration = none :=
  ⟨given (running {}) (word (.rollback 0)), word (.rollback 0), 0,
    given_takes _ _,
    by decide⟩

theorem meets_rollbackReopensTheStep_2 : ∃ (s : State) (k : Packet) (e : BitVec 16),
      s.takes k = true ∧
      k.body = .rollback e ∧
      e = (s.recov k.part.val).repoch ∧
      s.dev.fenced = false ∧
      newer k.step (s.part k.part.val).lastSeal = false ∧
      s.isOn 78 = true ∧
      s.qrs.evBuf.length < evBufMax :=
  ⟨given (running { lastSeal := 1 }) (word (.rollback 0)), word (.rollback 0), 0,
    given_takes _ _,
    by decide⟩

theorem meets_rollbackReopensTheStep_3 : ∃ (s : State) (k : Packet) (e : BitVec 16),
      s.takes k = true ∧
      k.body = .rollback e ∧
      (e ≠ (s.recov k.part.val).repoch ∨ ((s.recov k.part.val).rolled = some (e, k.step) ∧ newer k.step (s.part k.part.val).lastSeal = true)) :=
  ⟨given live (word (.rollback 1)), word (.rollback 1), 1,
    given_takes _ _,
    by decide⟩

theorem meets_rollbackReopensTheStep_4 : ∃ (s : State) (k : Packet),
      s.takes k = false :=
  ⟨live, word (.rollback 1),
    by decide⟩

theorem meets_scalesAreAgreedAndBucketsReleased_0 : ∃ (s : State) (bid : BitVec 20) (n : Step) (c : KndCtx),
      s.openCtx bid n = some c ∧
      s.mayAdmit c n = true ∧
      s.childWords c 1 n = none :=
  ⟨kneading root [] (one { bkt1 with complete := true }), 9, 1, root,
    by decide⟩

theorem meets_scalesAreAgreedAndBucketsReleased_1 : ∃ (s : State) (bid : BitVec 20) (n : Step) (c : KndCtx),
      s.openCtx bid n = some c ∧
      s.mayAdmit c n = false :=
  ⟨kneading root [] {}, 9, 1, root,
    by decide⟩

theorem meets_scalesAreAgreedAndBucketsReleased_2 : ∃ (s : State) (bid : BitVec 20) (n : Step) (c : KndCtx),
      s.openCtx bid n = some c ∧
      s.mayAdmit c n = true ∧
      childPorts (routeOf c.r 0) = [] ∧
      s.isOwner c = false ∧
      (s.bkt bid n).amaxSent = false :=
  ⟨kneading leaf [] (one { bkt1 with complete := true }), 9, 1, leaf,
    by decide⟩

theorem meets_scalesAreAgreedAndBucketsReleased_3 : ∃ (s : State) (k : Packet) (a : BitVec 32) (b : BitVec 64) (m : Nat) (c : KndCtx),
      s.takes k = true ∧
      k.body = .amax a b m ∧
      s.openCtx k.bucket k.step = some c ∧
      s.kneads c = true ∧
      (s.keepChild k).childWords c 1 k.step = none :=
  ⟨given (kneading root2 [] {}) (word (.amax 0x3F800000 0x3FF0000000000000 1)), word (.amax 0x3F800000 0x3FF0000000000000 1), 0x3F800000, 0x3FF0000000000000, 1, root2,
    given_takes _ _,
    by decide⟩

theorem meets_scalesAreAgreedAndBucketsReleased_4 : ∃ (s : State) (k : Packet) (a : BitVec 32) (b : BitVec 64) (m : Nat) (c : KndCtx) (l : List Body),
      s.takes k = true ∧
      k.body = .amax a b m ∧
      s.openCtx k.bucket k.step = some c ∧
      s.kneads c = true ∧
      s.isOwner c = false ∧
      (s.keepChild k).childWords c 1 k.step = some l ∧
      (s.bkt k.bucket k.step).admitted = true ∧
      (s.bkt k.bucket k.step).amaxSent = false :=
  ⟨given (kneading middle [] (one admittedBkt)) (word (.amax 0x3F800000 0x3FF0000000000000 1)), word (.amax 0x3F800000 0x3FF0000000000000 1), 0x3F800000, 0x3FF0000000000000, 1, middle, [.amax 0x3F800000 0x3FF0000000000000 1],
    given_takes _ _,
    by decide⟩

theorem meets_scalesAreAgreedAndBucketsReleased_5 : ∃ (s : State) (k : Packet) (a : BitVec 32) (b : BitVec 64) (m : Nat) (c : KndCtx) (l : List Body) (o : OwnerRec),
      s.takes k = true ∧
      k.body = .amax a b m ∧
      s.openCtx k.bucket k.step = some c ∧
      s.kneads c = true ∧
      s.isOwner c = true ∧
      s.ownerRec c.p c.b.bid = some o ∧
      (s.keepChild k).childWords c 1 k.step = some l ∧
      (s.bkt k.bucket k.step).admitted = true ∧
      (s.bkt k.bucket k.step).amaxSent = false :=
  ⟨given (kneading root [] (one admittedBkt)) (word (.amax 0x3F800000 0x3FF0000000000000 1)), word (.amax 0x3F800000 0x3FF0000000000000 1), 0x3F800000, 0x3FF0000000000000, 1, root, [.amax 0x3F800000 0x3FF0000000000000 1], owned,
    given_takes _ _,
    by decide⟩

set_option Elab.async false in
theorem meets_scalesAreAgreedAndBucketsReleased_6 : ∃ (s : State) (k : Packet) (a : Nat) (sc : Int) (b : Bool) (c : KndCtx) (u : State) (r : State) (codes : List (BitVec 16)),
      s.takes k = true ∧
      k.body = .scale a sc b ∧
      s.openCtx k.bucket k.step = some c ∧
      s.kneads c = true ∧
      s.isOwner c = false ∧
      childPorts (routeOf c.r 0) = [] ∧
      (s.bkt k.bucket k.step).admitted = true ∧
      (s.bkt k.bucket k.step).committed = false ∧
      (s.bkt k.bucket k.step).attempt = a ∧
      (s.bkt k.bucket k.step).released = false ∧
      u = State.modBkt { s with inbox := s.inbox.erase k } k.bucket k.step (fun y => { y with s := sc, bound := b }) ∧
      u.convertG16 c k.step sc = (r, some codes) ∧
      (∀ j < c.b.nseg, ∀ port, r.accessErr (.agent .receiveGen port c.p) false (c.b.gret + 4096 * j) 4096 = none) :=
  ⟨heard (.scale 0 (-3) false), word (.scale 0 (-3) false), 0, -3, false, leaf, scaled, (scaled.convertG16 leaf 1 (-3)).1, (scaled.convertG16 leaf 1 (-3)).2.getD [],
    front4 (by decide) (front4 (by decide) ⟨by decide,
    by decide,
    rfl,
    pair_some _ _ (by decide +kernel),
    fun j hj port => by
      obtain rfl : j = 0 := by have : j < 1 := hj; omega
      rw [accessErr_port]
      decide +kernel⟩)⟩

set_option Elab.async false in
theorem meets_scalesAreAgreedAndBucketsReleased_7 : ∃ (s : State) (k : Packet) (a : Nat) (sc : Int) (b : Bool) (c : KndCtx) (u : State) (r : State) (codes : List (BitVec 16)),
      s.takes k = true ∧
      k.body = .replay a sc b ∧
      s.openCtx k.bucket k.step = some c ∧
      s.kneads c = true ∧
      s.isOwner c = false ∧
      childPorts (routeOf c.r 0) = [] ∧
      (s.bkt k.bucket k.step).admitted = true ∧
      (s.bkt k.bucket k.step).committed = false ∧
      (s.bkt k.bucket k.step).attempt < a ∧
      (s.bkt k.bucket k.step).relAttempt ≠ a ∧
      u = (State.raiseAttempt { s with inbox := s.inbox.erase k } c k.step a).modBkt k.bucket k.step (fun y => { y with s := sc, bound := b }) ∧
      u.convertG16 c k.step sc = (r, some codes) ∧
      (∀ j < c.b.nseg, ∀ port, r.accessErr (.agent .receiveGen port c.p) false (c.b.gret + 4096 * j) 4096 = none) :=
  ⟨heard (.replay 2 (-3) false), word (.replay 2 (-3) false), 2, -3, false, leaf, rescaled, (rescaled.convertG16 leaf 1 (-3)).1, (rescaled.convertG16 leaf 1 (-3)).2.getD [],
    front4 (by decide) (front4 (by decide) ⟨by decide,
    by decide,
    rfl,
    pair_some _ _ (by decide +kernel),
    fun j hj port => by
      obtain rfl : j = 0 := by have : j < 1 := hj; omega
      rw [accessErr_port]
      decide +kernel⟩)⟩

theorem meets_scalesAreAgreedAndBucketsReleased_8 : ∃ (s : State) (k : Packet) (a : Nat) (_sc : Int) (_b : Bool) (c : KndCtx),
      s.takes k = true ∧
      s.openCtx k.bucket k.step = some c ∧
      s.kneads c = true ∧
      (s.bkt k.bucket k.step).released = true ∧
      (s.bkt k.bucket k.step).relAttempt = a :=
  ⟨given (kneading leaf [] (one { admittedBkt with released := true, relAttempt := 2 })) (word (.replay 2 (-3) false)), word (.replay 2 (-3) false), 2, -3, false, leaf,
    given_takes _ _,
    by decide⟩

theorem meets_scalesAreAgreedAndBucketsReleased_9 : ∃ (s : State) (k : Packet) (a : Nat) (_sc : Int) (_b : Bool) (c : KndCtx),
      s.takes k = true ∧
      s.openCtx k.bucket k.step = some c ∧
      s.kneads c = true ∧
      s.isOwner c = false ∧
      (s.bkt k.bucket k.step).admitted = true ∧
      (s.bkt k.bucket k.step).committed = false ∧
      a < (s.bkt k.bucket k.step).attempt ∧
      ((s.bkt k.bucket k.step).released = false ∨ (s.bkt k.bucket k.step).relAttempt ≠ a) :=
  ⟨given (kneading leaf [] (one { admittedBkt with attempt := 3 })) (word (.replay 2 (-3) false)), word (.replay 2 (-3) false), 2, -3, false, leaf,
    given_takes _ _,
    by decide⟩

theorem meets_scalesAreAgreedAndBucketsReleased_10 : ∃ (s : State) (k : Packet),
      s.takes k = false :=
  ⟨live, word (.amax 0x3F800000 0x3FF0000000000000 1),
    by decide⟩

theorem meets_segmentsAreSummed_0 : ∃ (s : State) (k : Packet) (seg : Nat) (a : Nat) (route : Nat) (port : Nat) (codes : List (BitVec 16)) (c : KndCtx),
      s.takes k = true ∧
      k.body = .gseg seg a route codes ∧
      s.kndCtx k.bucket = some c ∧
      childPort c route k.src = some port ∧
      s.stepGone c.p k.step = false ∧
      s.kneads c = true ∧
      s.isOwner c = false ∧
      (s.bkt k.bucket k.step).attempt = a ∧
      (s.bkt k.bucket k.step).released = false ∧
      (s.bkt k.bucket k.step).verified.contains seg = false ∧
      (s.addSlot k.bucket k.step seg a).done = none ∧
      s.slotsUsed k.bucket k.step port < 4 :=
  ⟨given (kneading middle [] (one admittedBkt)) (word (.gseg 0 0 0 segment)), word (.gseg 0 0 0 segment), 0, 0, 0, 2, segment, middle,
    given_takes _ _,
    rfl,
    by decide⟩

theorem meets_segmentsAreSummed_1 : ∃ (s : State) (k : Packet) (seg : Nat) (a : Nat) (route : Nat) (port : Nat) (codes : List (BitVec 16)) (c : KndCtx),
      s.takes k = true ∧
      k.body = .gseg seg a route codes ∧
      s.kndCtx k.bucket = some c ∧
      childPort c route k.src = some port ∧
      s.stepGone c.p k.step = false ∧
      s.kneads c = true ∧
      s.isOwner c = false ∧
      (s.bkt k.bucket k.step).attempt < a ∧
      (s.bkt k.bucket k.step).relAttempt ≠ a ∧
      (s.addSlot k.bucket k.step seg a).done = none :=
  ⟨given (kneading middle [] (one admittedBkt)) (word (.gseg 0 7 0 segment)), word (.gseg 0 7 0 segment), 0, 7, 0, 2, segment, middle,
    given_takes _ _,
    rfl,
    by decide⟩

theorem meets_segmentsAreSummed_2 : ∃ (s : State) (k : Packet) (seg : Nat) (a : Nat) (route : Nat) (port : Nat) (codes : List (BitVec 16)) (c : KndCtx),
      k.body = .gseg seg a route codes ∧
      s.kndCtx k.bucket = some c ∧
      childPort c route k.src = some port ∧
      s.stepGone c.p k.step = false ∧
      (s.bkt k.bucket k.step).attempt = a ∧
      (s.bkt k.bucket k.step).verified.contains seg = false ∧
      4 ≤ s.slotsUsed k.bucket k.step port :=
  ⟨given (kneading middle [] ({ one admittedBkt with adders := (List.range 4).map (fun i => { bid := 9, step := 1, seg := i + 1, arrived := [(2, [])] }) })) (word (.gseg 0 0 0 segment)), word (.gseg 0 0 0 segment), 0, 0, 0, 2, segment, middle,
    rfl,
    by decide⟩

theorem meets_segmentsAreSummed_3 : ∃ (s : State) (k : Packet) (seg : Nat) (a : Nat) (route : Nat) (port : Nat) (codes : List (BitVec 16)) (c : KndCtx),
      s.takes k = true ∧
      k.body = .gseg seg a route codes ∧
      s.kndCtx k.bucket = some c ∧
      childPort c route k.src = some port ∧
      (s.stepGone c.p k.step = true ∨ a < (s.bkt k.bucket k.step).attempt) :=
  ⟨given (kneading root [] (one { admittedBkt with attempt := 1 })) (word (.gseg 0 0 0 segment)), word (.gseg 0 0 0 segment), 0, 0, 0, 2, segment, root,
    given_takes _ _,
    rfl,
    by decide⟩

theorem meets_segmentsAreSummed_4 : ∃ (s : State) (k : Packet) (seg : Nat) (a : Nat) (route : Nat) (port : Nat) (rank : Nat) (codes : List (BitVec 16)) (c : KndCtx) (b : List Byte) (z : List (BitVec 16) × Bool),
      s.takes k = true ∧
      k.body = .gseg seg a route codes ∧
      s.kndCtx k.bucket = some c ∧
      childPort c route k.src = some port ∧
      childPorts (routeOf c.r seg) = [(port, rank)] ∧
      s.stepGone c.p k.step = false ∧
      s.kneads c = true ∧
      s.isOwner c = true ∧
      (s.bkt k.bucket k.step).attempt = a ∧
      (s.bkt k.bucket k.step).released = true ∧
      (s.bkt k.bucket k.step).relAttempt = a ∧
      (s.bkt k.bucket k.step).verified.contains seg = false ∧
      seg < c.b.nseg ∧
      (s.bkt k.bucket k.step).verified.length < c.b.nseg ∧
      s.slotsUsed k.bucket k.step port < 4 ∧
      (s.addSlot k.bucket k.step seg a).done = none ∧
      tfind (s.addSlot k.bucket k.step seg a).csums port = none ∧
      s.read (.agent .receiveGen (((routeOf c.r seg).parent).getD 0) c.p) (c.b.gret + 4096 * seg) 4096 = (s, .ok b) ∧
      z = segAdd (segCodes b) codes :=
  ⟨given (kneading root [] (one summingBkt)) (word (.gseg 0 0 0 segment)), word (.gseg 0 0 0 segment), 0, 0, 0, 2, 3, segment, root, (State.readBytes (given (kneading root [] (one summingBkt)) (word (.gseg 0 0 0 segment))) (root.b.gret + 4096 * 0) 4096), segAdd (segCodes (State.readBytes (given (kneading root [] (one summingBkt)) (word (.gseg 0 0 0 segment))) (root.b.gret + 4096 * 0) 4096)) segment,
    given_takes _ _,
    rfl,
    front4 (by decide) (front4 (by decide) (front4 (by decide) ⟨by decide,
    by decide,
    by decide,
    read_ok _ _ _ _ (by decide),
    rfl⟩))⟩

theorem meets_sumsAreCheckedAndReplayed_0 : ∃ (s : State) (k : Packet) (seg : Nat) (a : Nat) (port : Nat) (rank : Nat) (x : Nat) (sum : BitVec 32) (v : Bool) (c : KndCtx) (b : Bkt) (o : OwnerRec) (e : List Byte) (g : List Byte),
      s.takes k = true ∧
      k.body = .csum seg a sum v ∧
      s.kndCtx k.bucket = some c ∧
      b = s.bkt k.bucket k.step ∧
      childPorts (routeOf c.r seg) = [(port, rank)] ∧
      rank = k.src.toNat ∧
      s.stepGone c.p k.step = false ∧
      s.kneads c = true ∧
      s.isOwner c = true ∧
      b.attempt = a ∧
      b.released = true ∧
      b.relAttempt = a ∧
      b.verified.contains seg = false ∧
      seg < c.b.nseg ∧
      c.b.nseg ≤ b.verified.length + 1 ∧
      b.own = .summing ∧
      (s.addSlot k.bucket k.step seg a).done = some false ∧
      v = false ∧
      checksum (tget b.sums [] seg) = b.checks.getD seg 0 + sum ∧
      s.ownerRec c.p k.bucket = some o ∧
      s.schedAddr c.p o k.step = some x ∧
      s.read (engWho c.p o) x 64 = (s, .ok e) ∧
      s.read (engWho c.p o) o.const 64 = (s, .ok g) :=
  ⟨given (kneading root [] { one ({ summingBkt with sums := [(0, [5])] }) with adders := [{ bid := 9, step := 1, seg := 0, done := some false }] }) (word (.csum 0 0 5 false)), word (.csum 0 0 5 false), 0, 0, 2, 3, 0x108000, 5, false, root, { summingBkt with sums := [(0, [5])] }, owned, State.readBytes (given (kneading root [] { one ({ summingBkt with sums := [(0, [5])] }) with adders := [{ bid := 9, step := 1, seg := 0, done := some false }] }) (word (.csum 0 0 5 false))) 0x108000 64, State.readBytes (given (kneading root [] { one ({ summingBkt with sums := [(0, [5])] }) with adders := [{ bid := 9, step := 1, seg := 0, done := some false }] }) (word (.csum 0 0 5 false))) owned.const 64,
    given_takes _ _,
    front4 (by decide) (front4 (by decide) (front4 (by decide) (front4 (by decide) (front4 (by decide) ⟨read_ok _ _ _ _ (by decide),
    read_ok _ _ _ _ (by decide)⟩))))⟩

theorem meets_sumsAreCheckedAndReplayed_1 : ∃ (s : State) (k : Packet) (seg : Nat) (a : Nat) (port : Nat) (rank : Nat) (sum : BitVec 32) (v : Bool) (c : KndCtx) (b : Bkt),
      s.takes k = true ∧
      k.body = .csum seg a sum v ∧
      s.kndCtx k.bucket = some c ∧
      b = s.bkt k.bucket k.step ∧
      childPorts (routeOf c.r seg) = [(port, rank)] ∧
      rank = k.src.toNat ∧
      s.stepGone c.p k.step = false ∧
      s.kneads c = true ∧
      s.isOwner c = true ∧
      b.attempt = a ∧
      b.released = true ∧
      b.relAttempt = a ∧
      b.verified.contains seg = false ∧
      seg < c.b.nseg ∧
      a < 7 ∧
      (∀ j, childPorts (routeOf c.r j) ≠ []) ∧
      (∀ y ∈ s.knd.adders, y.bid = k.bucket → y.step = k.step → y.attempt ≠ a + 1) ∧
      (s.addSlot k.bucket k.step seg a).done = some false ∧
      (v = true ∨ (v = false ∧ b.csReplays < 2 ∧ checksum (tget b.sums [] seg) ≠ b.checks.getD seg 0 + sum)) :=
  ⟨given (kneading root [] { one ({ summingBkt with sums := [(0, [5])] }) with adders := [{ bid := 9, step := 1, seg := 0, done := some false }] }) (word (.csum 0 0 5 true)), word (.csum 0 0 5 true), 0, 0, 2, 3, 5, true, root, { summingBkt with sums := [(0, [5])] },
    given_takes _ _,
    front4 (by decide) (front4 (by decide) (front4 (by decide) ⟨by decide,
    by decide,
    fun j => by rw [children_one root (2, 3) (by decide) none 0 rfl j]; decide,
    by decide⟩))⟩

theorem meets_sumsAreCheckedAndReplayed_2 : ∃ (s : State) (k : Packet) (seg : Nat) (a : Nat) (port : Nat) (rank : Nat) (sum : BitVec 32) (v : Bool) (c : KndCtx) (b : Bkt),
      s.takes k = true ∧
      k.body = .csum seg a sum v ∧
      s.kndCtx k.bucket = some c ∧
      b = s.bkt k.bucket k.step ∧
      childPorts (routeOf c.r seg) = [(port, rank)] ∧
      rank = k.src.toNat ∧
      s.stepGone c.p k.step = false ∧
      s.kneads c = true ∧
      s.isOwner c = true ∧
      b.attempt = a ∧
      b.released = true ∧
      b.relAttempt = a ∧
      b.verified.contains seg = false ∧
      seg < c.b.nseg ∧
      s.knd.errValid = false ∧
      (s.addSlot k.bucket k.step seg a).done = some false ∧
      ((v = true ∧ 7 ≤ a) ∨ (v = false ∧ 2 ≤ b.csReplays ∧ checksum (tget b.sums [] seg) ≠ b.checks.getD seg 0 + sum)) :=
  ⟨given (kneading root [] { one ({ summingBkt with sums := [(0, [5])], csReplays := 2 }) with adders := [{ bid := 9, step := 1, seg := 0, done := some false }] }) (word (.csum 0 0 6 false)), word (.csum 0 0 6 false), 0, 0, 2, 3, 6, false, root, { summingBkt with sums := [(0, [5])], csReplays := 2 },
    given_takes _ _,
    by decide⟩

theorem meets_sumsAreCheckedAndReplayed_3 : ∃ (s : State) (k : Packet) (seg : Nat) (a : Nat) (port : Nat) (sum : BitVec 32) (v : Bool) (c : KndCtx),
      s.takes k = true ∧
      k.body = .csum seg a sum v ∧
      s.kndCtx k.bucket = some c ∧
      childPort c seg k.src = some port ∧
      (s.stepGone c.p k.step = true ∨ a < (s.bkt k.bucket k.step).attempt) :=
  ⟨given (kneading root [] { one ({ summingBkt with attempt := 1 }) with adders := [{ bid := 9, step := 1, seg := 0, done := some false }] }) (word (.csum 0 0 5 false)), word (.csum 0 0 5 false), 0, 0, 2, 5, false, root,
    given_takes _ _,
    by decide⟩

theorem meets_sumsAreCheckedAndReplayed_4 : ∃ (s : State) (k : Packet) (c : KndCtx) (b : Bkt),
      s.takes k = true ∧
      k.body = .routeChanged ∧
      s.openCtx k.bucket k.step = some c ∧
      b = s.bkt k.bucket k.step ∧
      s.kneads c = true ∧
      s.isOwner c = true ∧
      (b.own = .summing ∨ b.own = .replaying) ∧
      b.attempt < 7 ∧
      0 < c.b.nseg ∧
      (∀ j, childPorts (routeOf c.r j) ≠ []) ∧
      (∀ y ∈ s.knd.adders, y.bid = k.bucket → y.step = k.step → y.attempt ≠ b.attempt + 1) :=
  ⟨given (kneading root [] (one summingBkt)) (word .routeChanged), word .routeChanged, root, summingBkt,
    given_takes _ _,
    front4 (by decide) (front4 (by decide) ⟨fun j => by rw [children_one root (2, 3) (by decide) none 0 rfl j]; decide,
    by decide⟩)⟩

theorem meets_sumsAreCheckedAndReplayed_5 : ∃ (s : State) (k : Packet) (c : KndCtx),
      s.takes k = true ∧
      k.body = .routeChanged ∧
      s.openCtx k.bucket k.step = some c ∧
      (s.isOwner c = false ∨ ((s.bkt k.bucket k.step).own ≠ .summing ∧ (s.bkt k.bucket k.step).own ≠ .replaying)) :=
  ⟨given (kneading leaf [] {}) (word .routeChanged), word .routeChanged, leaf,
    given_takes _ _,
    by decide⟩

theorem meets_sumsAreCheckedAndReplayed_6 : ∃ (s : State) (k : Packet),
      s.takes k = false :=
  ⟨live, word .routeChanged,
    by decide⟩

theorem meets_updatesRunOrFail_0 : ∃ (s : State) (bid : BitVec 20) (n : Step) (c : KndCtx) (o : OwnerRec) (_a : Nat),
      s.openCtx bid n = some c ∧
      s.ownerRec c.p bid = some o ∧
      (s.bkt bid n).own = .updating ∧
      s.kneads c = true ∧
      s.engineRuns o = true ∧
      s.tapWaits c.p n = false ∧
      s.knd.errValid = false :=
  ⟨updating, 9, 1, root, owned, 0,
    by decide⟩

set_option Elab.async false in
theorem meets_updatesRunOrFail_1 : ∃ (s : State) (bid : BitVec 20) (n : Step) (c : KndCtx) (o : OwnerRec) (m : LayerMap) (q : State) (r : State) (w : State) (prog : List (BitVec 32)) (l : List (List Byte)) (old : List Nat) (res : List (Nat × List Nat)),
      s.openCtx bid n = some c ∧
      s.ownerRec c.p bid = some o ∧
      (s.bkt bid n).own = .updating ∧
      s.kneads c = true ∧
      s.engineRuns o = true ∧
      s.tapWaits c.p n = false ∧
      s.readAll (engWho c.p o) ((List.range o.nstate).map (fun j => (stateAt o (n.toNat % 2) j, 4 * bktElems c.b))) = (q, some l) ∧
      q.readMaster c.p o (n.toNat % 2) (bktElems c.b) = (r, some old) ∧
      prog = ((s.slice c.p).bind (fun x => tfind x.uprogs o.uprog)).getD [] ∧
      res = (List.range (bktElems c.b)).map (fun i => updElem (mastFmt o) prog (s.bkt bid n).consts (s.bkt bid n).sched (s.bkt bid n).s (((List.range c.b.nseg).flatMap (fun j => tget (s.bkt bid n).sums [] j)).getD i 0) (old.getD i 0) (l.map (fun y => (unpackBits 32 (bktElems c.b) y).getD i 0))) ∧
      r.writeAll (engWho c.p o) (genArrays o (n.toNat % 2 + 1) (bktElems c.b) (res.map (fun x => x.1)) ((List.range o.nstate).map (fun j => res.map (fun x => x.2.getD j 0)))) = (w, true) ∧
      c.b.paired = false ∧
      (w.bkt bid n).clearDone = false ∧
      w.snapStep c.p n = false ∧
      w.drainOf c.p n = none ∧
      w.layersOf c.p c.b.bid = [m] ∧
      (∀ z, tfind w.gov.uwr (2 * m.layer + n.toNat % 2) = some z → z.1 ≠ n) :=
  ⟨updating, 9, 1, root, owned, layer1, updState.1, updMaster.1, updWrite.1, [], updState.2.getD [], updMaster.2.getD [], updRes,
    front4 (by decide) ⟨by decide,
    by decide,
    pair_some _ _ (by decide),
    pair_some _ _ (by decide +kernel),
    rfl,
    rfl,
    pair_true _ (by decide +kernel),
    front4 (by decide +kernel) ⟨by decide +kernel,
    fun z h => absurd (h.symm.trans (by decide +kernel : tfind updWrite.1.gov.uwr (2 * layer1.layer + (1 : Step).toNat % 2) = none)) (by simp)⟩⟩⟩

theorem meets_updatesRunOrFail_2 : ∃ (s : State) (bid : BitVec 20) (n : Step) (c : KndCtx) (o : OwnerRec),
      s.openCtx bid n = some c ∧
      s.ownerRec c.p bid = some o ∧
      ((s.bkt bid n).own ≠ .updating ∨ s.engineRuns o = false ∨ s.tapWaits c.p n = true) :=
  ⟨kneading root [layer1] (one bkt1), 9, 1, root, owned,
    by decide⟩

theorem meets_parametersAreAdopted_0 : ∃ (s : State) (k : Packet) (tile : Nat) (part : Nat) (form : Nat) (route : Nat) (d : List Byte) (c : KndCtx) (b : Bkt),
      s.takes k = true ∧
      k.body = .ptile tile part form route d ∧
      s.openCtx k.bucket k.step = some c ∧
      b = s.bkt k.bucket (keyStep k.step) ∧
      s.kneads c = true ∧
      b.solo = false ∧
      b.adoptedHere = false ∧
      (routeOf c.r route).parent.isSome = true ∧
      (routeOf c.r route).parentRank = k.src.toNat ∧
      childPorts (routeOf c.r route) = [] ∧
      wholeForm (heldParts { b with heldTiles := b.heldTiles ++ [k] } tile form) (s.formParts c tile form k.step) = none :=
  ⟨given (kneading leaf [layer1] (one bkt1)) { word (.ptile 0 1 0 0 [1]) with step := 2 }, { word (.ptile 0 1 0 0 [1]) with step := 2 }, 0, 1, 0, 0, [1], leaf, bkt1,
    given_takes _ _,
    by decide⟩

theorem meets_parametersAreAdopted_1 : ∃ (s : State) (k : Packet) (tile : Nat) (form : Nat) (route : Nat) (i : Nat) (m : LayerMap) (d : List Byte) (c : KndCtx) (b : Bkt) (u : State) (w : State),
      s.takes k = true ∧
      k.body = .ptile tile 0 form route d ∧
      s.openCtx k.bucket k.step = some c ∧
      b = s.bkt k.bucket (keyStep k.step) ∧
      s.kneads c = true ∧
      b.solo = false ∧
      b.adoptedHere = false ∧
      b.heldTiles = [] ∧
      (routeOf c.r route).parent.isSome = true ∧
      (routeOf c.r route).parentRank = k.src.toNat ∧
      childPorts (routeOf c.r route) = [] ∧
      s.formParts c tile form k.step = 1 ∧
      (bucketTiles (s.layersOf c.p c.b.bid))[tile]? = some (m, i) ∧
      b.parts.contains (tile, form, 0) = false ∧
      u = State.modBkt { s with inbox := s.inbox.erase k } k.bucket (keyStep k.step) (fun y => { y with heldTiles := [] }) ∧
      u.writeTile c ((routeOf c.r route).parent.getD 0) k.step m i form d = (w, true) ∧
      tfind (w.bkt k.bucket (keyStep k.step)).ends 0 = none :=
  ⟨given (kneading leaf [layer1] (one bkt1)) { word (.ptile 0 0 0 0 [0, 0]) with step := 2 }, { word (.ptile 0 0 0 0 [0, 0]) with step := 2 }, 0, 0, 0, 0, layer1, [0, 0], leaf, bkt1, (State.modBkt { (given (kneading leaf [layer1] (one bkt1)) { word (.ptile 0 0 0 0 [0, 0]) with step := 2 }) with inbox := (given (kneading leaf [layer1] (one bkt1)) { word (.ptile 0 0 0 0 [0, 0]) with step := 2 }).inbox.erase ({ word (.ptile 0 0 0 0 [0, 0]) with step := 2 }) } 9 (keyStep 2) (fun y => { y with heldTiles := [] })), ((State.modBkt { (given (kneading leaf [layer1] (one bkt1)) { word (.ptile 0 0 0 0 [0, 0]) with step := 2 }) with inbox := (given (kneading leaf [layer1] (one bkt1)) { word (.ptile 0 0 0 0 [0, 0]) with step := 2 }).inbox.erase ({ word (.ptile 0 0 0 0 [0, 0]) with step := 2 }) } 9 (keyStep 2) (fun y => { y with heldTiles := [] })).writeTile leaf ((routeOf leaf.r 0).parent.getD 0) 2 layer1 0 0 [0, 0]).1,
    given_takes _ _,
    front4 (by decide) (front4 (by decide) (front4 (by decide) ⟨by decide,
    rfl,
    pair_true _ (by decide),
    by decide⟩))⟩

theorem meets_parametersAreAdopted_2 : ∃ (s : State) (k : Packet) (j : Nat) (n : Nat) (c : KndCtx) (b : Bkt),
      s.takes k = true ∧
      k.body = .paramEnd j n ∧
      s.openCtx k.bucket k.step = some c ∧
      b = s.bkt k.bucket (keyStep k.step) ∧
      s.kneads c = true ∧
      b.solo = false ∧
      b.adoptedHere = false ∧
      j < max 1 c.r.routes.length ∧
      (routeOf c.r j).parent.isSome = true ∧
      (routeOf c.r j).parentRank = k.src.toNat ∧
      childPorts (routeOf c.r j) = [] ∧
      n ≠ tget b.tiles 0 j :=
  ⟨given (kneading leaf [] (one bkt1)) { word (.paramEnd 0 1) with step := 2 }, { word (.paramEnd 0 1) with step := 2 }, 0, 1, leaf, bkt1,
    given_takes _ _,
    by decide⟩

theorem meets_parametersAreAdopted_3 : ∃ (s : State) (k : Packet) (j : Nat) (n : Nat) (c : KndCtx) (b : Bkt),
      s.takes k = true ∧
      k.body = .paramEnd j n ∧
      s.openCtx k.bucket k.step = some c ∧
      b = s.bkt k.bucket (keyStep k.step) ∧
      s.kneads c = true ∧
      s.isOwner c = false ∧
      b.solo = false ∧
      b.adoptedHere = false ∧
      b.adoptSent = false ∧
      (routeOf c.r j).parent.isSome = true ∧
      (routeOf c.r j).parentRank = k.src.toNat ∧
      childPorts (routeOf c.r j) = [] ∧
      childPorts (routeOf c.r 0) = [] ∧
      j < max 1 c.r.routes.length ∧
      n = tget b.tiles 0 j ∧
      (∀ i < max 1 c.r.routes.length, i ≠ j → tfind b.ends i = some (tget b.tiles 0 i)) :=
  ⟨given (kneading leaf [] (one bkt1)) { word (.paramEnd 0 0) with step := 2 }, { word (.paramEnd 0 0) with step := 2 }, 0, 0, leaf, bkt1,
    given_takes _ _,
    by decide⟩

theorem meets_parametersAreAdopted_4 : ∃ (s : State) (k : Packet),
      s.takes k = false :=
  ⟨live, word (.paramEnd 0 0),
    by decide⟩

theorem meets_bucketsClearAndCommit_0 : ∃ (s : State) (k : Packet) (m : Nat) (c : KndCtx),
      s.takes k = true ∧
      k.body = .adopted m ∧
      s.steerBucket k.bucket = none ∧
      s.openCtx k.bucket k.step = some c ∧
      s.kneads c = true ∧
      (s.keepChild k).childWords c 6 k.step = none :=
  ⟨given (kneading root2 [] {}) { word (.adopted 2) with step := 2 }, { word (.adopted 2) with step := 2 }, 2, root2,
    given_takes _ _,
    by decide⟩

theorem meets_bucketsClearAndCommit_1 : ∃ (s : State) (k : Packet) (m : Nat) (port : Nat) (c : KndCtx) (o : OwnerRec),
      s.takes k = true ∧
      k.body = .adopted m ∧
      s.steerBucket k.bucket = none ∧
      s.openCtx k.bucket k.step = some c ∧
      s.kneads c = true ∧
      s.isOwner c = true ∧
      s.ownerRec c.p c.b.bid = some o ∧
      childPorts (routeOf c.r 0) = [(port, k.src.toNat)] ∧
      (s.keepChild k).childWords c 6 k.step = some [.adopted m] ∧
      o.holders = m ∧
      (s.bkt k.bucket (keyStep k.step)).adoptedHere = true ∧
      (s.bkt k.bucket (keyStep k.step)).adoptSent = false ∧
      (s.bkt k.bucket (keyStep k.step)).committed = false :=
  ⟨given (kneading root [] (one { bkt1 with adoptedHere := true })) { word (.adopted 2) with step := 2 }, { word (.adopted 2) with step := 2 }, 2, 2, root, owned,
    given_takes _ _,
    by decide⟩

theorem meets_bucketsClearAndCommit_2 : ∃ (s : State) (k : Packet) (m : Nat) (p : Nat) (r : Nat) (c : Slice) (g : GroupRec),
      s.takes k = true ∧
      k.body = .adopted m ∧
      s.steerBucket k.bucket = some (p, c, g) ∧
      newer k.step (s.part p).lastSeal = true ∧
      r ∈ s.lnk.rank.toNat :: (s.steerRoute c g).2 ∧
      r ≠ k.src.toNat ∧
      (∀ a ∈ (s.vote g.group.val k.step).adoptedBy, a.1 ≠ r) :=
  ⟨given (steering [group] {}) { word (.adopted 2) with bucket := 77 }, { word (.adopted 2) with bucket := 77 }, 2, 0, 0, grouped [group], group,
    given_takes _ _,
    by decide⟩

theorem meets_bucketsClearAndCommit_3 : ∃ (s : State) (k : Packet) (p : Nat) (c : Slice) (g : GroupRec),
      s.takes k = true ∧
      k.body = .commit ∧
      s.steerBucket k.bucket = some (p, c, g) ∧
      newer k.step (s.part p).lastSeal = true :=
  ⟨given (steering [group] {}) { word .commit with bucket := 77 }, { word .commit with bucket := 77 }, 0, grouped [group], group,
    given_takes _ _,
    by decide⟩

theorem meets_bucketsClearAndCommit_4 : ∃ (s : State) (k : Packet) (c : KndCtx),
      s.takes k = true ∧
      k.body = .commit ∧
      s.steerBucket k.bucket = none ∧
      s.openCtx k.bucket k.step = some c ∧
      s.kneads c = true ∧
      (s.bkt k.bucket k.step).committed = false ∧
      childPorts (routeOf c.r 0) = [] :=
  ⟨given (kneading leaf [] {}) (word .commit), word .commit, leaf,
    given_takes _ _,
    by decide⟩

theorem meets_bucketsClearAndCommit_5 : ∃ (s : State) (n : Rack) (ctr : Fin 64) (inc : BitVec 16) (step : Step) (b : BucketRec) (c : KndCtx) (u : State),
      s.clearsOf n.val ctr.val = [b] ∧
      s.openCtx b.bid step = some c ∧
      (s.bkt b.bid step).cleared = false ∧
      (s.bkt b.bid step).clearSent = false ∧
      s.isOwner c = false ∧
      childPorts (routeOf c.r 0) = [] ∧
      u = State.addHalf { s with signals := s.signals.erase (n.val, ctr.val, inc, step) } n.val ctr.val (BitVec.ofNat 32 inc.toNat) step ∧
      u.waitMet n.val ctr.val b.cval step = true :=
  ⟨kneading leaf [] {}, 0, 0, 1, 1, leaf.b, leaf, State.addHalf { kneading leaf [] {} with signals := (kneading leaf [] {}).signals.erase (0, 0, 1, 1) } 0 0 (BitVec.ofNat 32 (1 : BitVec 16).toNat) 1,
    front4 (by decide) ⟨by decide,
    by decide,
    rfl,
    by decide⟩⟩

theorem meets_bucketsClearAndCommit_6 : ∃ (s : State) (k : Packet) (m : Nat) (c : KndCtx) (o : OwnerRec),
      s.takes k = true ∧
      k.body = .clear m ∧
      s.openCtx k.bucket k.step = some c ∧
      s.kneads c = true ∧
      s.isOwner c = true ∧
      s.ownerRec c.p c.b.bid = some o ∧
      (s.keepChild k).childWords c 5 k.step = some [.clear m] ∧
      o.holders = m ∧
      (s.bkt k.bucket k.step).cleared = true ∧
      (s.bkt k.bucket k.step).clearSent = false ∧
      (s.bkt k.bucket k.step).own ≠ .sending :=
  ⟨given (kneading root [] (one { bkt1 with cleared := true })) (word (.clear 2)), word (.clear 2), 2, root, owned,
    given_takes _ _,
    by decide⟩

theorem meets_bucketsClearAndCommit_7 : ∃ (s : State) (k : Packet) (m : Nat) (c : KndCtx) (o : OwnerRec) (codes : List Nat),
      s.takes k = true ∧
      k.body = .clear m ∧
      s.openCtx k.bucket k.step = some c ∧
      s.kneads c = true ∧
      s.isOwner c = true ∧
      s.ownerRec c.p c.b.bid = some o ∧
      (s.keepChild k).childWords c 5 k.step = some [.clear m] ∧
      o.holders = m ∧
      (s.bkt k.bucket k.step).cleared = true ∧
      (s.bkt k.bucket k.step).clearSent = false ∧
      (s.bkt k.bucket k.step).own = .sending ∧
      (∀ l ∈ s.layersOf c.p c.b.bid, s.paramWordOk l.layer 0 (k.step + 1) = true ∧ s.paramWordOk l.layer 1 (k.step + 1) = true) ∧
      s.readMaster c.p o ((k.step + 1).toNat % 2) (bktElems c.b) = (s, some codes) :=
  ⟨given (kneading root [] (one { bkt1 with cleared := true, own := .sending })) (word (.clear 2)), word (.clear 2), 2, root, owned, (State.readMaster (given (kneading root [] (one { bkt1 with cleared := true, own := .sending })) (word (.clear 2))) 0 owned (((1 : Step) + 1).toNat % 2) (bktElems root.b)).2.getD [],
    given_takes _ _,
    front4 (by decide) (front4 (by decide) ⟨by decide,
    by decide,
    by decide,
    pair_some_of _ _ _ rfl (by decide)⟩)⟩

theorem meets_bucketsClearAndCommit_8 : ∃ (s : State) (k : Packet) (r : BitVec 14) (c : KndCtx) (o : OwnerRec) (u : State) (codes : List Nat),
      s.takes k = true ∧
      k.body = .paramResend r ∧
      s.kndCtx k.bucket = some c ∧
      s.ownerRec c.p k.bucket = some o ∧
      s.isOwner c = true ∧
      s.engineRuns o = true ∧
      (s.recov c.p).migration = none ∧
      (∀ m ∈ s.layersOf c.p c.b.bid, s.paramWordOk m.layer 0 k.step = true ∧ s.paramWordOk m.layer 1 k.step = true) ∧
      State.readMaster { s with inbox := s.inbox.erase k } c.p o (k.step.toNat % 2) (bktElems c.b) = (u, some codes) :=
  ⟨given (kneading root [] {}) (word (.paramResend 3)), word (.paramResend 3), 3, root, owned, (State.readMaster { (given (kneading root [] {}) (word (.paramResend 3))) with inbox := (given (kneading root [] {}) (word (.paramResend 3))).inbox.erase (word (.paramResend 3)) } 0 owned ((1 : Step).toNat % 2) (bktElems root.b)).1, (State.readMaster { (given (kneading root [] {}) (word (.paramResend 3))) with inbox := (given (kneading root [] {}) (word (.paramResend 3))).inbox.erase (word (.paramResend 3)) } 0 owned ((1 : Step).toNat % 2) (bktElems root.b)).2.getD [],
    given_takes _ _,
    front4 (by decide) ⟨by decide,
    by decide,
    by decide,
    pair_some _ _ (by decide)⟩⟩

theorem meets_bucketsClearAndCommit_9 : ∃ (s : State) (k : Packet),
      s.takes k = false :=
  ⟨live, word .commit,
    by decide⟩

theorem meets_portsTrainAndIdentify_0 : ∃ (s : State) (n : Port),
      ((s.port n.val).state = .training ∨ (s.port n.val).state = .standby) ∧
      (s.port n.val).ctl = [] ∧
      (s.port n.val).pay = [] ∧
      (s.port n.val).flits.length < replayMax :=
  ⟨porting [(8, { state := .standby })], 8,
    by decide⟩

theorem meets_portsTrainAndIdentify_1 : ∃ (s : State) (n : Port) (k : Packet) (c : BitVec 14) (m : Nat),
      s.hears n.val = true ∧
      (s.port n.val).words.head? = some k ∧
      k.body = .linkId c m ∧
      ((s.port n.val).state = .up ∨ (s.port n.val).state = .miswired) ∧
      (s.port n.val).inPlace = false ∧
      (s.rcp.links = none ∨ (c = s.predicted n.val ∧ m = peerPortOf n.val)) :=
  ⟨porting [(0, { state := .up, words := [word (.linkId 1 1)] })], 0, word (.linkId 1 1), 1, 1,
    by decide⟩

theorem meets_portsTrainAndIdentify_2 : ∃ (s : State) (n : Port) (k : Packet) (c : BitVec 14) (m : Nat),
      s.hears n.val = true ∧
      (s.port n.val).words.head? = some k ∧
      k.body = .linkId c m ∧
      s.rcp.links.isSome = true ∧
      (c ≠ s.predicted n.val ∨ m ≠ peerPortOf n.val) :=
  ⟨placed [(0, { state := .up, words := [word (.linkId 2 1)] })], 0, word (.linkId 2 1), 2, 1,
    by decide⟩

theorem meets_portsTrainAndIdentify_3 : ∃ (s : State) (n : Port) (k : Packet) (c : BitVec 14) (m : Nat),
      (s.port n.val).words.head? = some k ∧
      k.body = .linkId c m ∧
      (s.port n.val).state = .up ∧
      (s.port n.val).inPlace = true ∧
      c = s.predicted n.val ∧
      m = peerPortOf n.val ∧
      (s.port n.val).ctl = [] ∧
      (s.port n.val).pay = [] ∧
      (s.port n.val).flits.length < replayMax :=
  ⟨placed [(0, { state := .up, inPlace := true, words := [word (.linkId 1 1)] })], 0, word (.linkId 1 1), 1, 1,
    by decide⟩

theorem meets_portsTrainAndIdentify_4 : ∃ (s : State) (n : Port) (k : Packet),
      (s.port n.val).words.head? ≠ some k :=
  ⟨live, 0, word (.linkId 1 1),
    by decide⟩

theorem meets_portsTrainAndIdentify_5 : ∃ (s : State) (n : Port),
      ((s.port n.val).state = .down ∨ (s.port n.val).state = .failed) :=
  ⟨porting [(8, { state := .failed })], 8,
    by decide⟩

theorem meets_portsTrainAndIdentify_6 : ∃ (s : State) (c : Cmd) (t : State) (n : Nat) (v : Nat),
      Writes s c .linkRetrain t (.lnkCtl n) v ∧
      ((t.port n).state = .down ∨ (t.port n).state = .failed ∨ (t.port n).state = .standby ∨ (t.port n).state = .miswired) :=
  ⟨porting [], host (wr 0xC01800 1), next (porting []) (wr 0xC01800 1), 8, State.wouldBe (next (porting []) (wr 0xC01800 1)) (.lnkCtl 8) (wr 0xC01800 1),
    writes_of _ _ _ _ (by decide),
    by decide⟩

theorem meets_portsTrainAndIdentify_7 : ∃ (s : State) (c : Cmd) (t : State) (n : Nat) (v : Nat),
      Writes s c .linkRetrain t (.lnkCtl n) v ∧
      (t.port n).state = .up ∧
      (t.port n).ctl = [] ∧
      (t.port n).flits.length < replayMax :=
  ⟨porting [(0, { state := .up })], host (wr 0xC01000 1), next (porting [(0, { state := .up })]) (wr 0xC01000 1), 0, State.wouldBe (next (porting [(0, { state := .up })]) (wr 0xC01000 1)) (.lnkCtl 0) (wr 0xC01000 1),
    writes_of _ _ _ _ (by decide),
    by decide⟩

theorem meets_portsTrainAndIdentify_8 : ∃ (s : State) (c : Cmd) (t : State) (n : Nat) (v : Nat),
      Writes s c .linkTakeDown t (.lnkCtl n) v ∧
      (t.port n).state = .up :=
  ⟨(porting [(0, { state := .up })]), host (wr 0xC01000 2), next (porting [(0, { state := .up })]) (wr 0xC01000 2), 0, State.wouldBe (next (porting [(0, { state := .up })]) (wr 0xC01000 2)) (.lnkCtl 0) (wr 0xC01000 2),
    writes_of _ _ _ _ (by decide),
    by decide⟩

theorem meets_portsTrainAndIdentify_9 : ∃ (s : State) (c : Cmd) (t : State) (n : Nat) (v : Nat),
      Writes s c .linkTakeDown t (.lnkCtl n) v ∧
      ((t.port n).state = .down ∨ (t.port n).state = .failed) :=
  ⟨porting [], host (wr 0xC01800 2), next (porting []) (wr 0xC01800 2), 8, State.wouldBe (next (porting []) (wr 0xC01800 2)) (.lnkCtl 8) (wr 0xC01800 2),
    writes_of _ _ _ _ (by decide),
    by decide⟩

theorem meets_flitsAreCheckedAndPortsLeaveUse_0 : ∃ (s : State) (n : Port) (_b : List Byte) (_r : List CtrlRead),
      s.hears n.val = false :=
  ⟨porting [], 8, [], [],
    by decide⟩

theorem meets_flitsAreCheckedAndPortsLeaveUse_1 : ∃ (s : State) (n : Port) (_b : List Byte) (_r : List CtrlRead),
      s.hears n.val = true :=
  ⟨porting [(8, { state := .up })], 8, [], [],
    by decide⟩

theorem meets_flitsAreCheckedAndPortsLeaveUse_2 : ∃ (s : State) (n : Port) (b : List Byte) (_c : Nat) (_r : List CtrlRead),
      s.hears n.val = true ∧
      (flitOf b).crcOk = false :=
  ⟨porting [(8, { state := .up })], 8, [], 0, [],
    by decide⟩

theorem meets_flitsAreCheckedAndPortsLeaveUse_3 : ∃ (s : State) (n : Port) (b : List Byte) (_c : Nat) (_r : List CtrlRead),
      s.hears n.val = true ∧
      (flitOf b).crcOk = true ∧
      (flitOf b).akind = 0 ∧
      (flitOf b).type = 2 ∧
      (flitOf b).fseq = (s.port n.val).rxSeq :=
  ⟨porting [(8, { state := .up })], 8, flitWith 0x2000000, 0, [],
    rfl,
    flit_sound _,
    (flit_trailer 0x2000000 (by decide)).2.1,
    (flit_trailer 0x2000000 (by decide)).1,
    (flit_trailer 0x2000000 (by decide)).2.2⟩

theorem meets_flitsAreCheckedAndPortsLeaveUse_4 : ∃ (s : State) (n : Port) (b : List Byte) (_c : Nat) (_r : List CtrlRead) (x : List Packet × List Byte),
      s.hears n.val = true ∧
      (flitOf b).crcOk = true ∧
      (flitOf b).akind = 0 ∧
      (flitOf b).type = 1 ∧
      (flitOf b).fseq = (s.port n.val).rxSeq ∧
      x = unpacked 64 ((s.port n.val).content ++ (flitOf b).content) :=
  ⟨porting [(8, { state := .up })], 8, flitWith 0x1000000, 0, [], unpacked 64 ((State.port (porting [(8, { state := .up })]) 8).content ++ (flitOf (flitWith 0x1000000)).content),
    rfl,
    flit_sound _,
    (flit_trailer 0x1000000 (by decide)).2.1,
    (flit_trailer 0x1000000 (by decide)).1,
    (flit_trailer 0x1000000 (by decide)).2.2,
    rfl⟩

theorem meets_flitsAreCheckedAndPortsLeaveUse_5 : ∃ (s : State) (n : Port) (b : List Byte) (_c : Nat) (_r : List CtrlRead),
      s.hears n.val = true ∧
      (flitOf b).crcOk = true ∧
      (flitOf b).akind = 0 ∧
      ((flitOf b).type = 1 ∨ (flitOf b).type = 2) ∧
      (flitOf b).fseq ≠ (s.port n.val).rxSeq :=
  ⟨porting [(8, { state := .up, rxSeq := 5 })], 8, flitWith 0x1000003, 0, [],
    rfl,
    flit_sound _,
    (flit_trailer 0x1000003 (by decide)).2.1,
    .inl (flit_trailer 0x1000003 (by decide)).1,
    by rw [(flit_trailer 0x1000003 (by decide)).2.2]; decide⟩

theorem meets_flitsAreCheckedAndPortsLeaveUse_6 : ∃ (s : State) (n : Port) (b : List Byte) (_c : Nat) (_r : List CtrlRead),
      s.hears n.val = true ∧
      (flitOf b).crcOk = true ∧
      (flitOf b).akind = 1 ∧
      (flitOf b).type = 0 ∧
      (s.port n.val).ctl = [] ∧
      (s.port n.val).pay = [] :=
  ⟨porting [(8, { state := .up })], 8, flitWith 0x10000000, 0, [],
    rfl,
    flit_sound _,
    (flit_trailer 0x10000000 (by decide)).2.1,
    (flit_trailer 0x10000000 (by decide)).1,
    rfl,
    by decide⟩

theorem meets_flitsAreCheckedAndPortsLeaveUse_7 : ∃ (s : State) (n : Port) (b : List Byte) (_c : Nat) (m : Nat) (_r : List CtrlRead) (l : List Flit),
      s.hears n.val = true ∧
      (flitOf b).crcOk = true ∧
      (flitOf b).akind = 2 ∧
      (flitOf b).type = 0 ∧
      (s.port n.val).ctl = [] ∧
      (s.port n.val).pay = [] ∧
      ((∃ i, (s.port n.val).flits.findIdx? (fun e => e.seq == (flitOf b).ack) = some i ∧ l = (s.port n.val).flits.drop (i + 1) ∧ m = 0) ∨ ((s.port n.val).flits.findIdx? (fun e => e.seq == (flitOf b).ack) = none ∧ l = (s.port n.val).flits ∧ m = (s.port n.val).fails)) :=
  ⟨porting [(8, { state := .up })], 8, flitWith 0x20000000, 0, 0, [], [],
    rfl,
    flit_sound _,
    (flit_trailer 0x20000000 (by decide)).2.1,
    (flit_trailer 0x20000000 (by decide)).1,
    rfl,
    rfl,
    Or.inr ⟨rfl, rfl, rfl⟩⟩

theorem meets_flitsAreCheckedAndPortsLeaveUse_8 : ∃ (s : State) (n : Port) (y : DownReason),
      ((s.port n.val).state = .up ∨ (s.port n.val).state = .miswired) ∧
      (s.port n.val).downFor y = true ∧
      s.isOn 78 = true ∧
      s.qrs.evBuf.length < evBufMax :=
  ⟨porting [(8, { state := .up })], 8, .laneLock,
    by decide⟩

theorem meets_flitsAreCheckedAndPortsLeaveUse_9 : ∃ (s : State) (n : Port) (y : DownReason),
      ((s.port n.val).state = .standby ∨ (s.port n.val).downFor y = false) :=
  ⟨porting [(8, { state := .standby })], 8, .laneLock,
    by decide⟩

theorem meets_flitsAreCheckedAndPortsLeaveUse_11 : ∃ (s : State) (n : Port) (k : Packet),
      (s.port n.val).words.head? = some k ∧
      k.body = .linkStandby ∧
      (s.port n.val).state = .up ∧
      (s.port n.val).ctl = [] ∧
      (s.port n.val).pay = [] ∧
      (s.port n.val).flits = [] ∧
      s.lnk.lostAt = [] :=
  ⟨porting [(8, { state := .up, words := [word .linkStandby] })], 8, word .linkStandby,
    by decide⟩

theorem meets_flitsAreCheckedAndPortsLeaveUse_12 : ∃ (s : State) (n : Port) (k : Packet),
      (s.port n.val).words.head? = some k ∧
      k.body = .linkResume ∧
      (s.port n.val).state = .standby :=
  ⟨porting [(8, { state := .standby, words := [word .linkResume] })], 8, word .linkResume,
    by decide⟩

theorem meets_flitsAreCheckedAndPortsLeaveUse_13 : ∃ (s : State) (n : Port) (k : Packet) (c : BitVec 14),
      (s.port n.val).words.head? = some k ∧
      k.body = .fenced c ∧
      s.hears n.val = true ∧
      s.isOn 78 = true ∧
      s.qrs.evBuf.length < evBufMax :=
  ⟨porting [(8, { state := .up, words := [word (.fenced 6)] })], 8, word (.fenced 6), 6,
    by decide⟩

theorem meets_flitsAreCheckedAndPortsLeaveUse_14 : ∃ (s : State) (n : Port) (_k : Packet),
      (s.port n.val).words = [] :=
  ⟨porting [(8, { state := .up })], 8, word .linkResume,
    by decide⟩

theorem meets_packetsAreRoutedAndAccepted_0 : ∃ (s : State) (n : Port) (k : Packet) (e : SeqEnt),
      (s.port n.val).state = .up ∧
      (s.port n.val).arrived.head? = some k ∧
      s.lnk.lostAt = [] ∧
      k.kind = bodyCode k.body ∧
      k.rsvOk = true ∧
      kindUses k n.val = true ∧
      portWord k = false ∧
      (∀ a b c d f g, k.body ≠ .fence a b c d f g) ∧
      k.crcOk = true ∧
      s.hop (some n.val) k.dcoord k.detour = .deliver ∧
      k.dst = s.lnk.rank ∧
      s.dev.fenced = false ∧
      s.seqEnt (seqKey k.src k.stream) = some e ∧
      e.pend = none ∧
      k.epoch = e.epoch :=
  ⟨{ hearing [(seqKey 3 1, { epoch := 0, last := 0 })] with lnk := { (hearing [(seqKey 3 1, { epoch := 0, last := 0 })]).lnk with ports := [(5, { state := .up, arrived := [word .commit] })] } }, 5, word .commit, { epoch := 0, last := 0 },
    front4 (by decide) ⟨by decide,
    by decide,
    by decide,
    (fun _ _ _ _ _ _ h => nomatch h),
    by decide⟩⟩

theorem meets_packetsAreRoutedAndAccepted_1 : ∃ (s : State) (n : Port) (k : Packet),
      (s.port n.val).state = .up ∧
      (s.port n.val).arrived.head? = some k ∧
      s.lnk.lostAt = [] ∧
      k.kind = bodyCode k.body ∧
      k.rsvOk = true ∧
      kindUses k n.val = true ∧
      portWord k = false ∧
      (∀ a b c d f g, k.body ≠ .fence a b c d f g) ∧
      k.crcOk = true ∧
      s.hop (some n.val) k.dcoord k.detour = .deliver ∧
      k.dst = s.lnk.rank ∧
      s.dev.fenced = false ∧
      s.seqEnt (seqKey k.src k.stream) = none :=
  ⟨{ hearing [] with lnk := { (hearing []).lnk with ports := [(5, { state := .up, arrived := [word .commit] })] } }, 5, word .commit,
    front4 (by decide) ⟨by decide,
    by decide,
    by decide,
    (fun _ _ _ _ _ _ h => nomatch h),
    by decide⟩⟩

theorem meets_packetsAreRoutedAndAccepted_2 : ∃ (s : State) (n : Port) (k : Packet) (m : Nat) (i : Nat),
      (s.port n.val).state = .up ∧
      (s.port n.val).arrived.head? = some k ∧
      s.lnk.lostAt = [] ∧
      k.kind = bodyCode k.body ∧
      k.rsvOk = true ∧
      kindUses k n.val = true ∧
      portWord k = false ∧
      s.hop (some n.val) k.dcoord k.detour = .out m (some i) :=
  ⟨placed [(0, { state := .up }), (5, { state := .up, arrived := [{ word .commit with dcoord := 1 }] })], 5, { word .commit with dcoord := 1 }, 0, 0,
    by decide⟩

theorem meets_packetsAreRoutedAndAccepted_3 : ∃ (s : State) (n : Port) (k : Packet),
      s.hears n.val = true ∧
      (s.port n.val).arrived.head? = some k ∧
      s.lnk.lostAt = [] ∧
      k.kind = 0x3 ∧
      k.kind = bodyCode k.body ∧
      k.rsvOk = true ∧
      portWord k = true :=
  ⟨porting [(8, { state := .up, arrived := [word (.fenced 6)] })], 8, word (.fenced 6),
    by decide⟩

theorem meets_packetsAreRoutedAndAccepted_4 : ∃ (s : State) (n : Port) (k : Packet),
      (s.port n.val).state = .up ∧
      (s.port n.val).arrived.head? = some k ∧
      s.lnk.lostAt = [] ∧
      (k.kind ≠ bodyCode k.body ∨ k.rsvOk = false ∨ kindUses k n.val = false) :=
  ⟨porting [(8, { state := .up, arrived := [{ word .commit with kind := 1 }] })], 8, { word .commit with kind := 1 },
    by decide⟩

theorem meets_packetsAreRoutedAndAccepted_5 : ∃ (s : State) (n : Port) (k : Packet),
      (s.port n.val).state = .miswired ∧
      (s.port n.val).arrived.head? = some k ∧
      s.lnk.lostAt = [] ∧
      portWord k = false :=
  ⟨porting [(8, { state := .miswired, arrived := [word .commit] })], 8, word .commit,
    by decide⟩

theorem meets_packetsAreRoutedAndAccepted_6 : ∃ (s : State) (n : Port) (k : Packet) (l : List Packet) (r : List Packet),
      s.hears n.val = true ∧
      (s.port n.val).arrived = l ++ k :: r ∧
      (∀ x ∈ l, x.kind ≠ 0x3) ∧
      s.lnk.lostAt = [] ∧
      k.kind = 0x3 ∧
      k.kind = bodyCode k.body ∧
      k.rsvOk = true ∧
      portWord k = true ∧
      k.crcOk = true :=
  ⟨porting [(8, { state := .up, arrived := [word (.gseg 0 0 0 []), word (.fenced 6)] })], 8, word (.fenced 6), [word (.gseg 0 0 0 [])], [],
    by decide⟩

theorem meets_packetsAreRoutedAndAccepted_7 : ∃ (s : State) (n : Port) (k : Packet),
      (s.hears n.val = false ∨ (s.port n.val).offers k = false) :=
  ⟨porting [], 8, word .commit,
    by decide⟩

theorem meets_fencesMoveEpochsAndRoutesAreStaged_0 : ∃ (s : State) (k : Packet) (stream : BitVec 16) (old : BitVec 16) (new : BitVec 16) (d : Bool) (limit : BitVec 32) (base : BitVec 32),
      k.body = .fence stream old new d limit base ∧
      s.takes k = true ∧
      s.seqEnt (seqKey k.src stream) = none ∧
      s.lnk.seqs.length < seqMax :=
  ⟨given (hearing []) (word (.fence 1 0 1 false 8 20)), word (.fence 1 0 1 false 8 20), 1, 0, 1, false, 8, 20,
    by decide,
    given_takes _ _,
    by decide⟩

theorem meets_fencesMoveEpochsAndRoutesAreStaged_1 : ∃ (s : State) (k : Packet) (stream : BitVec 16) (old : BitVec 16) (new : BitVec 16) (limit : BitVec 32) (base : BitVec 32) (e : SeqEnt),
      s.takes k = true ∧
      k.body = .fence stream old new false limit base ∧
      s.seqEnt (seqKey k.src stream) = some e ∧
      e.pend = none ∧
      new ≠ e.epoch ∧
      newer new e.epoch = true ∧
      e.last ≠ limit ∧
      newer e.last limit = false :=
  ⟨given (hearing [(seqKey 3 1, { epoch := 0, last := 1 })]) (word (.fence 1 0 1 false 8 20)), word (.fence 1 0 1 false 8 20), 1, 0, 1, 8, 20, { epoch := 0, last := 1 },
    given_takes _ _,
    by decide⟩

theorem meets_fencesMoveEpochsAndRoutesAreStaged_2 : ∃ (s : State) (k : Packet) (stream : BitVec 16) (old : BitVec 16) (new : BitVec 16) (d : Bool) (limit : BitVec 32) (base : BitVec 32) (e : SeqEnt),
      s.takes k = true ∧
      k.body = .fence stream old new d limit base ∧
      s.seqEnt (seqKey k.src stream) = some e ∧
      e.pend = none ∧
      new ≠ e.epoch ∧
      newer new e.epoch = true ∧
      (d = true ∨ e.last = limit ∨ newer e.last limit = true) ∧
      (∀ n < 9, (s.port n).hold = []) :=
  ⟨given (hearing [(seqKey 3 1, { epoch := 0, last := 1 })]) (word (.fence 1 0 1 true 8 20)), word (.fence 1 0 1 true 8 20), 1, 0, 1, true, 8, 20, { epoch := 0, last := 1 },
    given_takes _ _,
    by decide⟩

theorem meets_fencesMoveEpochsAndRoutesAreStaged_3 : ∃ (s : State) (k : Packet),
      s.takes k = false :=
  ⟨live, word (.fence 1 0 1 false 8 20),
    by decide⟩

theorem meets_fencesMoveEpochsAndRoutesAreStaged_4 : ∃ (s : State) (src : BitVec 14) (stream : BitVec 16) (e : SeqEnt),
      s.seqEnt (seqKey src stream) = some e ∧
      e.pend = none :=
  ⟨hearing [(seqKey 3 1, { epoch := 0, last := 0 })], 3, 1, { epoch := 0, last := 0 },
    by decide⟩

theorem meets_fencesMoveEpochsAndRoutesAreStaged_5 : ∃ (s : State) (src : BitVec 14) (stream : BitVec 16) (e : SeqEnt) (f : PendFence),
      s.seqEnt (seqKey src stream) = some e ∧
      e.pend = some f ∧
      (∀ n < 9, (s.port n).hold = []) :=
  ⟨hearing [(seqKey 3 1, { epoch := 0, last := 1, pend := some { newEpoch := 1, limit := 8, base := 20 } })], 3, 1, { epoch := 0, last := 1, pend := some { newEpoch := 1, limit := 8, base := 20 } }, { newEpoch := 1, limit := 8, base := 20 },
    by decide⟩

theorem meets_fencesMoveEpochsAndRoutesAreStaged_6 : ∃ (s : State) (c : Cmd) (t : State) (v : Nat),
      Writes s c .apply t .lnkRtCmd v ∧
      (∀ p < 8, (t.recov p).migration = none) :=
  ⟨live, host (wr 0xC00018 1), next live (wr 0xC00018 1), State.wouldBe (next live (wr 0xC00018 1)) .lnkRtCmd (wr 0xC00018 1),
    writes_of _ _ _ _ (by decide),
    by decide⟩

theorem meets_fencesMoveEpochsAndRoutesAreStaged_7 : ∃ (s : State) (c : Cmd) (t : State) (v : Nat),
      Writes s c .discardStaged t .lnkRtCmd v :=
  ⟨live, host (wr 0xC00018 2), next live (wr 0xC00018 2), State.wouldBe (next live (wr 0xC00018 2)) .lnkRtCmd (wr 0xC00018 2),
    writes_of _ _ _ _ (by decide)⟩

theorem meets_fencesMoveEpochsAndRoutesAreStaged_8 : ∃ (s : State) (c : Cmd) (t : State) (v : Nat),
      Writes s c .setrank t .lnkRtCmd v :=
  ⟨live, host (wr 0xC00018 0x30003), next live (wr 0xC00018 0x30003), State.wouldBe (next live (wr 0xC00018 0x30003)) .lnkRtCmd (wr 0xC00018 0x30003),
    writes_of _ _ _ _ (by decide)⟩

theorem meets_sectorsAreReadWrittenAndLogged_0 : ∃ (s : State) (k : Stack) (sec : Nat) (_rid : Nat) (_who : Requester),
      s.isOn (48 + k.val) = true ∧
      sec < sectorsPerStack ∧
      (s.stack k.val).failed = false ∧
      (s.stack k.val).isRetired (32 * sec) = false ∧
      s.isPoison (sectorOf k.val sec) = false :=
  ⟨live, 11, 9, 0, .peel,
    by decide⟩

theorem meets_sectorsAreReadWrittenAndLogged_1 : ∃ (s : State) (k : Stack) (sec : Nat) (rid : Nat) (y : Nat) (w : Nat) (who : Requester),
      s.isOn (48 + k.val) = true ∧
      sec < sectorsPerStack ∧
      (s.stack k.val).failed = false ∧
      (s.stack k.val).isRetired (32 * sec) = false ∧
      s.isPoison (sectorOf k.val sec) = false ∧
      (s.stack k.val).mergeMask sec ≠ BitVec.allOnes 32 ∧
      w = logWord (tget s.hkp.memSeq 0 k.val).toNat s.hkp.count 1 (32 * sec) y (reqCode who) (if who = .hubControl then 0 else rid) :=
  ⟨live, 11, 9, 0, 3, logWord (tget live.hkp.memSeq 0 11).toNat live.hkp.count 1 (32 * 9) 3 (reqCode .peel) 0, .peel,
    front4 (by decide) ⟨by decide,
    by decide,
    rfl⟩⟩

theorem meets_sectorsAreReadWrittenAndLogged_2 : ∃ (s : State) (k : Stack) (sec : Nat) (rid : Nat) (w : Nat) (_n : Nat) (who : Requester),
      s.isOn (48 + k.val) = true ∧
      sec < sectorsPerStack ∧
      (s.stack k.val).failed = false ∧
      (s.stack k.val).isRetired (32 * sec) = false ∧
      (s.stack k.val).mergeMask sec ≠ BitVec.allOnes 32 ∧
      s.isOn 78 = true ∧
      s.qrs.evBuf.length < evBufMax ∧
      w = logWord (tget s.hkp.memSeq 0 k.val).toNat s.hkp.count 2 (32 * sec) 63 (reqCode who) (if who = .hubControl then 0 else rid) :=
  ⟨live, 11, 9, 0, logWord (tget live.hkp.memSeq 0 11).toNat live.hkp.count 2 (32 * 9) 63 (reqCode .peel) 0, 2, .peel,
    front4 (by decide) ⟨by decide,
    by decide,
    by decide,
    rfl⟩⟩

theorem meets_sectorsAreReadWrittenAndLogged_3 : ∃ (s : State) (k : Stack) (sec : Nat) (rid : Nat) (w : Nat) (who : Requester) (_e : ErrPat),
      s.isOn (48 + k.val) = true ∧
      sec < sectorsPerStack ∧
      (s.stack k.val).failed = false ∧
      (s.stack k.val).isRetired (32 * sec) = true ∧
      w = logWord (tget s.hkp.memSeq 0 k.val).toNat s.hkp.count 7 (32 * sec) 63 (reqCode who) (if who = .hubControl then 0 else rid) :=
  ⟨stacked { retire := [{ bank := true, pc := 0, bankNo := 0, row := 0 }] }, 11, 0, 0, logWord (tget (stacked { retire := [{ bank := true, pc := 0, bankNo := 0, row := 0 }] }).hkp.memSeq 0 11).toNat (stacked { retire := [{ bank := true, pc := 0, bankNo := 0, row := 0 }] }).hkp.count 7 (32 * 0) 63 (reqCode .peel) 0, .peel, .none,
    front4 (by decide) (rfl)⟩

theorem meets_sectorsAreReadWrittenAndLogged_4 : ∃ (s : State) (k : Stack) (sec : Nat) (_rid : Nat) (_who : Requester) (_e : ErrPat),
      s.isOn (48 + k.val) = true ∧
      sec < sectorsPerStack ∧
      (s.stack k.val).failed = true :=
  ⟨stacked { failed := true }, 11, 9, 0, .peel, .none,
    by decide⟩

theorem meets_sectorsAreReadWrittenAndLogged_5 : ∃ (s : State) (k : Stack) (sec : Nat) (_rid : Nat) (_who : Requester) (b : List (Option Byte)) (m : BitVec 32),
      s.isOn (48 + k.val) = true ∧
      sec < sectorsPerStack ∧
      b.length = 32 ∧
      (s.stack k.val).failed = false ∧
      (s.stack k.val).isRetired (32 * sec) = false ∧
      m = (s.stack k.val).mergeMask sec ||| enableMask b ∧
      ((s.stack k.val).merge.any (fun e => e.sector == sec) = true ∨ ((s.stack k.val).mergeOf (hbmCell (32 * sec)).1).length < mergeMax) :=
  ⟨live, 11, 9, 0, .peel, List.replicate 32 (some 1), (live.stack 11).mergeMask 9 ||| enableMask (List.replicate 32 (some 1)),
    front4 (by decide) ⟨by decide,
    rfl,
    by decide⟩⟩

theorem meets_sectorsAreReadWrittenAndLogged_6 : ∃ (s : State) (k : Stack) (sec : Nat) (_rid : Nat) (_who : Requester) (b : List (Option Byte)),
      s.isOn (48 + k.val) = true ∧
      sec < sectorsPerStack ∧
      b.length = 32 ∧
      ((s.stack k.val).failed = true ∨ (s.stack k.val).isRetired (32 * sec) = true) :=
  ⟨stacked { failed := true }, 11, 9, 0, .peel, List.replicate 32 (some 1),
    by decide⟩

theorem meets_sectorsAreReadWrittenAndLogged_7 : ∃ (s : State) (k : Stack) (sec : Nat) (_rid : Nat) (_who : Requester) (_e : ErrPat) (b : List (Option Byte)),
      s.isOn (48 + k.val) = false ∧
      sec < sectorsPerStack ∧
      b.length = 32 :=
  ⟨State.reset, 3, 0, 0, .peel, .none, List.replicate 32 none,
    by decide⟩

theorem meets_sectorsAreReadWrittenAndLogged_8 : ∃ (s : State) (k : Stack) (sec : Nat) (e : MergeEnt),
      (s.stack k.val).merge.find? (fun x => x.sector == sec) = some e ∧
      (s.stack k.val).failed = false ∧
      s.isPoison (sectorOf k.val sec) = false :=
  ⟨stacked { merge := [{ sector := 9, mask := 1, cls := .peel, rid := 0 }] }, 11, 9, { sector := 9, mask := 1, cls := .peel, rid := 0 },
    by decide⟩

theorem meets_sectorsAreReadWrittenAndLogged_9 : ∃ (s : State) (k : Stack) (sec : Nat) (_e : ErrPat),
      (s.stack k.val).merge.find? (fun x => x.sector == sec) = none :=
  ⟨live, 11, 9, .none,
    by decide⟩

theorem meets_stacksAreScrubbedAndRetired_0 : ∃ (s : State) (k : Stack),
      s.isOn (48 + k.val) = true ∧
      s.hkp.rung = 0 ∧
      (s.stack k.val).period ≠ 0 ∧
      (s.stack k.val).failed = false ∧
      s.isPoison (sectorOf k.val (s.stack k.val).scrubPos.toNat) = false :=
  ⟨live, 11,
    by decide⟩

theorem meets_stacksAreScrubbedAndRetired_1 : ∃ (s : State) (k : Stack) (_y : Nat),
      s.isOn (48 + k.val) = true ∧
      s.hkp.rung = 0 ∧
      (s.stack k.val).period ≠ 0 ∧
      (s.stack k.val).failed = false ∧
      s.isPoison (sectorOf k.val (s.stack k.val).scrubPos.toNat) = false ∧
      (s.stack k.val).isRetired (32 * (s.stack k.val).scrubPos.toNat) = false :=
  ⟨live, 11, 3,
    by decide⟩

theorem meets_stacksAreScrubbedAndRetired_2 : ∃ (s : State) (k : Stack) (_y : Nat),
      s.isOn (48 + k.val) = true ∧
      s.hkp.rung = 0 ∧
      (s.stack k.val).period ≠ 0 ∧
      (s.stack k.val).failed = false ∧
      (s.stack k.val).isRetired (32 * (s.stack k.val).scrubPos.toNat) = false :=
  ⟨stacked { period := 1 }, 11, 0,
    by decide⟩

theorem meets_stacksAreScrubbedAndRetired_3 : ∃ (s : State) (k : Stack) (_e : ErrPat),
      ((s.stack k.val).failed = true ∨ (s.stack k.val).period = 0 ∨ s.hkp.rung ≠ 0) :=
  ⟨stacked { failed := true }, 11, .none,
    by decide⟩

theorem meets_stacksAreScrubbedAndRetired_4 : ∃ (s : State) (k : Stack),
      (s.stack k.val).failed = false ∧
      s.isOn 78 = true ∧
      s.qrs.evBuf.length < evBufMax :=
  ⟨live, 11,
    by decide⟩

theorem meets_stacksAreScrubbedAndRetired_5 : ∃ (s : State) (k : Stack),
      (s.stack k.val).failed = true :=
  ⟨stacked { failed := true }, 11,
    by decide⟩

theorem meets_stacksAreScrubbedAndRetired_6 : ∃ (s : State) (c : Cmd) (t : State) (n : Nat) (v : Nat),
      Writes s c .addEntry t (.memRetire n) v ∧
      ((retireEntry v).bank = true ∨ (retireEntry v).row.toNat < 24576) ∧
      (t.stack n).retire.length < retireMax :=
  ⟨live, host (wr 0xA01B28 0x10005FFF), next live (wr 0xA01B28 0x10005FFF), 11, State.wouldBe (next live (wr 0xA01B28 0x10005FFF)) (.memRetire 11) (wr 0xA01B28 0x10005FFF),
    writes_of _ _ _ _ (by decide),
    by decide⟩

set_option Elab.async false in
theorem meets_stacksAreScrubbedAndRetired_7 : ∃ (s : State) (c : Cmd) (t : State) (n : Nat) (v : Nat),
      Writes s c .addEntry t (.memRetire n) v ∧
      ((retireEntry v).bank = true ∨ (retireEntry v).row.toNat < 24576) ∧
      retireMax ≤ (t.stack n).retire.length :=
  ⟨(stacked { retire := List.replicate 2048 (retireEntry 0) }), host (wr 0xA01B28 0x18007FFF), next (stacked { retire := List.replicate 2048 (retireEntry 0) }) (wr 0xA01B28 0x18007FFF), 11, State.wouldBe (next (stacked { retire := List.replicate 2048 (retireEntry 0) }) (wr 0xA01B28 0x18007FFF)) (.memRetire 11) (wr 0xA01B28 0x18007FFF),
    writes_of _ _ _ _ (by decide),
    by decide,
    by decide +kernel⟩

theorem meets_stacksAreScrubbedAndRetired_8 : ∃ (s : State) (c : Cmd) (t : State) (n : Nat) (v : Nat),
      Writes s c .addEntry t (.memRetire n) v ∧
      (retireEntry v).bank = false ∧
      24576 ≤ (retireEntry v).row.toNat :=
  ⟨live, host (wr 0xA01B28 0x10006000), next live (wr 0xA01B28 0x10006000), 11, State.wouldBe (next live (wr 0xA01B28 0x10006000)) (.memRetire 11) (wr 0xA01B28 0x10006000),
    writes_of _ _ _ _ (by decide),
    by decide⟩

theorem meets_stacksAreScrubbedAndRetired_9 : ∃ (s : State) (c : Cmd) (t : State) (n : Nat) (v : Nat),
      Writes s c .clearList t (.memRetire n) v :=
  ⟨live, host (wr 0xA01B28 0x20000000), next live (wr 0xA01B28 0x20000000), 11, State.wouldBe (next live (wr 0xA01B28 0x20000000)) (.memRetire 11) (wr 0xA01B28 0x20000000),
    writes_of _ _ _ _ (by decide)⟩

theorem meets_stacksAreScrubbedAndRetired_10 : ∃ (s : State) (c : Cmd) (t : State) (n : Nat) (v : Nat),
      Writes s c .setArmed t (.memRetire n) v :=
  ⟨live, host (wr 0xA01B28 0x30000000), next live (wr 0xA01B28 0x30000000), 11, State.wouldBe (next live (wr 0xA01B28 0x30000000)) (.memRetire 11) (wr 0xA01B28 0x30000000),
    writes_of _ _ _ _ (by decide)⟩

theorem meets_cellarPortsComeAndRequestsComplete_0 : ∃ (s : State) (c : Cmd) (t : State) (n : Nat) (v : Nat),
      Writes s c .cxlRetrain t (.cxlCtl n) v :=
  ⟨live, host (wr 0xB00300 1), next live (wr 0xB00300 1), 3, State.wouldBe (next live (wr 0xB00300 1)) (.cxlCtl 3) (wr 0xB00300 1),
    writes_of _ _ _ _ (by decide)⟩

theorem meets_cellarPortsComeAndRequestsComplete_1 : ∃ (s : State) (c : Cmd) (t : State) (n : Nat) (v : Nat),
      Writes s c .cxlTakeDown t (.cxlCtl n) v ∧
      (t.cxlPort n).state ≠ 0 :=
  ⟨(requested true), host (wr 0xB00300 2), next (requested true) (wr 0xB00300 2), 3, State.wouldBe (next (requested true) (wr 0xB00300 2)) (.cxlCtl 3) (wr 0xB00300 2),
    writes_of _ _ _ _ (by decide),
    by decide⟩

theorem meets_cellarPortsComeAndRequestsComplete_2 : ∃ (s : State) (n : CxlPort) (f : CxlFound),
      (s.cxlPort n.val).state = 1 ∧
      linkFits f = true ∧
      f.switch = false ∧
      (f.exps ≠ [] ∨ s.cxl.decoders = []) :=
  ⟨{ live with cxl := { ports := [(3, { state := 1 })] } }, 3, { lanes := 8, rate := 64, switch := false, exps := [{ dsp := 0, serial := 7, capG := 256 }] },
    by decide⟩

theorem meets_cellarPortsComeAndRequestsComplete_3 : ∃ (s : State) (n : CxlPort),
      (s.cxlPort n.val).state = 1 ∧
      s.cxl.decoders = [] ∧
      (s.cxlPort n.val).reqs = [] ∧
      (s.cxlPort n.val).wait = [] ∧
      (s.cxlPort n.val).retrain = false :=
  ⟨{ live with cxl := { ports := [(3, { state := 1 })] } }, 3,
    by decide⟩

theorem meets_cellarPortsComeAndRequestsComplete_4 : ∃ (s : State) (n : CxlPort),
      (s.cxlPort n.val).state = 1 ∧
      (s.cxlPort n.val).retrain = true ∧
      (s.cxlPort n.val).errValid = false :=
  ⟨{ live with cxl := { ports := [(3, { state := 1, retrain := true })] } }, 3,
    by decide⟩

theorem meets_cellarPortsComeAndRequestsComplete_5 : ∃ (s : State) (n : CxlPort) (_f : Option CxlFound),
      (s.cxlPort n.val).state ≠ 1 :=
  ⟨{ live with cxl := { ports := [(3, { state := 2 })] } }, 3, none,
    by decide⟩

theorem meets_cellarPortsComeAndRequestsComplete_6 : ∃ (s : State) (n : CxlPort) (_d : Fin 8),
      (s.cxlPort n.val).state = 2 ∧
      (s.cxlPort n.val).errValid = false ∧
      (∀ w, (s.window w).change = none) ∧
      s.isOn 78 = true ∧
      s.qrs.evBuf.length < evBufMax :=
  ⟨{ live with cxl := { ports := [(3, { state := 2 })] } }, 3, 1,
    by decide,
    by decide,
    fun _ => rfl,
    by decide⟩

theorem meets_cellarPortsComeAndRequestsComplete_7 : ∃ (s : State) (n : CxlPort) (_d : Fin 8),
      (s.cxlPort n.val).state = 2 :=
  ⟨{ live with cxl := { ports := [(3, { state := 2 })] } }, 3, 1,
    by decide⟩

theorem meets_cellarPortsComeAndRequestsComplete_8 : ∃ (s : State) (n : CxlPort) (d : Fin 8) (e : Exp),
      (s.cxlPort n.val).state = 2 ∧
      (s.cxlPort n.val).errValid = false ∧
      e ∈ (s.cxlPort n.val).exps ∧
      e.dsp = (s.cxlPort n.val).dsp d.val ∧
      e.failed = false :=
  ⟨{ live with cxl := { ports := [(3, { state := 2, exps := [{ dsp := 0, serial := 7, capG := 256, failed := false }] })] } }, 3, 1, { dsp := 0, serial := 7, capG := 256, failed := false },
    by decide⟩

theorem meets_cellarPortsComeAndRequestsComplete_9 : ∃ (s : State) (n : CxlPort) (i : Nat) (w : Nat) (line : Nat) (bid : BitVec 16) (r : CxlReq) (b : Burst),
      s.dueReq n.val i = some r ∧
      (s.cxlPort n.val).wait = [] ∧
      r.isWrite = true ∧
      r.owner = .peel w bid line ∧
      r.data.length = 64 ∧
      (∀ j < 64, s.place (r.addr + j) = .cellar) ∧
      (s.window w).bursts = [b] ∧
      (s.window w).change = none ∧
      b.bid = bid ∧
      b.waiting = [(line, i)] ∧
      b.isRead = false :=
  ⟨requested false, 3, 4, 7, 0, 1, request true, burst false,
    by decide⟩

theorem meets_cellarPortsComeAndRequestsComplete_10 : ∃ (s : State) (n : CxlPort) (i : Nat) (k : Nat) (j : Nat) (r : CxlReq),
      s.dueReq n.val i = some r ∧
      (s.cxlPort n.val).wait = [] ∧
      r.isWrite = true ∧
      r.owner = .op k j :=
  ⟨{ live with cxl := { ports := [(3, { state := 2, reqs := [{ request true with owner := .op 2 5 }] })] } }, 3, 4, 2, 5, { request true with owner := .op 2 5 },
    by decide⟩

theorem meets_cellarPortsComeAndRequestsComplete_11 : ∃ (s : State) (n : CxlPort) (i : Nat) (w : Nat) (line : Nat) (bid : BitVec 16) (r : CxlReq) (b : Burst),
      s.dueReq n.val i = some r ∧
      (s.cxlPort n.val).wait = [] ∧
      r.isWrite = false ∧
      r.data = [] ∧
      r.owner = .peel w bid line ∧
      (s.window w).bursts = [b] ∧
      (s.window w).change = none ∧
      b.bid = bid ∧
      b.waiting = [(line, i)] ∧
      b.isRead = true ∧
      0 < tget s.qrs.readCredits 0 w :=
  ⟨requested true, 3, 4, 7, 0, 1, request false, burst true,
    by decide⟩

theorem meets_cellarPortsComeAndRequestsComplete_12 : ∃ (s : State) (n : CxlPort) (i : Nat) (w : Nat) (line : Nat) (bid : BitVec 16) (r : CxlReq) (b : Burst),
      s.dueReq n.val i = some r ∧
      r.isWrite = false ∧
      r.owner = .peel w bid line ∧
      (s.window w).bursts = [b] ∧
      (s.window w).change = none ∧
      b.bid = bid ∧
      b.waiting = [(line, i)] ∧
      b.isRead = true ∧
      b.fcode = 0 ∧
      0 < tget s.qrs.readCredits 0 w ∧
      (s.cxlPort n.val).errValid = false :=
  ⟨requested true, 3, 4, 7, 0, 1, request false, burst true,
    by decide⟩

theorem meets_cellarPortsComeAndRequestsComplete_13 : ∃ (s : State) (n : CxlPort) (i : Nat),
      s.dueReq n.val i = none :=
  ⟨live, 3, 4,
    by decide⟩

theorem meets_cellarPortsComeAndRequestsComplete_14 : ∃ (s : State) (n : CxlPort) (i : Nat) (r : CxlReq) (_d : Option Nat),
      (s.cxlPort n.val).reqs = [r] ∧
      (s.cxlPort n.val).wait = [] ∧
      r.id = i ∧
      (s.cxlPort n.val).errValid = false ∧
      (∀ w, (s.window w).change = none) :=
  ⟨{ live with cxl := { ports := [(3, { state := 2, reqs := [request false] })] } }, 3, 4, request false, none,
    front4 (by decide) (fun _ => rfl)⟩

theorem meets_cellarPortsComeAndRequestsComplete_15 : ∃ (s : State) (n : CxlPort) (i : Nat) (a : Nat) (d : DecRec),
      (s.cxlPort n.val).reqs.find? (fun r => r.id == i) = none ∧
      s.decoderAt a = some d ∧
      (decTarget d a).1 = n.val ∧
      (s.cxlPort n.val).state = 2 ∧
      (s.cxlPort n.val).errValid = false :=
  ⟨{ live with cxl := { decoders := [{ index := 0, base := 0, size := 1, pways := 0, eways := 0, gran := 0, ports := [3], ring := false, dsps := [[0]] }], ports := [(3, { state := 2 })] } }, 3, 4, cellarBase, { index := 0, base := 0, size := 1, pways := 0, eways := 0, gran := 0, ports := [3], ring := false, dsps := [[0]] },
    by decide⟩

theorem meets_cellarPortsComeAndRequestsComplete_16 : ∃ (s : State) (n : CxlPort) (i : Nat),
      (s.cxlPort n.val).reqs.find? (fun r => r.id == i) = none :=
  ⟨live, 3, 4,
    by decide⟩

theorem meets_snapshotsAreHeldAndTwinned_0 : ∃ (s : State) (c : Cmd) (t : State) (p : Nat) (v : Nat),
      Writes s c .snpCtl t (.snpCtl p) v ∧
      (t.part p).opened (BitVec.ofNat 32 (fieldOf v 63 32)) = true :=
  ⟨(held { everOpen := true, openReg := 7 }), host (wr 0xD00000 0x700040001), next (held { everOpen := true, openReg := 7 }) (wr 0xD00000 0x700040001), 0, State.wouldBe (next (held { everOpen := true, openReg := 7 }) (wr 0xD00000 0x700040001)) (.snpCtl 0) (wr 0xD00000 0x700040001),
    writes_of _ _ _ _ (by decide),
    by decide⟩

theorem meets_snapshotsAreHeldAndTwinned_1 : ∃ (s : State) (c : Cmd) (t : State) (p : Nat) (v : Nat),
      Writes s c .snpCtl t (.snpCtl p) v ∧
      (t.part p).opened (BitVec.ofNat 32 (fieldOf v 63 32)) = false :=
  ⟨(held { everOpen := true, openReg := 7 }), host (wr 0xD00000 0x800040001), next (held { everOpen := true, openReg := 7 }) (wr 0xD00000 0x800040001), 0, State.wouldBe (next (held { everOpen := true, openReg := 7 }) (wr 0xD00000 0x800040001)) (.snpCtl 0) (wr 0xD00000 0x800040001),
    writes_of _ _ _ _ (by decide),
    by decide⟩

theorem meets_snapshotsAreHeldAndTwinned_2 : ∃ (s : State) (c : Cmd) (t : State) (v : Nat) (i : Nat),
      Writes s c .hostack t .snpCmd v ∧
      t.slotOf (snpCmdPart v) (snpCmdStep v) = some i ∧
      (t.snap (snpCmdPart v)).by_ = 0 ∧
      t.isOn 78 = true ∧
      t.qrs.evBuf.length < evBufMax :=
  ⟨(ringed { ringOk := true, slots := [(1, holds5)] }), host (wr 0xD01000 0x500000001), next (ringed { ringOk := true, slots := [(1, holds5)] }) (wr 0xD01000 0x500000001), State.wouldBe (next (ringed { ringOk := true, slots := [(1, holds5)] }) (wr 0xD01000 0x500000001)) .snpCmd (wr 0xD01000 0x500000001), 1,
    writes_of _ _ _ _ (by decide),
    by decide⟩

theorem meets_snapshotsAreHeldAndTwinned_3 : ∃ (s : State) (c : Cmd) (t : State) (v : Nat),
      Writes s c .hostack t .snpCmd v ∧
      t.slotOf (snpCmdPart v) (snpCmdStep v) = none :=
  ⟨live, host (wr 0xD01000 0x500000001), next live (wr 0xD01000 0x500000001), State.wouldBe (next live (wr 0xD01000 0x500000001)) .snpCmd (wr 0xD01000 0x500000001),
    writes_of _ _ _ _ (by decide),
    by decide⟩

theorem meets_snapshotsAreHeldAndTwinned_5 : ∃ (s : State) (k : Packet) (d : List Byte) (base : Nat) (size : Nat) (x : TwinSlot) (w : State),
      s.takes k = true ∧
      k.body = .snap 0 0 d ∧
      s.twinStore = some (base, size) ∧
      s.twinRank = some k.src.toNat ∧
      s.snapRuns = true ∧
      s.twinOpen k.part.val k.step = none ∧
      x = { part := k.part.val, alt := twinAlt s.rreg.twin k.part.val, step := k.step } ∧
      shardsAt + d.length ≤ size / twinSlots ∧
      State.write { s with inbox := s.inbox.erase k } .snapshot (twinAddr base size x shardsAt) d = (w, none) ∧
      w.twinOpen k.part.val k.step = none :=
  ⟨given (twinned { ringOk := true }) (answer (.snap 0 0 [7])), answer (.snap 0 0 [7]), [7], 0x1000000, 0x2000000, { part := 0, alt := twinAlt (given (twinned { ringOk := true }) (answer (.snap 0 0 [7]))).rreg.twin 0, step := 5 }, (State.write { (given (twinned { ringOk := true }) (answer (.snap 0 0 [7]))) with inbox := (given (twinned { ringOk := true }) (answer (.snap 0 0 [7]))).inbox.erase (answer (.snap 0 0 [7])) } .snapshot (twinAddr 0x1000000 0x2000000 { part := 0, alt := twinAlt (given (twinned { ringOk := true }) (answer (.snap 0 0 [7]))).rreg.twin 0, step := 5 } shardsAt) [7]).1,
    given_takes _ _,
    front4 (by decide) ⟨by decide,
    rfl,
    by decide,
    pair_none _ (by decide),
    by decide⟩⟩

theorem meets_snapshotsAreHeldAndTwinned_6 : ∃ (s : State) (k : Packet) (d : List Byte) (base : Nat) (size : Nat) (x : TwinSlot) (y : TwinSlot) (w : State) (v : State) (m : Manifest),
      s.takes k = true ∧
      k.body = .snap midxManifest 0 d ∧
      s.twinStore = some (base, size) ∧
      s.twinRank = some k.src.toNat ∧
      s.snapRuns = true ∧
      s.twinOpen k.part.val k.step = some x ∧
      x.bad = false ∧
      tget x.lens 0 midxManifest ≤ d.length ∧
      y = { x with lens := tset x.lens 0 midxManifest d.length } ∧
      d.length ≤ size / twinSlots ∧
      State.write { s with inbox := s.inbox.erase k } .snapshot (twinAddr base size x 0) d = (w, none) ∧
      w.snapRead (twinAddr base size y 0) d.length = (w, some d) ∧
      manifestLen 0 ≤ d.length ∧
      manifestLen (leNat ((d.drop 16).take 4)) ≤ d.length ∧
      manifestOf d = some m ∧
      m.step = k.step ∧
      m.part = k.part.val ∧
      w.shardsVerify (twinAddr base size y) m = (v, true) ∧
      (v.port portT).state = .up ∧
      (v.port portT).ctl = [] ∧
      (v.port portT).flits.length < replayMax :=
  ⟨given twinning twinWord, twinWord, manifestBytes manifest0, 0x1000000, 0x2000000, twinSlot0, twinSlot1, twinWritten, twinWritten, manifest0,
    given_takes _ _,
    rfl,
    front4 (by decide +kernel) ⟨by decide +kernel,
    by decide +kernel,
    rfl,
    by decide +kernel,
    pair_none _ (by decide +kernel),
    (snap_ok _ _ _ (by decide +kernel)).trans (congrArg (fun x => (twinWritten, some x)) (by decide +kernel)),
    front4 (by decide +kernel) ⟨by decide +kernel,
    rfl,
    by decide +kernel⟩⟩⟩

theorem meets_snapshotsAreHeldAndTwinned_7 : ∃ (s : State) (k : Packet) (i : Nat) (j : Nat) (d : List Byte),
      s.takes k = true ∧
      k.body = .snap i j d ∧
      s.twinRank ≠ some k.src.toNat :=
  ⟨given (live) (word (.snap 0 0 [7])), word (.snap 0 0 [7]), 0, 0, [7],
    given_takes _ _,
    by decide⟩

theorem meets_snapshotsAreHeldAndTwinned_8 : ∃ (s : State) (k : Packet) (i : Nat),
      s.takes k = true ∧
      k.body = .snapAck ∧
      s.twinRank = some k.src.toNat ∧
      (s.snap k.part.val).taken ≠ 0xFFFFFFFF ∧
      newer k.step (s.snap k.part.val).taken = false ∧
      (s.snap k.part.val).by_ = 0 ∧
      s.slotOf k.part.val k.step = some i ∧
      s.isOn 78 = true ∧
      s.qrs.evBuf.length < evBufMax :=
  ⟨given (twinned { ringOk := true, taken := 5, slots := [(1, holds5)] }) (answer .snapAck), answer .snapAck, 1,
    given_takes _ _,
    by decide⟩

theorem meets_snapshotsAreHeldAndTwinned_9 : ∃ (s : State) (k : Packet) (i : Nat),
      s.takes k = true ∧
      k.body = .snapNak ∧
      s.twinRank = some k.src.toNat ∧
      ((s.snap k.part.val).secured ≠ k.step ∨ (s.snap k.part.val).by_ = 0) ∧
      s.slotOf k.part.val k.step = some i :=
  ⟨given (twinned { ringOk := true, taken := 5, slots := [(1, holds5)] }) (answer .snapNak), answer .snapNak, 1,
    given_takes _ _,
    by decide⟩

theorem meets_snapshotsAreHeldAndTwinned_10 : ∃ (s : State) (k : Packet),
      s.takes k = false :=
  ⟨live, answer .snapAck,
    by decide⟩

theorem meets_recoveryEpochsOnlyRise_2 : ∃ (s : State) (c : Cmd) (t : State) (v : Nat),
      Writes s c .fenceSelf t .rcvCmd v ∧
      newer (rcvEpoch v) (t.recov (rcvPart v)).repoch = true ∧
      t.dev.fenced = false :=
  ⟨(recovering {}), host (wr 0xD01010 0x500050001), next (recovering {}) (wr 0xD01010 0x500050001), State.wouldBe (next (recovering {}) (wr 0xD01010 0x500050001)) .rcvCmd (wr 0xD01010 0x500050001),
    writes_of _ _ _ _ (by decide),
    by decide⟩

theorem meets_recoveryEpochsOnlyRise_3 : ∃ (s : State) (c : Cmd) (t : State) (v : Nat),
      Writes s c .fenceSelf t .rcvCmd v ∧
      newer (rcvEpoch v) (t.recov (rcvPart v)).repoch = true ∧
      t.dev.fenced = false ∧
      (∀ p < 8, (t.part p).state = .empty) ∧
      t.isOn 78 = true ∧
      t.qrs.evBuf.length < evBufMax :=
  ⟨live, host (wr 0xD01010 0x500050001), next live (wr 0xD01010 0x500050001), State.wouldBe (next live (wr 0xD01010 0x500050001)) .rcvCmd (wr 0xD01010 0x500050001),
    writes_of _ _ _ _ (by decide),
    by decide⟩

theorem meets_recoveryCommandsAct_0 : ∃ (s : State) (c : Cmd) (t : State) (v : Nat) (p : Nat),
      Writes s c .rollback t .rcvCmd v ∧
      p = rcvPart v ∧
      newer (rcvEpoch v) (t.recov p).repoch = true ∧
      (t.recov p).migration = none ∧
      t.isSealRoot p = true ∧
      t.recoverable p = true ∧
      (t.part p).everOpen = true :=
  ⟨(sealed [0, 3] 0 stepping {}), host (wr 0xD01010 0x500050002), next (sealed [0, 3] 0 stepping {}) (wr 0xD01010 0x500050002), State.wouldBe (next (sealed [0, 3] 0 stepping {}) (wr 0xD01010 0x500050002)) .rcvCmd (wr 0xD01010 0x500050002), 0,
    writes_of _ _ _ _ (by decide),
    by decide⟩

theorem meets_recoveryCommandsAct_1 : ∃ (s : State) (c : Cmd) (t : State) (v : Nat) (p : Nat),
      Writes s c .restore t .rcvCmd v ∧
      p = rcvPart v ∧
      newer (rcvEpoch v) (t.recov p).repoch = true ∧
      t.recoverable p = true :=
  ⟨(recovering {}), host (wr 0xD01010 0x500050003), next (recovering {}) (wr 0xD01010 0x500050003), State.wouldBe (next (recovering {}) (wr 0xD01010 0x500050003)) .rcvCmd (wr 0xD01010 0x500050003), 0,
    writes_of _ _ _ _ (by decide),
    by decide⟩

theorem meets_recoveryCommandsAct_2 : ∃ (s : State) (c : Cmd) (t : State) (v : Nat) (p : Nat),
      Writes s c .fill t .rcvCmd v ∧
      p = rcvPart v ∧
      newer (rcvEpoch v) (t.recov p).repoch = true ∧
      t.recoverable p = true :=
  ⟨(recovering {}), host (wr 0xD01010 0x500050004), next (recovering {}) (wr 0xD01010 0x500050004), State.wouldBe (next (recovering {}) (wr 0xD01010 0x500050004)) .rcvCmd (wr 0xD01010 0x500050004), 0,
    writes_of _ _ _ _ (by decide),
    by decide⟩

theorem meets_recoveryCommandsAct_3 : ∃ (s : State) (c : Cmd) (t : State) (v : Nat) (p : Nat),
      Writes s c .migrateDrain t .rcvCmd v ∧
      p = rcvPart v ∧
      newer (rcvEpoch v) (t.recov p).repoch = true ∧
      (t.recov p).state = 0 ∧
      t.recoverable p = true ∧
      ((t.part p).everOpen = false ∨ newer (t.part p).openReg (rcvStep v) = false) :=
  ⟨(recovering {}), host (wr 0xD01010 0x500050005), next (recovering {}) (wr 0xD01010 0x500050005), State.wouldBe (next (recovering {}) (wr 0xD01010 0x500050005)) .rcvCmd (wr 0xD01010 0x500050005), 0,
    writes_of _ _ _ _ (by decide),
    by decide⟩

theorem meets_recoveryCommandsAct_4 : ∃ (s : State) (c : Cmd) (t : State) (v : Nat) (p : Nat),
      Writes s c .migrateDrain t .rcvCmd v ∧
      p = rcvPart v ∧
      newer (rcvEpoch v) (t.recov p).repoch = true ∧
      (t.recov p).state = 0 ∧
      (t.part p).everOpen = true ∧
      newer (t.part p).openReg (rcvStep v) = true :=
  ⟨(sealed [0, 3] 0 { stepping with openReg := 6 } {}), host (wr 0xD01010 0x500050005), next (sealed [0, 3] 0 { stepping with openReg := 6 } {}) (wr 0xD01010 0x500050005), State.wouldBe (next (sealed [0, 3] 0 { stepping with openReg := 6 } {}) (wr 0xD01010 0x500050005)) .rcvCmd (wr 0xD01010 0x500050005), 0,
    writes_of _ _ _ _ (by decide),
    by decide⟩

theorem meets_recoveryCommandsAct_5 : ∃ (s : State) (c : Cmd) (t : State) (v : Nat) (p : Nat),
      Writes s c .migrateDiscard t .rcvCmd v ∧
      p = rcvPart v ∧
      newer (rcvEpoch v) (t.recov p).repoch = true ∧
      (t.recov p).state = 0 ∧
      t.recoverable p = true :=
  ⟨(recovering {}), host (wr 0xD01010 0x500050006), next (recovering {}) (wr 0xD01010 0x500050006), State.wouldBe (next (recovering {}) (wr 0xD01010 0x500050006)) .rcvCmd (wr 0xD01010 0x500050006), 0,
    writes_of _ _ _ _ (by decide),
    by decide⟩

theorem meets_fillsAreServedAndVerified_0 : ∃ (s : State) (k : Packet) (e : BitVec 16) (rank : BitVec 14) (coord : BitVec 14) (i : Nat) (m : Nat) (dim : Option Nat) (d : List Byte) (u : State),
      s.takes k = true ∧
      k.body = .fillReq e rank i 0 coord ∧
      s.dev.hub78 = false ∧
      s.isOn 78 = true ∧
      rank = s.lnk.rank ∧
      newer (s.recov k.part.val).repoch e = false ∧
      i ≠ 0x3FFF ∧
      State.ownServes { s with inbox := s.inbox.erase k } k.part.val k.step i = (u, some d) ∧
      0 < d.length ∧
      d.length ≤ 4096 ∧
      u.hop none coord 0 = .out m dim ∧
      (u.port m).state = .up ∧
      (u.port m).ctl = [] ∧
      (u.port m).pay = [] ∧
      (u.port m).flits.length + 11 ≤ replayMax :=
  ⟨given migrating { answer (.fillReq 5 0 0 0 0x2000) with src := 3, step := 0 }, { answer (.fillReq 5 0 0 0 0x2000) with src := 3, step := 0 }, 5, 0, 0x2000, 0, 8, none, schedBytes shard0, migrating,
    given_takes _ _,
    front4 (by decide) ⟨by decide,
    by decide,
    rfl,
    (by rw [schedBytes_length]; decide),
    (by rw [schedBytes_length]; decide),
    by decide⟩⟩

theorem meets_fillsAreServedAndVerified_1 : ∃ (s : State) (k : Packet) (e : BitVec 16) (rank : BitVec 14) (coord : BitVec 14) (i : Nat) (m : Nat) (dim : Option Nat) (d : List Byte) (u : State),
      s.takes k = true ∧
      k.body = .fillReq e rank i 0 coord ∧
      s.dev.hub78 = false ∧
      s.isOn 78 = true ∧
      rank ≠ s.lnk.rank ∧
      i ≠ 0x3FFF ∧
      State.twinServes { s with inbox := s.inbox.erase k } k.part.val k.step i = (u, some d) ∧
      0 < d.length ∧
      d.length ≤ 4096 ∧
      u.hop none coord 0 = .out m dim ∧
      (u.port m).state = .up ∧
      (u.port m).ctl = [] ∧
      (u.port m).pay = [] ∧
      (u.port m).flits.length + 11 ≤ replayMax :=
  ⟨given twinHolds (answer (.fillReq 5 1 0 0 0x2000)), answer (.fillReq 5 1 0 0 0x2000), 5, 1, 0x2000, 0, 8, none, [0], twinServed.1,
    given_takes _ _,
    front4 (by decide +kernel) ⟨by decide +kernel,
    some_pair _ _ (by decide +kernel),
    by decide +kernel⟩⟩

theorem meets_fillsAreServedAndVerified_2 : ∃ (s : State) (k : Packet) (e : BitVec 16) (rank : BitVec 14) (coord : BitVec 14) (i : Nat) (off : Nat),
      s.takes k = true ∧
      k.body = .fillReq e rank i off coord ∧
      rank = s.lnk.rank ∧
      newer (s.recov k.part.val).repoch e = true :=
  ⟨given (recovering { repoch := 6 }) { answer (.fillReq 5 0 0 0 0x2000) with src := 3, step := 0 }, { answer (.fillReq 5 0 0 0 0x2000) with src := 3, step := 0 }, 5, 0, 0x2000, 0, 0,
    given_takes _ _,
    by decide⟩

theorem meets_fillsAreServedAndVerified_3 : ∃ (s : State) (k : Packet) (e : BitVec 16) (i : Nat) (off : Nat) (d : List Byte) (m : Manifest) (x : FillEnt),
      s.takes k = true ∧
      k.body = .fill e i off d ∧
      e = (s.recov k.part.val).repoch ∧
      ((s.recov k.part.val).state = 2 ∨ (s.recov k.part.val).state = 3) ∧
      (s.recov k.part.val).manifest = some m ∧
      (s.recov k.part.val).map.find? (fun y => y.midx == i && y.state == 1 && y.src != .host) = some x ∧
      off * 4096 = x.data.length :=
  ⟨given (recovering (filling .twin)) (answer (.fill 0 0 0 [7])), answer (.fill 0 0 0 [7]), 0, 0, 0, [7], manifest0, entry .twin,
    given_takes _ _,
    by decide⟩

theorem meets_fillsAreServedAndVerified_4 : ∃ (s : State) (k : Packet) (e : BitVec 16) (i : Nat) (n : Nat) (m : Manifest) (x : FillEnt),
      s.takes k = true ∧
      k.body = .fillEnd e i n false ∧
      e = (s.recov k.part.val).repoch ∧
      ((s.recov k.part.val).state = 2 ∨ (s.recov k.part.val).state = 3) ∧
      (s.recov k.part.val).manifest = some m ∧
      (s.recov k.part.val).map.find? (fun y => y.midx == i && y.state == 1 && y.src != .host) = some x :=
  ⟨given (recovering (filling .twin)) (answer (.fillEnd 0 0 1 false)), answer (.fillEnd 0 0 1 false), 0, 0, 1, manifest0, entry .twin,
    given_takes _ _,
    by decide⟩

theorem meets_fillsAreServedAndVerified_6 : ∃ (s : State) (p : Part),
      ((s.recov p.val).state = 2 ∨ (s.recov p.val).state = 3) ∧
      (s.recov p.val).manifest = none ∧
      (s.recov p.val).manifestSrc ≠ .host ∧
      (s.recov p.val).laterSrc = none ∧
      s.isOn 78 = true ∧
      s.qrs.evBuf.length < evBufMax :=
  ⟨recovering { state := 2, manifestSrc := .twin, skip := [.host] }, 0,
    by decide⟩

theorem meets_fillsAreServedAndVerified_7 : ∃ (s : State) (p : Part),
      (s.recov p.val).state = 0 :=
  ⟨live, 0,
    by decide⟩

theorem meets_fillsAreServedAndVerified_8 : ∃ (s : State) (k : Packet),
      s.takes k = false :=
  ⟨live, { answer (.fillReq 5 0 0 0 0x2000) with src := 3, step := 0 },
    by decide⟩

theorem meets_fillsAreServedAndVerified_9 : ∃ (s : State) (c : Cmd) (t : State) (v : Nat) (p : Nat) (i : Nat) (m : Manifest) (x : FillEnt) (b : List Byte) (w : State) (u : State),
      Writes s c .hostfill t .rcvCmd v ∧
      p = rcvPart v ∧
      i = argMidx t.rreg.rcvArg ∧
      rcvEpoch v = (t.recov p).repoch ∧
      ((t.recov p).state = 2 ∨ (t.recov p).state = 3) ∧
      w = (t.putReg v .rcvCmd).rcvStatus p 0 ∧
      (t.recov p).manifest = some m ∧
      (t.recov p).map.find? (fun e => e.midx == i && e.state == 1 && e.src == .host) = some x ∧
      w.snapRead (w.hostAt p i (m.soff i) + x.done) (x.len - x.done) = (u, some b) :=
  ⟨hostWaits, host (wr 0xD01010 7), next hostWaits (wr 0xD01010 7), State.wouldBe (next hostWaits (wr 0xD01010 7)) .rcvCmd (wr 0xD01010 7), 0, 0, manifest0, entry .host, hostReads.readBytes hostPlace 1, hostReads, hostReads,
    writes_of _ _ _ _ (by decide),
    front4 (by decide) ⟨rfl,
    by decide,
    by decide,
    snap_ok _ _ _ (by decide)⟩⟩

theorem meets_fillsAreServedAndVerified_10 : ∃ (s : State) (c : Cmd) (t : State) (v : Nat) (p : Nat),
      Writes s c .hostfill t .rcvCmd v ∧
      p = rcvPart v ∧
      rcvEpoch v ≠ (t.recov p).repoch :=
  ⟨live, host (wr 0xD01010 0x50007), next live (wr 0xD01010 0x50007), State.wouldBe (next live (wr 0xD01010 0x50007)) .rcvCmd (wr 0xD01010 0x50007), 0,
    writes_of _ _ _ _ (by decide),
    by decide⟩

theorem meets_restoredPartitionsResume_0 : ∃ (s : State) (k : Packet) (e : BitVec 16),
      s.takes k = true ∧
      k.body = .restored e ∧
      newer (s.recov k.part.val).repoch e = false ∧
      s.knd.restoredWords.contains (k.part.val, e, k.src.toNat) = false ∧
      (s.recov k.part.val).state ≠ 4 :=
  ⟨given (live) (word (.restored 0)), word (.restored 0), 0,
    given_takes _ _,
    by decide⟩

theorem meets_restoredPartitionsResume_1 : ∃ (s : State) (k : Packet) (e : BitVec 16),
      s.takes k = true ∧
      k.body = .restored e ∧
      newer (s.recov k.part.val).repoch e = true :=
  ⟨given (recovering { repoch := 6 }) (word (.restored 0)), word (.restored 0), 0,
    given_takes _ _,
    by decide⟩

theorem meets_restoredPartitionsResume_2 : ∃ (s : State) (k : Packet) (e : BitVec 16),
      s.takes k = true ∧
      k.body = .restored e ∧
      e = (s.recov k.part.val).repoch ∧
      s.knd.restoredWords.contains (k.part.val, e, k.src.toNat) = false ∧
      (s.recov k.part.val).state = 4 ∧
      (s.recov k.part.val).restoredSent = false ∧
      s.sealParent k.part.val s.lnk.rank.toNat = none ∧
      s.isSealRoot k.part.val = true ∧
      (∀ r ∈ s.sealChildren k.part.val, r = k.src.toNat ∨ s.restoredHeard k.part.val r = true) ∧
      s.hkp.timersOn = true ∧
      s.dev.hub79 = false :=
  ⟨given (recovering { state := 4 }) (word (.restored 0)), word (.restored 0), 0,
    given_takes _ _,
    front4 (by decide) ⟨by decide,
    (parent_two _ 0 0 3 rfl (by decide)).2,
    by decide,
    (fun r hr => Or.inl (children_two _ 0 0 3 rfl (by decide) rfl r hr)),
    by decide⟩⟩

theorem meets_restoredPartitionsResume_3 : ∃ (s : State) (k : Packet) (e : BitVec 16),
      s.takes k = true ∧
      k.body = .resume e ∧
      e = (s.recov k.part.val).repoch ∧
      (s.recov k.part.val).state = 4 ∧
      s.sealParent k.part.val s.lnk.rank.toNat = some k.src.toNat ∧
      s.hkp.timersOn = true ∧
      s.dev.hub79 = false :=
  ⟨given ({ recovering { state := 4 } with lnk := { rank := 3 } }) { word (.resume 0) with src := 0 }, { word (.resume 0) with src := 0 }, 0,
    given_takes _ _,
    by decide,
    by decide,
    by decide,
    (parent_two _ 0 0 3 rfl (by decide)).1,
    by decide⟩

theorem meets_restoredPartitionsResume_4 : ∃ (s : State) (k : Packet) (l : List (BitVec 16 × BitVec 16 × BitVec 32)) (g : Migration),
      s.takes k = true ∧
      k.body = .handover l ∧
      k.src = s.lnk.rank ∧
      s.recoverable k.part.val = true ∧
      (s.recov k.part.val).state = 5 ∧
      (s.recov k.part.val).migration = some g ∧
      (s.recov k.part.val).manifest = none :=
  ⟨given (recovering { state := 5, migration := some { drain := true, m := 5, spare := 0, handedOver := false } }) { word (.handover [(1, 0, 9)]) with src := 0 }, { word (.handover [(1, 0, 9)]) with src := 0 }, [(1, 0, 9)], { drain := true, m := 5, spare := 0, handedOver := false },
    given_takes _ _,
    by decide⟩

theorem meets_restoredPartitionsResume_5 : ∃ (s : State) (k : Packet) (l : List (BitVec 16 × BitVec 16 × BitVec 32)),
      s.takes k = true ∧
      k.body = .handover l ∧
      k.src = s.lnk.rank ∧
      s.recoverable k.part.val = true ∧
      (s.recov k.part.val).state = 0 :=
  ⟨given (recovering {}) { word (.handover [(1, 0, 9)]) with src := 0 }, { word (.handover [(1, 0, 9)]) with src := 0 }, [(1, 0, 9)],
    given_takes _ _,
    by decide⟩

theorem meets_restoredPartitionsResume_6 : ∃ (s : State) (k : Packet),
      s.takes k = false :=
  ⟨live, { word (.handover [(1, 0, 9)]) with src := 0 },
    by decide⟩

theorem meets_fetchedDescriptorsTakeTheirStep_0 : ∃ (s : State) (n : Rack) (i : SlotNo) (p : Nat) (b : List Byte),
      s.active n.val = some p ∧
      (s.slot n.val i.val).fetches = true ∧
      inStore n.val (s.slot n.val i.val).next = true ∧
      s.read (.rack n.val) (s.slot n.val i.val).next 128 = (s, .ok b) ∧
      s.descErr n.val p (descOf (s.slot n.val i.val).next (s.slot n.val i.val).tstep b) = none :=
  ⟨fetching 5, 0, 127, 0, (fetching 5).readBytes rackBase 128,
    by decide,
    by decide,
    by decide,
    read_ok _ _ _ _ (by decide),
    by decide⟩

theorem meets_fetchedDescriptorsTakeTheirStep_1 : ∃ (_a : Nat) (_t : Step) (b : List Byte) (c : List Byte),
      b.length = 128 ∧
      c.length = 128 ∧
      fieldOf (leNat (b.take 8)) 3 0 ≤ 3 ∧
      (∀ j, j < 8 ∨ 12 ≤ j → b.getD j 0 = c.getD j 0) :=
  ⟨0, 0, List.replicate 128 0, (List.replicate 128 0).set 9 1,
    List.length_replicate,
    by rw [List.length_set, List.length_replicate],
    by decide,
    getD_set_far⟩

set_option Elab.async false in
theorem meets_checksumsAddUp_1 : ∃ (s : State) (c : KndCtx) (step : Step) (r : State) (codes : List (BitVec 16)),
      s.convertG16 c step (s.bkt c.b.bid step).s = (r, some codes) :=
  ⟨kneading leaf [] (one admittedBkt), leaf, 1, (State.convertG16 (kneading leaf [] (one admittedBkt)) leaf 1 0).1, (State.convertG16 (kneading leaf [] (one admittedBkt)) leaf 1 0).2.getD [],
    pair_some _ _ (by decide +kernel)⟩

theorem meets_checksumsAddUp_2 : ∃ (s : State) (k : Packet) (seg : Nat) (a : Nat) (port : Nat) (sum : BitVec 32) (v : Bool) (sat : Bool) (c : KndCtx) (b : Bkt) (w : Tab (BitVec 32 × Bool)),
      s.takes k = true ∧
      k.body = .csum seg a sum v ∧
      s.kndCtx k.bucket = some c ∧
      b = s.bkt k.bucket k.step ∧
      childPort c seg k.src = some port ∧
      s.stepGone c.p k.step = false ∧
      s.kneads c = true ∧
      s.isOwner c = false ∧
      b.attempt = a ∧
      b.released = true ∧
      b.relAttempt = a ∧
      b.verified.contains seg = false ∧
      seg < c.b.nseg ∧
      (s.addSlot k.bucket k.step seg a).done = some sat ∧
      w = tput (terase (s.addSlot k.bucket k.step seg a).csums port) port (sum, v) ∧
      (∀ x ∈ childPorts (routeOf c.r seg), (tfind w x.1).isSome = true) :=
  ⟨given (kneading (ctxOf 3 { leafRoute with children := [(2, 3)] }) [] { one ({ summingBkt with own := .idle }) with adders := [{ bid := 9, step := 1, seg := 0, done := some false }] }) (word (.csum 0 0 5 false)), word (.csum 0 0 5 false), 0, 0, 2, 5, false, false, (ctxOf 3 { leafRoute with children := [(2, 3)] }), { summingBkt with own := .idle }, [(2, 5, false)],
    given_takes _ _,
    by decide⟩

theorem meets_burstsCoverTheirBytes_0 : ∃ (s : State) (w : WinNo) (_bid : BitVec 16) (n : Nat) (x : Window) (at_ : Nat → Nat),
      x = s.window w.val ∧
      s.qrs.state = 2 ∧
      x.isOpen = true ∧
      x.isRead = true ∧
      x.valid = true ∧
      x.cur % 64 = 0 ∧
      x.bursts = [] ∧
      x.change = none ∧
      0 < tget s.qrs.readCredits 0 w.val ∧
      64 ≤ n ∧
      n ≤ 4096 ∧
      n % 64 = 0 ∧
      (x.mode = 2 ∨ x.cur + n ≤ x.len) ∧
      (∀ o, at_ o = if x.mode = 1 then x.base + o / x.row * x.pitch + o % x.row else if x.mode = 2 then x.base + o % x.len else x.base + o) ∧
      (∀ i < n / 64, at_ (x.cur + 64 * i) + 64 ≤ hbmTop ∧ s.accessErr (.peel w.val) false (at_ (x.cur + 64 * i)) 64 = none) :=
  ⟨windowed true true, 7, 1, 64, (windowed true true).window 7, fun o => hbmTop - 64 + o,
    front4 (by decide) (front4 (by decide) (front4 (by decide) ⟨by decide,
    (fun _ => rfl),
    by decide⟩))⟩

theorem meets_burstsCoverTheirBytes_1 : ∃ (s : State) (w : WinNo) (_bid : BitVec 16) (d : List Byte) (x : Window) (at_ : Nat → Nat),
      x = s.window w.val ∧
      s.qrs.state = 2 ∧
      x.isOpen = true ∧
      x.isRead = false ∧
      x.valid = true ∧
      x.cur % 64 = 0 ∧
      x.bursts = [] ∧
      x.change = none ∧
      64 ≤ d.length ∧
      d.length ≤ 4096 ∧
      d.length % 64 = 0 ∧
      (x.cur + d.length ≤ x.len ∨ (x.mode = 2 ∧ d.length ≤ x.len)) ∧
      (∀ o, at_ o = if x.mode = 1 then x.base + o / x.row * x.pitch + o % x.row else if x.mode = 2 then x.base + o % x.len else x.base + o) ∧
      (∀ i < d.length / 64, at_ (x.cur + 64 * i) + 64 ≤ hbmTop ∧ s.accessErr (.peel w.val) true (at_ (x.cur + 64 * i)) 64 = none) :=
  ⟨windowed true false, 7, 1, List.replicate 64 1, (windowed true false).window 7, fun o => hbmTop - 64 + o,
    front4 (by decide) (front4 (by decide) (front4 (by decide) ⟨(fun _ => rfl),
    by decide⟩))⟩

theorem meets_burstsCoverTheirBytes_2 : ∃ (s : State) (w : WinNo) (_bid : BitVec 16) (n : Nat),
      s.qrs.state = 2 ∧
      (s.window w.val).isOpen = true ∧
      (s.window w.val).isRead = true ∧
      64 ≤ n ∧
      n ≤ 4096 ∧
      n % 64 = 0 ∧
      (s.window w.val).mode ≠ 2 ∧
      (s.window w.val).len < (s.window w.val).cur + n ∧
      (s.window w.val).bursts = [] ∧
      (s.window w.val).change = none :=
  ⟨windowed true true, 7, 1, 128,
    by decide⟩

theorem meets_stepRunsTheFrontCommand_0 : ∃ (s : State) (c : Instr) (l : List Instr),
      s.pending = c :: l :=
  ⟨{ live with pending := [.hbmRead 11 9 .peel 0 .none] }, .hbmRead 11 9 .peel 0 .none, [],
    by decide⟩

theorem meets_stepRunsTheFrontCommand_1 : ∃ (s : State),
      s.pending = [] ∧
      s.hkp.timersOn = false ∧
      s.lnk.lostAt = [] :=
  ⟨State.reset,
    by decide⟩

theorem meets_stepRunsTheFrontCommand_2 : ∃ (s : State),
      s.pending = [] ∧
      s.hkp.timersOn = true ∧
      s.lnk.lostAt = [] :=
  ⟨live,
    by decide⟩

theorem meets_stepRunsTheFrontCommand_3 : ∃ (s : State) (l : List Nat),
      s.pending = [] ∧
      s.hkp.timersOn = false ∧
      s.lnk.lostAt = l ∧
      l ≠ [] :=
  ⟨{ State.reset with lnk := { lostAt := [8] } }, [8],
    by decide⟩

theorem meets_everyStepKeepsMemoryCanonical_0 : ∃ (s : State) (t : State),
      MemInv s ∧
      StepsTo s t :=
  ⟨{ live with mem := [(5, 1)], pending := [.seal (word .seal)] }, { live with mem := [(5, 1)] },
    (by decide : Memory.wf [(5, 1)] = true),
    rfl⟩

theorem meets_rowsThatStoreNothingKeepMemory_0 : ∃ (i : Instr) (_s : State),
      storesNothing i = true :=
  ⟨.hbmRead 11 9 .peel 0 .none, live,
    by decide⟩

/-- Where the seal tree puts the third rank of a domain below the second (entry 14 leaves the tree open), the second has a parent and
a child. -/
theorem meets_stepsAreSealed_3 (h : Config.sealTree 2 [(0, 0), (5, 0), (6, 0)] % 2 = 1) : ∃ (s : State) (k : Packet) (up : Nat),
      s.takes k = true ∧
      k.body = .sealReady ∧
      k.step = (s.part k.part.val).lastSeal + 1 ∧
      k.src.toNat ∈ s.sealChildren k.part.val ∧
      k.src.toNat ≠ s.lnk.rank.toNat ∧
      (s.part k.part.val).state = .run ∧
      s.dev.fenced = false ∧
      s.stepDone k.part.val k.step = true ∧
      s.allCommitted k.part.val k.step = true ∧
      (∀ r ∈ s.sealChildren k.part.val, r = k.src.toNat ∨ s.sealHeard k.part.val k.step r = true) ∧
      s.sealHeard k.part.val k.step s.lnk.rank.toNat = false ∧
      s.sealParent k.part.val s.lnk.rank.toNat = some up := by
  have ho : tree5.sealOrder 0 = [0, 5, 6] := rfl
  have hp : tree5.sealPlaces 0 = [(0, 0), (5, 0), (6, 0)] := rfl
  have h0 : tree5.sealParent 0 0 = none := by
    have : ([0, 5, 6] : List Nat).findIdx? (fun x => x == 0) = some 0 := rfl
    simp [State.sealParent, ho, this]
  have h5 : tree5.sealParent 0 5 = some 0 := by
    have : ([0, 5, 6] : List Nat).findIdx? (fun x => x == 5) = some 1 := rfl
    simp [State.sealParent, ho, hp, this, Nat.mod_one]
  have h6 : tree5.sealParent 0 6 = some 5 := by
    have : ([0, 5, 6] : List Nat).findIdx? (fun x => x == 6) = some 2 := rfl
    simp [State.sealParent, ho, hp, this, h]
  have hr : tree5.lnk.rank.toNat = 5 := rfl
  have hc : tree5.sealChildren 0 = [6] := by simp [State.sealChildren, ho, h0, h5, h6, hr]
  refine ⟨given tree5 { word .sealReady with src := 6 }, { word .sealReady with src := 6 }, 0, by decide, rfl, rfl, ?_, by decide, rfl, rfl, by decide, by decide, ?_, by decide, h5⟩
  · show (6 : Nat) ∈ tree5.sealChildren 0
    simp [hc]
  · intro r hm
    have : r ∈ tree5.sealChildren 0 := hm
    rw [hc] at this
    exact Or.inl (List.mem_singleton.mp this)

theorem meets_hostSteeringWaits_0 : ∀ x ∈ ([(Instr.pin, WriteRow.pin, 1), (Instr.unpin, .unpin, 2), (Instr.clearCeil, .clearCeil, 3), (Instr.freeze, .freeze, 4), (Instr.thaw, .thaw, 5)] : List ((Cmd → Instr) × WriteRow × Nat)), ∃ (s : State) (c : Cmd) (t : State) (v : Nat),
      Writes s c x.2.1 t .govCmd v := by
  simp only [List.forall_mem_cons, List.not_mem_nil, false_imp_iff, implies_true, and_true]
  exact ⟨⟨live, host (wr 0x500400 0x8000000), next live (wr 0x500400 0x8000000), State.wouldBe (next live (wr 0x500400 0x8000000)) .govCmd (wr 0x500400 0x8000000), writes_of _ _ _ _ (by decide)⟩,
    ⟨live, host (wr 0x500400 0x10000000), next live (wr 0x500400 0x10000000), State.wouldBe (next live (wr 0x500400 0x10000000)) .govCmd (wr 0x500400 0x10000000), writes_of _ _ _ _ (by decide)⟩,
    ⟨live, host (wr 0x500400 0x18000000), next live (wr 0x500400 0x18000000), State.wouldBe (next live (wr 0x500400 0x18000000)) .govCmd (wr 0x500400 0x18000000), writes_of _ _ _ _ (by decide)⟩,
    ⟨live, host (wr 0x500400 0x20000000), next live (wr 0x500400 0x20000000), State.wouldBe (next live (wr 0x500400 0x20000000)) .govCmd (wr 0x500400 0x20000000), writes_of _ _ _ _ (by decide)⟩,
    ⟨live, host (wr 0x500400 0x28000000), next live (wr 0x500400 0x28000000), State.wouldBe (next live (wr 0x500400 0x28000000)) .govCmd (wr 0x500400 0x28000000), writes_of _ _ _ _ (by decide)⟩⟩

theorem meets_snapshotsAreHeldAndTwinned_4a : ∀ x ∈ ([(Instr.hold, WriteRow.hold, true), (Instr.ringSlotRelease, .ringRelease, false)] : List ((Cmd → Instr) × WriteRow × Bool)), ∃ (s : State) (c : Cmd) (t : State) (v : Nat) (e : Slice) (r : SnapRec),
      Writes s c x.2.1 t .snpCmd v ∧ t.slice (snpCmdPart v) = some e ∧ e.snap = some r ∧ snpCmdSlot v < r.rslots := by
  simp only [List.forall_mem_cons, List.not_mem_nil, false_imp_iff, implies_true, and_true]
  exact ⟨⟨(ringed {}), host (wr 0xD01000 0x2), next (ringed {}) (wr 0xD01000 0x2), State.wouldBe (next (ringed {}) (wr 0xD01000 0x2)) .snpCmd (wr 0xD01000 0x2), { slice0 with snap := some ringRec0 }, ringRec0, writes_of _ _ _ _ (by decide), by decide⟩,
    ⟨(ringed {}), host (wr 0xD01000 0x3), next (ringed {}) (wr 0xD01000 0x3), State.wouldBe (next (ringed {}) (wr 0xD01000 0x3)) .snpCmd (wr 0xD01000 0x3), { slice0 with snap := some ringRec0 }, ringRec0, writes_of _ _ _ _ (by decide), by decide⟩⟩

theorem meets_snapshotsAreHeldAndTwinned_4b : ∀ x ∈ ([(Instr.hold, WriteRow.hold, true), (Instr.ringSlotRelease, .ringRelease, false)] : List ((Cmd → Instr) × WriteRow × Bool)), ∃ (s : State) (c : Cmd) (t : State) (v : Nat) (e : Slice) (r : SnapRec),
      Writes s c x.2.1 t .snpCmd v ∧ t.slice (snpCmdPart v) = some e ∧ e.snap = some r ∧ r.rslots ≤ snpCmdSlot v := by
  simp only [List.forall_mem_cons, List.not_mem_nil, false_imp_iff, implies_true, and_true]
  exact ⟨⟨(ringed {}), host (wr 0xD01000 0x142), next (ringed {}) (wr 0xD01000 0x142), State.wouldBe (next (ringed {}) (wr 0xD01000 0x142)) .snpCmd (wr 0xD01000 0x142), { slice0 with snap := some ringRec0 }, ringRec0, writes_of _ _ _ _ (by decide), by decide⟩,
    ⟨(ringed {}), host (wr 0xD01000 0x143), next (ringed {}) (wr 0xD01000 0x143), State.wouldBe (next (ringed {}) (wr 0xD01000 0x143)) .snpCmd (wr 0xD01000 0x143), { slice0 with snap := some ringRec0 }, ringRec0, writes_of _ _ _ _ (by decide), by decide⟩⟩

theorem meets_recoveryEpochsOnlyRise_0 : ∀ x ∈ ([(Instr.fenceSelf, WriteRow.fenceSelf), (Instr.rollback, .rollback), (Instr.restore, .restore), (Instr.fill, .fill), (Instr.migrateDrain, .migrateDrain), (Instr.migrateDiscard, .migrateDiscard)] : List ((Cmd → Instr) × WriteRow)), ∃ (s : State) (c : Cmd) (t : State) (v : Nat),
      Writes s c x.2 t .rcvCmd v ∧ newer (rcvEpoch v) (t.recov (rcvPart v)).repoch = false := by
  simp only [List.forall_mem_cons, List.not_mem_nil, false_imp_iff, implies_true, and_true]
  exact ⟨⟨live, host (wr 0xD01010 1), next live (wr 0xD01010 1), State.wouldBe (next live (wr 0xD01010 1)) .rcvCmd (wr 0xD01010 1), writes_of _ _ _ _ (by decide), by decide⟩,
    ⟨live, host (wr 0xD01010 2), next live (wr 0xD01010 2), State.wouldBe (next live (wr 0xD01010 2)) .rcvCmd (wr 0xD01010 2), writes_of _ _ _ _ (by decide), by decide⟩,
    ⟨live, host (wr 0xD01010 3), next live (wr 0xD01010 3), State.wouldBe (next live (wr 0xD01010 3)) .rcvCmd (wr 0xD01010 3), writes_of _ _ _ _ (by decide), by decide⟩,
    ⟨live, host (wr 0xD01010 4), next live (wr 0xD01010 4), State.wouldBe (next live (wr 0xD01010 4)) .rcvCmd (wr 0xD01010 4), writes_of _ _ _ _ (by decide), by decide⟩,
    ⟨live, host (wr 0xD01010 5), next live (wr 0xD01010 5), State.wouldBe (next live (wr 0xD01010 5)) .rcvCmd (wr 0xD01010 5), writes_of _ _ _ _ (by decide), by decide⟩,
    ⟨live, host (wr 0xD01010 6), next live (wr 0xD01010 6), State.wouldBe (next live (wr 0xD01010 6)) .rcvCmd (wr 0xD01010 6), writes_of _ _ _ _ (by decide), by decide⟩⟩

theorem meets_recoveryEpochsOnlyRise_1 : ∀ x ∈ ([(Instr.migrateDrain, WriteRow.migrateDrain), (Instr.migrateDiscard, .migrateDiscard)] : List ((Cmd → Instr) × WriteRow)), ∃ (s : State) (c : Cmd) (t : State) (v : Nat),
      Writes s c x.2 t .rcvCmd v ∧ newer (rcvEpoch v) (t.recov (rcvPart v)).repoch = true ∧
        1 ≤ (t.recov (rcvPart v)).state.toNat ∧ (t.recov (rcvPart v)).state.toNat ≤ 5 := by
  simp only [List.forall_mem_cons, List.not_mem_nil, false_imp_iff, implies_true, and_true]
  exact ⟨⟨(recovering { state := 1 }), host (wr 0xD01010 0x500050005), next (recovering { state := 1 }) (wr 0xD01010 0x500050005), State.wouldBe (next (recovering { state := 1 }) (wr 0xD01010 0x500050005)) .rcvCmd (wr 0xD01010 0x500050005), writes_of _ _ _ _ (by decide), by decide⟩,
    ⟨(recovering { state := 5 }), host (wr 0xD01010 0x500050006), next (recovering { state := 5 }) (wr 0xD01010 0x500050006), State.wouldBe (next (recovering { state := 5 }) (wr 0xD01010 0x500050006)) .rcvCmd (wr 0xD01010 0x500050006), writes_of _ _ _ _ (by decide), by decide⟩⟩

/-! ## The manual's worked examples -/

/-- The block of 02_number_formats.md R40's example: MX FP4 E2M1, SAT, SR 0, CMARGIN 1. -/
def oceanBlock : List Nat :=
  [0x3F1C28F6, 0xBDE147AE, 0x3D54FDF4, 0x00000000, 0x3E6B851F, 0xBEBD70A4, 0x3DB851EC, 0x3CA3D70A, 0xBEF5C28F,
    0x3E99999A, 0x3E19999A, 0xBD75C28F, 0x3EE147AE, 0xBE428F5C, 0x3BA3D70A, 0x3E8A3D71, 0x3DF5C28F, 0xBF051EB8,
    0x3EA8F5C3, 0x3D8F5C29, 0xBE800000, 0x3F0F5C29, 0xBC656042, 0x3E3851EC, 0xBDB851EC, 0x3EC28F5C, 0xBE947AE1,
    0x3C23D70A, 0x3EFAE148, 0xBCF5C28F, 0x3E570A3D, 0xBED70A3D]
def oceanCodes : ConvOut := convertLines 0x0404 2 0 [oceanBlock.map fp32.decode] (0, false)

set_option Elab.async false in
theorem test_mx_fp4_codes : oceanCodes.codes =
    [6, 10, 1, 0, 4, 13, 1, 0, 14, 4, 2, 9, 6, 11, 0, 4, 2, 14, 5, 1, 12, 6, 8, 3, 9, 5, 12, 0, 6, 8, 3, 13] := by decide +kernel
set_option Elab.async false in
theorem test_mx_fp4_scale_and_flushes : oceanCodes.scales = [0x7C] ∧ oceanCodes.meter.flush = 5 ∧ oceanCodes.meter.sat = 0 := by
  decide +kernel

/-- The fused multiply-add of 03_grains_and_fusion.md's second example keeps its residue; the rounded product is 1.0. -/
theorem test_fp64_fused : fp64.rne true (((fp64.decode 0x3FF0000000000001).mul (fp64.decode 0x3FEFFFFFFFFFFFFF)).add
    (fp64.decode 0xBFF0000000000000)) = 0x3C9FFFFFFFFFFFFE := by decide
theorem test_fp64_rounded : fp64.rne true ((fp64.decode 0x3FF0000000000001).mul (fp64.decode 0x3FEFFFFFFFFFFFFF)) =
    0x3FF0000000000000 := by decide

/-- 03_grains_and_fusion.md's first example has 256 broadcast cycles; the demands of 06_task_engines_and_whisk.md's table. -/
theorem test_broadcast_cycles : broadcastCycles 512 64 128 1 = 256 := by decide
theorem test_demands : demandOf 132 132 2 32 false = 396 ∧ demandOf 132 132 16 64 false = 1188 ∧
    demandOf 132 132 8 64 false = 660 := by decide

/-- The page that 10_hbm_memory.md R214's example retires: stack 5 under SP 40. -/
def pageOf : StackSt := { retire := [{ bank := false, pc := 27, bankNo := 26, row := 85 }] }
def pageHas (a : Nat) : Bool :=
  let p := hbmLoc 40 40 a
  p.1 == 5 && pageOf.isRetired p.2
theorem test_retired_ranges : [0x400E7700, 0x400F3100, 0x400FEB00, 0x4010A500].all (fun a =>
    !pageHas (a - 1) && pageHas a && pageHas (a + 255) && !pageHas (a + 256)) = true := by decide

/-- The Ledger entry of layer 212, role X (07_precision_steering.md R135's example). -/
theorem test_ledger_place : ledgerIx 212 2 = 1698 ∧ live.place 0x012000006A20 = .ledger 1698 := by decide

/-- Its ladder, and what the seals of the example make of its votes: W and W again widen; the seal after that is discarded; the
50th narrow-eligible seal narrows. -/
def class2 : ClassRec :=
  { rungs := [0x0400, 0x3400, 0x4400], nrung := 3, ceil := 2, floor := 0, wpersist := 2, hyst := 50, pmin := 4, peWiden := 0
    peNarrow := 0, satWiden := 0, flushWiden := 0, satNarrow := 0, flushNarrow := 0, uwqWiden := 0, uwqNarrow := 0 }
def votes (l : List Nat) (e : LedgerEntry) : LedgerEntry := l.foldl (fun e v => (decideEntry class2 v e).1) e
theorem test_widening : let e := votes [3, 4, 4] { state := .steady }
    e.rung = 1 ∧ e.state = .settling ∧ e.wcnt = 0 ∧ (votes [3] e).state = .steady := by decide
theorem test_narrowing : let e := votes (List.replicate 49 1) { state := .steady, rung := 1 }
    e.rung = 1 ∧ e.ncnt = 49 ∧ (votes [3] e).ncnt = 0 ∧ (votes [1] e).rung = 0 ∧ (votes [1] e).state = .settling := by decide

/-- 09_kneader.md's example: the scale of a maximum of 2.5 in tight mode, a saturating adder, and the checksums of its codes
(the segment is non-zero at positions 5 and 900 only). -/
def segmentOf (a b : Int) : List (BitVec 16) :=
  (List.range 901).map (fun i => if i = 5 then BitVec.ofInt 16 a else if i = 900 then BitVec.ofInt 16 b else 0)
theorem test_tight_scale : scaleTight 0x40200000 0 = -13 := by decide
theorem test_adder_saturates : segAdd [25395] [11059] = ([32767], true) ∧ segAdd [1434] [4915] = ([6349], false) := by decide
set_option Elab.async false in
theorem test_checksums : checksum (segmentOf 1434 (-1024)) = 0xFFE4199E ∧ (checksum (segmentOf 2765 (-128))).toInt = -200113 ∧
    (checksum (segmentOf 9114 (-896))).toInt = -1513442 := by decide +kernel

/-- The convolution of 05_feeders.md's example in the HBM layout of its input, for output rows 8 to 11 of depth 5. -/
def seismic : Prog :=
  let tap := fun (role count : Nat) => ({ count := count, tdiv := 0, role := role, estride := 0, sstride := 0, tstride := 0 } : LoopRec)
  { base := 0x40000000, conv := true, run := 64, sbase := 0x42000000, tbase := 0
    loops := [tap 6 3, tap 5 3, tap 4 3, tap 3 24, tap 2 4]
    dims := [{ size := 20, ostart := 5, stride := 0, dil := 1, padlo := 2, pitch := 147456 },
      { size := 48, ostart := 8, stride := 1, dil := 0, padlo := 1, pitch := 3072 },
      { size := 48, ostart := 0, stride := 1, dil := 0, padlo := 1, pitch := 64 }]
    sfmt := 4, wide := false, rsvOk := true }
theorem test_conv_count : seismic.count = 165888 := by decide
theorem test_conv_address : (seismic.runAt 8 [2, 0, 2, 3, 2]).elem = some (0x4010A5E0 - 32) ∧
    (seismic.runAt 8 [2, 0, 2, 3, 2]).scale = 0x4200852F - 1 := by decide
theorem test_conv_padding : (seismic.runAt 8 [0, 1, 1, 0, 2]).elem = none ∧ (seismic.runAt 8 [1, 1, 1, 0, 2]).elem.isSome = true := by
  decide

/-- The window of 14_queros_host_link.md's example, and where its bursts start. -/
def windMatrix : CmdRec := record opPeelSet 0x12 0x20000000 0x6000 0x200000000600
theorem test_window_fields : winOf windMatrix = 2 ∧ (windowOf windMatrix).isRead = false ∧ (windowOf windMatrix).mode = 1 ∧
    (windowOf windMatrix).valid = true := by decide
theorem test_window_addresses : [0, 0x600, 4096, 20480, 24575].map (fun o => (windowOf windMatrix).addr o) =
    [0x20000000, 0x20002000, 0x20004400, 0x2001A200, 0x2001E5FF] := by decide

/-- The survey of 19_ageing.md's example: margins, and the proposals at VT 0 and at VT +7. -/
def rack17 (vt : BitVec 4) : IslandSt := { IslandSt.dflt 17 with hi := 0xEB, cur := 0xEB, trim := vt, sens := 120, lo := 200 }
theorem test_margin_codes : logicCode 1005 0xEB = 22 ∧ logicCode 997 0xEB = 25 ∧ logicCode 1012 0xE8 = 24 := by decide
theorem test_proposals : (rack17 0).proposal false (fun vt => 15 * 1005 - 120 * vt) = (0xEB, 1, false) ∧
    (rack17 7).proposal false (fun vt => 15 * 1012 - 120 * (vt - 7)) = (0xE8, 7, false) := by decide

/-- The counters of 16_trust.md's example. -/
def stored : State := { live with per := { hq := [(2, 268800)] } }
theorem test_counter_reservation : (stored.accept 2 268800 true).map (fun t => (tget t.per.hq 0 2, (t.queue 2).last)) =
    some (269824, 268800) := by decide

/-- The fence of 12_links_and_ordering.md's example: under drain it waits, under discard it closes at once. -/
def fenced517 (discard : Bool) (limit base : BitVec 32) : Option SeqEnt :=
  (State.fenceOn { live with lnk := { seqs := [(seqKey 517 0x11, { epoch := 40, last := 88203 })] } } (seqKey 517 0x11) 41 discard limit
    base).seqEnt (seqKey 517 0x11)
theorem test_fence_drain : (fenced517 false 88206 88207).map (fun e => (e.epoch, e.last, e.pend.isSome)) =
    some (40, 88203, true) := by decide
theorem test_fence_discard : (fenced517 true 88203 88190).map (fun e => (e.epoch, e.last, e.pend.isSome)) =
    some (41, 88189, false) := by decide

/-! ## Ill-formed commands, one for each check, and the words of the table -/

theorem test_ill_no_reading : WellFormed (.thermalThrottle []) = false := by decide
theorem test_ill_reading_twice : WellFormed (.dutyRise [⟨3, 90⟩, ⟨3, 91⟩]) = false := by decide
theorem test_ill_duty_return : WellFormed (.dutyReturn []) = false := by decide
theorem test_ill_sweep : WellFormed (.launch [⟨3, [[1, 2, 3, 4]], 0, 1, none⟩]) = false := by decide
theorem test_ill_self_test : WellFormed (.selfTestDone [(3, 1), (3, 2)]) = false := by decide
theorem test_ill_survey : WellFormed (.survey [⟨3, [1, 2, 3], 0, 1, none⟩]) = false := by decide
theorem test_ill_frame : WellFormed (.frame [0]) = false := by decide
theorem test_ill_credit : WellFormed (.credit [0]) = false := by decide
theorem test_ill_write_burst : WellFormed (.writeBurst 0 0 2 [0]) = false ∧ WellFormed (.writeBurst 0 0 8192 []) = false := by decide
theorem test_ill_read_burst : WellFormed (.readBurst 0 0 8192 none) = false := by decide
theorem test_ill_packet : WellFormed (.gseg { word (.gseg 0 0 0 []) with kind := 3 }) = false := by decide
theorem test_ill_flit : WellFormed (.flit 0 [0] none []) = false := by decide
theorem test_ill_sector : WellFormed (.hbmRead 0 0x60000000 .peel 0 .none) = false := by decide
theorem test_ill_one_symbol : WellFormed (.hbmRead 0 0 .peel 0 (.one 36)) = false := by decide
theorem test_ill_many_symbols : WellFormed (.readModifyWrite 0 0 (.many 1)) = false := by decide
theorem test_ill_wrong_address : WellFormed (.patrolScrub 0 (.wrongAddr 0 none)) = false ∧
    WellFormed (.patrolScrub 0 (.wrongAddr 1 (some 35))) = false := by decide
theorem test_ill_enables : WellFormed (.hbmWrite 0 0 .peel 0 [none]) = false := by decide

theorem test_no_word_is_a_command : decodeTableWord 32 0 = none := by decide

end Sys2Proof.Tests
end

section
/-! Racks that go Off, the ends of self-test and DEVICE_READY (04_trays_racks_partitions.md R76, R84; 20_resets_and_retention.md R374,
R375). -/

namespace Sys2Proof.Machine

/-! ## Tables and folds -/

/-- Entries that a filter on keys drops do not hide a key that it keeps. -/
theorem tfind_filter_key {α : Type} (t : Tab α) (p : Nat → Bool) {k : Nat} (h : p k = true) :
    tfind (t.filter (fun e => p e.1)) k = tfind t k := by
  induction t with
  | nil => rfl
  | cons e t ih =>
    by_cases hk : e.1 = k
    · simp [tfind, hk, h]
    · by_cases hp : p e.1 = true
      · simp [tfind, hk, hp, ih]
      · simp [tfind, hk, hp, ih]

theorem tget_filter_key {α : Type} (t : Tab α) (d : α) (p : Nat → Bool) {k : Nat} (h : p k = true) :
    tget (t.filter (fun e => p e.1)) d k = tget t d k := by
  simp only [tget, tfind_filter_key t p h]

/-- A fold of updates that do nothing at a state leaves that state. -/
theorem over_noop {α : Type} (l : List α) (f : α → State → State) (s : State) (h : ∀ x ∈ l, f x s = s) : overAll l f s = s :=
  over_keeps (P := fun t => t = s) l f (fun x hx _ ht => by rw [ht]; exact h x hx) rfl

/-! ## Which partition holds a rack -/

/-- Only the partitions' registers say which partition holds a rack. -/
theorem partOf_congr {s t : State} (h : t.parts = s.parts) (n : Nat) : t.partOf n = s.partOf n := by
  simp only [State.partOf, State.part, h]

theorem idleStore_congr {s t : State} (h : t.parts = s.parts) (k : Nat) : IdleStore t k ↔ IdleStore s k := by
  simp only [IdleStore, partOf_congr h]

/-! ## A rack goes Off (R84; 17_clocks_and_islands.md R336) -/

/-- What a rack's registers are once its island is Off: FAILED and the stream's EPOCH alone outlast it. -/
def RackSt.off (r : RackSt) : RackSt := { failed := r.failed, stream := { epoch := r.stream.epoch } }

/-- An island that is Off. -/
def IslandSt.off (i : IslandSt) : IslandSt := { i with pow := .off, stopped := false, halved := false, coast := false }

/-- The fields that going Off writes; every other one stays. -/
theorem rackOff_eq (s : State) (n : Nat) :
    s.rackOff n = { s with isl := (s.rackOff n).isl, racks := (s.rackOff n).racks, mem := (s.rackOff n).mem
                           secded := (s.rackOff n).secded, signals := (s.rackOff n).signals } := rfl

@[simp] theorem rack_rackOff_same (s : State) (n : Nat) : (s.rackOff n).rack n = (s.rack n).off := State.rack_setRack_same s n _

theorem rack_rackOff_ne (s : State) {j n : Nat} (h : j ≠ n) : (s.rackOff n).rack j = s.rack j := State.rack_setRack_ne s j n _ h

@[simp] theorem island_rackOff_same (s : State) (n : Nat) : (s.rackOff n).island n = (s.island n).off :=
  State.island_setIsland_same s n _

theorem island_rackOff_ne (s : State) {j n : Nat} (h : j ≠ n) : (s.rackOff n).island j = s.island j :=
  State.island_setIsland_ne s j n _ h

/-- A key outside the rack's store keeps its byte. -/
theorem mem_rackOff (s : State) {n k : Nat} (h : ¬ (rackBase + n * rackStride ≤ k ∧ k < rackBase + n * rackStride + rackSize)) :
    tget (s.rackOff n).mem emptyByte k = tget s.mem emptyByte k :=
  tget_filter_key s.mem emptyByte
    (fun k => !decide (rackBase + n * rackStride ≤ k ∧ k < rackBase + n * rackStride + rackSize)) (by rw [decide_eq_false h]; rfl)

/-- Rack by rack: a listed one goes Off, another is as before. -/
theorem rack_over_rackOff (l : List Nat) (h : l.Nodup) (s : State) (j : Nat) :
    (overAll l (fun n u => u.rackOff n) s).rack j = if j ∈ l then (s.rack j).off else s.rack j := by
  induction l generalizing s with
  | nil => simp [over_nil]
  | cons x l ih =>
    obtain ⟨hx, hl⟩ := List.nodup_cons.mp h
    rw [over_cons, ih hl]
    by_cases hj : j = x
    · subst hj; simp [hx]
    · simp [hj, rack_rackOff_ne]

/-- Island by island: that of a listed rack goes Off, another is as before. -/
theorem island_over_rackOff (l : List Nat) (h : l.Nodup) (s : State) (j : Nat) :
    (overAll l (fun n u => u.rackOff n) s).island j = if j ∈ l then (s.island j).off else s.island j := by
  induction l generalizing s with
  | nil => simp [over_nil]
  | cons x l ih =>
    obtain ⟨hx, hl⟩ := List.nodup_cons.mp h
    rw [over_cons, ih hl]
    by_cases hj : j = x
    · subst hj; simp [hx]
    · simp [hj, island_rackOff_ne]

theorem over_rackOff_eq (l : List Nat) (s : State) :
    overAll l (fun n u => u.rackOff n) s =
      { s with isl := (overAll l (fun n u => u.rackOff n) s).isl, racks := (overAll l (fun n u => u.rackOff n) s).racks
               mem := (overAll l (fun n u => u.rackOff n) s).mem, secded := (overAll l (fun n u => u.rackOff n) s).secded
               signals := (overAll l (fun n u => u.rackOff n) s).signals } :=
  over_keeps (P := fun t => t = { s with isl := t.isl, racks := t.racks, mem := t.mem, secded := t.secded, signals := t.signals }) l _
    (fun n _ t ht => by rw [ht]; exact rackOff_eq _ n) rfl

/-! ## The racks that no partition holds go Off (R84; 18_power_ladder.md R342) -/

/-- The racks that no partition holds. -/
def State.idleRacks (s : State) : List Nat := (List.range 48).filter (fun n => (s.partOf n).isNone)

theorem mem_idleRacks {s : State} {n : Nat} : n ∈ s.idleRacks ↔ n < 48 ∧ s.partOf n = none := by
  simp [State.idleRacks]

theorem nodup_idleRacks (s : State) : s.idleRacks.Nodup := List.nodup_range.filter _

/-- A rack that goes Off changes no partition's racks, so the fold may ask `s` at once which of them are idle. -/
theorem over_ifIdle_eq (s : State) (l : List Nat) (t : State) (h : t.parts = s.parts) :
    overAll l (fun n u => if (u.partOf n).isNone then u.rackOff n else u) t =
      overAll (l.filter (fun n => (s.partOf n).isNone)) (fun n u => u.rackOff n) t := by
  induction l generalizing t with
  | nil => rfl
  | cons x l ih =>
    rw [over_cons, partOf_congr h]
    by_cases hx : (s.partOf x).isNone = true
    · rw [List.filter_cons, if_pos hx, if_pos hx]; exact ih _ h
    · rw [List.filter_cons, if_neg hx, if_neg hx]; exact ih _ h

theorem idleRacksOff_eq_over (s : State) : s.idleRacksOff = overAll s.idleRacks (fun n u => u.rackOff n) s :=
  over_ifIdle_eq s _ s rfl

/-- The fields that it writes; every other one stays. -/
theorem idleRacksOff_eq (s : State) :
    s.idleRacksOff = { s with isl := s.idleRacksOff.isl, racks := s.idleRacksOff.racks, mem := s.idleRacksOff.mem
                              secded := s.idleRacksOff.secded, signals := s.idleRacksOff.signals } := by
  rw [idleRacksOff_eq_over]; exact over_rackOff_eq _ s

section idleRacksOff
variable (s : State)
@[simp] theorem idleRacksOff_parts : s.idleRacksOff.parts = s.parts := by rw [idleRacksOff_eq]
@[simp] theorem idleRacksOff_hkp : s.idleRacksOff.hkp = s.hkp := by rw [idleRacksOff_eq]
@[simp] theorem idleRacksOff_qrs : s.idleRacksOff.qrs = s.qrs := by rw [idleRacksOff_eq]

theorem rack_idleRacksOff (n : Nat) : s.idleRacksOff.rack n = if n ∈ s.idleRacks then (s.rack n).off else s.rack n := by
  rw [idleRacksOff_eq_over]; exact rack_over_rackOff _ (nodup_idleRacks s) s n

theorem island_idleRacksOff (n : Nat) : s.idleRacksOff.island n = if n ∈ s.idleRacks then (s.island n).off else s.island n := by
  rw [idleRacksOff_eq_over]; exact island_over_rackOff _ (nodup_idleRacks s) s n

/-- FAILED lies in island 78 (R342). -/
@[simp] theorem failed_idleRacksOff (n : Nat) : (s.idleRacksOff.rack n).failed = (s.rack n).failed := by
  rw [rack_idleRacksOff]; split <;> rfl

/-- No reset is left in progress that was not in progress before. -/
theorem resetting_idleRacksOff {n : Nat} (h : (s.rack n).resetting = none) : (s.idleRacksOff.rack n).resetting = none := by
  rw [rack_idleRacksOff]; split
  · rfl
  · exact h

theorem pow_idleRacksOff {n : Nat} (hn : n < 48) (h : s.partOf n = none) : (s.idleRacksOff.island n).pow = .off := by
  rw [island_idleRacksOff, if_pos (mem_idleRacks.mpr ⟨hn, h⟩)]; rfl

theorem island_idleRacksOff_hub {n : Nat} (h : 48 ≤ n) : s.idleRacksOff.island n = s.island n := by
  rw [island_idleRacksOff, if_neg (fun c => Nat.not_lt.mpr h (mem_idleRacks.mp c).1)]

theorem not_mem_idleRacks_of_held {n : Nat} (h : (s.partOf n).isSome = true) : n ∉ s.idleRacks :=
  fun c => by simp [(mem_idleRacks.mp c).2] at h

/-- A byte outside the stores of the idle racks stays. -/
theorem mem_idleRacksOff {k : Nat} (h : ¬ IdleStore s k) :
    tget s.idleRacksOff.mem emptyByte k = tget s.mem emptyByte k := by
  rw [idleRacksOff_eq_over]
  refine over_same (fun t => tget t.mem emptyByte k) _ _ (fun n hn t => mem_rackOff t (fun hk => h ?_)) s
  obtain ⟨hlt, hidle⟩ := mem_idleRacks.mp hn
  exact ⟨n, hlt, hidle, hk⟩
end idleRacksOff

/-! ## FAILED and island 79's copy (R375) -/

@[simp] theorem rack_writeFailed_same (s : State) (n : Nat) (f : BitVec 32) :
    (s.writeFailed n f).rack n = { s.rack n with failed := f } :=
  State.rack_modRack_same s n (fun r => { r with failed := f })

theorem rack_writeFailed_ne (s : State) {j n : Nat} (f : BitVec 32) (h : j ≠ n) : (s.writeFailed n f).rack j = s.rack j :=
  State.rack_modRack_ne s j n (fun r => { r with failed := f }) h

/-- Rack by rack: a listed one's FAILED is written, another rack is as before. -/
theorem rack_over_writeFailed (l : List Nat) (f : Nat → BitVec 32) (s : State) (j : Nat) :
    (overAll l (fun n u => u.writeFailed n (f n)) s).rack j = if j ∈ l then { s.rack j with failed := f j } else s.rack j := by
  induction l generalizing s with
  | nil => simp [over_nil]
  | cons x l ih =>
    rw [over_cons, ih]
    by_cases hj : j = x
    · subst hj; simp
    · simp [hj, rack_writeFailed_ne]

/-- Entry by entry: a listed rack's copy is written, another one is as before. -/
theorem failedCopy_over_writeFailed (l : List Nat) (f : Nat → BitVec 32) (s : State) (j : Nat) :
    tget (overAll l (fun n u => u.writeFailed n (f n)) s).hkp.failedCopy 0 j =
      if j ∈ l then f j else tget s.hkp.failedCopy 0 j := by
  induction l generalizing s with
  | nil => simp [over_nil]
  | cons x l ih =>
    rw [over_cons, ih]
    by_cases hj : j = x
    · subst hj; simp [State.writeFailed]
    · simp [hj, State.writeFailed, tget_tset_ne]

/-- What self-test found is written for every rack (R76). -/
def State.writeAllFailed (s : State) (l : List (Rack × BitVec 32)) : State :=
  overAll (List.range 48) (fun n u => u.writeFailed n (failedOf l n)) s

section writeAllFailed
variable (s : State) (l : List (Rack × BitVec 32))
theorem writeAllFailed_eq :
    s.writeAllFailed l = { s with racks := (s.writeAllFailed l).racks, hkp := (s.writeAllFailed l).hkp } :=
  over_keeps (P := fun t => t = { s with racks := t.racks, hkp := t.hkp }) _ _ (fun _ _ t ht => by rw [ht]; rfl) rfl

@[simp] theorem writeAllFailed_parts : (s.writeAllFailed l).parts = s.parts := by rw [writeAllFailed_eq]
@[simp] theorem writeAllFailed_mem : (s.writeAllFailed l).mem = s.mem := by rw [writeAllFailed_eq]

theorem rack_writeAllFailed {n : Nat} (h : n < 48) : (s.writeAllFailed l).rack n = { s.rack n with failed := failedOf l n } :=
  (rack_over_writeFailed _ (failedOf l) s n).trans (if_pos (List.mem_range.mpr h))

theorem failedCopy_writeAllFailed {n : Nat} (h : n < 48) : tget (s.writeAllFailed l).hkp.failedCopy 0 n = failedOf l n :=
  (failedCopy_over_writeFailed _ (failedOf l) s n).trans (if_pos (List.mem_range.mpr h))
end writeAllFailed

/-! ## The end of self-test (R76, R378) -/

/-- No start-up's self-test is open any more, and the idle racks go Off (R84). -/
def State.closeTest (s : State) : State := ({ s with hkp := { s.hkp with selfTest := false } }).idleRacksOff

section closeTest
variable (s : State)
@[simp] theorem closeTest_parts : s.closeTest.parts = s.parts := idleRacksOff_parts _
@[simp] theorem closeTest_hkp : s.closeTest.hkp = { s.hkp with selfTest := false } := idleRacksOff_hkp _
@[simp] theorem failed_closeTest (n : Nat) : (s.closeTest.rack n).failed = (s.rack n).failed := failed_idleRacksOff _ n

theorem resetting_closeTest {n : Nat} (h : (s.rack n).resetting = none) : (s.closeTest.rack n).resetting = none :=
  resetting_idleRacksOff _ h

theorem pow_closeTest {n : Nat} (hn : n < 48) (h : s.partOf n = none) : (s.closeTest.island n).pow = .off :=
  pow_idleRacksOff _ hn h

theorem mem_closeTest {k : Nat} (h : ¬ IdleStore s k) : tget s.closeTest.mem emptyByte k = tget s.mem emptyByte k :=
  mem_idleRacksOff _ h
end closeTest

theorem partitionResetDone_of_none {s : State} {p : Nat} (l : List (Rack × BitVec 32)) (h : (s.part p).resetting = none) :
    s.partitionResetDone p l = s := by
  simp only [State.partitionResetDone, h]

theorem rackResetDone_of_none {s : State} {n : Nat} (l : List (Rack × BitVec 32)) (h : (s.rack n).resetting = none) :
    s.rackResetDone n l = s := by
  simp only [State.rackResetDone, h]

theorem tested_of_forall {s : State} {l : List Nat} (h : ∀ n ∈ l, n ∈ s.hkp.testing) : s.tested l = true := by
  simpa [State.tested] using h

/-- A rung exit that waited for the self-test ends with it: the device is in rung 0 (18_power_ladder.md R347). -/
def State.closeExit (s : State) : State :=
  if s.hkp.exiting.isSome then { s with hkp := { s.hkp with rung := 0, trans := false, exiting := none } } else s

/-- It writes nothing but the exit's own fields. -/
theorem closeExit_eq (s : State) :
    s.closeExit = { s with hkp := { s.hkp with rung := s.closeExit.hkp.rung, trans := s.closeExit.hkp.trans
                                               exiting := s.closeExit.hkp.exiting } } := by
  unfold State.closeExit; split <;> rfl

@[simp] theorem part_closeExit (s : State) (p : Nat) : s.closeExit.part p = s.part p := by rw [closeExit_eq]; rfl
@[simp] theorem rack_closeExit (s : State) (n : Nat) : s.closeExit.rack n = s.rack n := by rw [closeExit_eq]; rfl

/-- Where no partition and no rack is being reset, SELF_TEST_DONE ends the start-up's launched test and nothing else. -/
theorem selfTestDone_startup {s : State} (l : List (Rack × BitVec 32)) (hs : s.hkp.selfTest = true)
    (ht : ∀ n < 48, n ∈ s.hkp.testing) (hp : ∀ p < 8, (s.part p).resetting = none) (hr : ∀ n < 48, (s.rack n).resetting = none) :
    s.selfTestDone l =
      { (s.writeAllFailed l).closeTest.closeExit with
        hkp := { (s.writeAllFailed l).closeTest.closeExit.hkp with testing := [] } } := by
  have hall : s.tested (List.range 48) = true := tested_of_forall (fun n hn => ht n (List.mem_range.mp hn))
  have hpart (p : Nat) (h : p < 8) : ((s.writeAllFailed l).closeTest.closeExit.part p).resetting = none := by
    rw [part_closeExit]; simpa [State.part] using hp p h
  have hrack (n : Nat) (h : n < 48) : ((s.writeAllFailed l).closeTest.closeExit.rack n).resetting = none := by
    rw [rack_closeExit]
    exact resetting_closeTest _ (by rw [rack_writeAllFailed s l h]; exact hr n h)
  unfold State.selfTestDone
  rw [if_pos (by rw [hs, hall]; rfl)]
  change (let t := overAll _ _ (overAll _ _ (s.writeAllFailed l).closeTest.closeExit); { t with hkp := { t.hkp with testing := [] } }) = _
  rw [over_noop _ (fun p u => u.partitionResetDone p l) _
      (fun p hm => partitionResetDone_of_none l (hpart p (List.mem_range.mp (List.mem_filter.mp hm).1))),
    over_noop _ (fun n u => u.rackResetDone n l) _
      (fun n hm => rackResetDone_of_none l (hrack n (List.mem_range.mp (List.mem_filter.mp hm).1)))]

/-! ## DEVICE_READY (R374; 18_power_ladder.md R347) -/

/-- The record that an event of a source would be now (14_queros_host_link.md R290). -/
def State.eventNow (s : State) (src : Nat) (code : EvCode) (payload : List Int) : Event :=
  { src := src, code := code, seq := tget s.hkp.evSeq 0 src, time := s.hkp.count % 2 ^ 40, payload := payload }

/-- Where the record is stored, the source's next number and the buffer are all that change. -/
theorem raise_stored {s : State} (src : Nat) (code : EvCode) (payload : List Int) (h : s.isOn 78 = true)
    (hb : s.qrs.evBuf.length < evBufMax) :
    s.raise src code payload =
      { s with
        hkp := { s.hkp with evSeq := tset s.hkp.evSeq 0 src (tget s.hkp.evSeq 0 src + 1) }
        qrs := { s.qrs with evBuf := s.qrs.evBuf ++ [s.eventNow src code payload] } } := by
  simp [State.eventNow, State.raise, State.nextSeq, Qrs.store, h, hb]

/-- Firmware runs, no self-test and no rung move is open, Queros is On and no CXL port trains: READY may be set (R374, R347;
entry 89). -/
structure MayBeReady (s : State) : Prop where
  firmware : s.hkp.boot = .firmware
  tested : s.hkp.selfTest = false
  rung : s.hkp.rung = 0
  still : s.hkp.trans = false
  queros : s.isOn 77 = true
  unready : s.hkp.ready = false
  trained : s.cxl.ports.any (fun e => e.2.state == 1) = false

theorem MayBeReady.passes {s : State} (h : MayBeReady s) :
    ¬ (s.hkp.boot ≠ .firmware ∨ s.hkp.selfTest ∨ s.hkp.rung ≠ 0 ∨ s.hkp.trans ∨ s.isOn 77 = false ∨ s.hkp.ready ∨
      s.cxl.ports.any (fun e => e.2.state == 1)) := by
  rw [h.firmware, h.tested, h.rung, h.still, h.queros, h.unready, h.trained]; simp

/-- READY is set and the idle racks go Off (R84). -/
def State.readied (s : State) : State := ({ s with hkp := { s.hkp with ready := true, resetting := none } }).idleRacksOff

section readied
variable (s : State)
theorem readied_eq :
    s.readied = { s with isl := s.readied.isl, racks := s.readied.racks, mem := s.readied.mem, secded := s.readied.secded
                         signals := s.readied.signals, hkp := { s.hkp with ready := true, resetting := none } } :=
  idleRacksOff_eq _

@[simp] theorem readied_hkp : s.readied.hkp = { s.hkp with ready := true, resetting := none } := idleRacksOff_hkp _
@[simp] theorem readied_qrs : s.readied.qrs = s.qrs := idleRacksOff_qrs _

theorem mem_readied {k : Nat} (h : ¬ IdleStore s k) : tget s.readied.mem emptyByte k = tget s.mem emptyByte k :=
  mem_idleRacksOff _ h

theorem pow_readied {n : Nat} (hn : n < 48) (h : s.partOf n = none) : (s.readied.island n).pow = .off :=
  pow_idleRacksOff _ hn h

@[simp] theorem failed_readied (n : Nat) : (s.readied.rack n).failed = (s.rack n).failed := failed_idleRacksOff _ n

theorem rack_readied_of_held {n : Nat} (h : (s.partOf n).isSome = true) : s.readied.rack n = s.rack n :=
  (rack_idleRacksOff _ n).trans (if_neg (not_mem_idleRacks_of_held _ h))

theorem island_readied_of_held {n : Nat} (h : (s.partOf n).isSome = true) : s.readied.island n = s.island n :=
  (island_idleRacksOff _ n).trans (if_neg (not_mem_idleRacks_of_held _ h))

theorem island_readied_hub {n : Nat} (h : 48 ≤ n) : s.readied.island n = s.island n := island_idleRacksOff_hub _ h

@[simp] theorem isOn_readied_hub {n : Nat} (h : 48 ≤ n) : s.readied.isOn n = s.isOn n := by
  simp only [State.isOn, island_readied_hub s h]
end readied

theorem deviceReady_of_none {s : State} (h : MayBeReady s) (hr : s.hkp.resetting = none) : s.deviceReady = s.readied := by
  rw [State.deviceReady, if_neg h.passes, hr]; rfl

/-- After a device reset its kind is named (R347). -/
theorem deviceReady_of_some {s : State} {k : ResetKind} (h : MayBeReady s) (hr : s.hkp.resetting = some k) :
    s.deviceReady = s.readied.raise srcUnit .deviceReset [resetCode k] := by
  rw [State.deviceReady, if_neg h.passes, hr]; rfl

end Sys2Proof.Machine
end

section
/-! Self-test and DEVICE_READY are settled (04_trays_racks_partitions.md R76, R84). -/

namespace Sys2Proof.Machine

/-- The end of a start-up's self-test (R76, R375). -/
theorem selfTestDone_spec {s : State} (l : List (Rack × BitVec 32)) (hs : s.hkp.selfTest = true)
    (ht : ∀ n < 48, n ∈ s.hkp.testing) (hp : ∀ p < 8, (s.part p).resetting = none) (hr : ∀ n < 48, (s.rack n).resetting = none) :
    ∃ t, Does (.selfTestDone l) s t ∧ t.hkp.selfTest = false ∧ t.hkp.testing = [] ∧
      (∀ k, ¬ IdleStore s k → tget t.mem emptyByte k = tget s.mem emptyByte k) ∧
      (∀ n < 48, s.partOf n = none → (t.island n).pow = .off) ∧
      (∀ n < 48, (t.rack n).failed = failedOf l n ∧ tget t.hkp.failedCopy 0 n = failedOf l n) := by
  have hparts : (s.writeAllFailed l).parts = s.parts := writeAllFailed_parts s l
  have hself : (s.writeAllFailed l).closeTest.hkp.selfTest = false := by rw [closeTest_hkp]
  have hmem (k : Nat) (hk : ¬ IdleStore s k) :
      tget (s.writeAllFailed l).closeTest.mem emptyByte k = tget s.mem emptyByte k := by
    rw [mem_closeTest _ (fun c => hk ((idleStore_congr hparts k).mp c)), writeAllFailed_mem]
  have hoff (n : Nat) (hn : n < 48) (hidle : s.partOf n = none) : ((s.writeAllFailed l).closeTest.island n).pow = .off :=
    pow_closeTest _ hn ((partOf_congr hparts n).trans hidle)
  have hfailed (n : Nat) (hn : n < 48) : ((s.writeAllFailed l).closeTest.rack n).failed = failedOf l n := by
    rw [failed_closeTest, rack_writeAllFailed s l hn]
  have hcopy (n : Nat) (hn : n < 48) : tget (s.writeAllFailed l).closeTest.hkp.failedCopy 0 n = failedOf l n := by
    rw [closeTest_hkp]; exact failedCopy_writeAllFailed s l hn
  refine ⟨_, congrArg Host.Outcome.next (selfTestDone_startup l hs ht hp hr), ?_⟩
  rw [closeExit_eq]
  generalize (s.writeAllFailed l).closeTest = u at *
  exact ⟨hself, rfl, hmem, hoff, fun n hn => ⟨hfailed n hn, hcopy n hn⟩⟩

/-- DEVICE_READY after a device reset (R374, R347). -/
theorem deviceReady_after_reset {s : State} {k : ResetKind} (h : MayBeReady s) (hq : s.isOn 78 = true)
    (hr : s.hkp.resetting = some k) (hb : s.qrs.evBuf.length < evBufMax) :
    ∃ t e, Does .deviceReady s t ∧ t.hkp.ready = true ∧ t.hkp.resetting = none ∧ t.qrs.evBuf = s.qrs.evBuf ++ [e] ∧
      e.src = 0x200 ∧ e.code = .deviceReset ∧ e.payload = [(resetCode k : Int)] ∧
      (∀ k, ¬ IdleStore s k → tget t.mem emptyByte k = tget s.mem emptyByte k) := by
  have hraise := raise_stored (s := s.readied) srcUnit .deviceReset [(resetCode k : Int)] (by simpa using hq) (by simpa using hb)
  refine ⟨_, s.readied.eventNow srcUnit .deviceReset [(resetCode k : Int)], congrArg Host.Outcome.next ((deviceReady_of_some h hr).trans hraise),
    ?ready, ?ended, ?queued, rfl, rfl, rfl, fun _ => mem_readied s⟩
  case ready => simp
  case ended => simp
  case queued => simp

/-- DEVICE_READY where no device reset came before (R374, R84). -/
theorem deviceReady_without_reset {s : State} (h : MayBeReady s) (hr : s.hkp.resetting = none) :
    ∃ t, Does .deviceReady s t ∧
      t = { s with isl := t.isl, racks := t.racks, mem := t.mem, secded := t.secded, signals := t.signals
                   hkp := { s.hkp with ready := true } } ∧
      (∀ k, ¬ IdleStore s k → tget t.mem emptyByte k = tget s.mem emptyByte k) ∧
      (∀ n < 48, s.partOf n = none → (t.island n).pow = .off ∧ (t.rack n).failed = (s.rack n).failed) ∧
      (∀ n, (s.partOf n).isSome = true → t.rack n = s.rack n ∧ t.island n = s.island n) ∧
      (∀ n, 48 ≤ n → t.island n = s.island n) := by
  refine ⟨s.readied, congrArg Host.Outcome.next (deviceReady_of_none h hr), (readied_eq s).trans ?_, fun _ => mem_readied s,
    fun n hn hidle => ⟨pow_readied s hn hidle, failed_readied s n⟩,
    fun n hheld => ⟨rack_readied_of_held s hheld, island_readied_of_held s hheld⟩, fun _ => island_readied_hub s⟩
  simp only [hr]

/-- Settles O8: a start-up's self-test ends over `writeAllFailed` and `idleRacksOff`, DEVICE_READY over `idleRacksOff` alone, and
that touches no store, register or island of a rack that a partition holds. -/
theorem selfTestAndReady : Obligations.SelfTestAndReady := by
  unfold Obligations.SelfTestAndReady
  refine ⟨fun s l hs ht hp hr => selfTestDone_spec l hs ht hp hr, ?_, ?_⟩
  · intro s k hboot htest hrung htrans hq hev hready hcxl hr hb
    exact deviceReady_after_reset ⟨hboot, htest, hrung, htrans, hq, hready, hcxl⟩ hev hr hb
  · intro s hboot htest hrung htrans hq hready hcxl hr
    exact deviceReady_without_reset ⟨hboot, htest, hrung, htrans, hq, hready, hcxl⟩ hr

end Sys2Proof.Machine
end

section
/-! What a slot reads after it is set, and what a signal does to a counter's half (06_task_engines_and_whisk.md R118). -/

namespace Sys2Proof.Machine

/-! ## A slot reads as it was last set, and setting it leaves its neighbours alone -/

section setSlot
variable (s : State) (n i : Nat) (v : Slot)

@[simp] theorem rack_setSlot_same : (s.setSlot n i v).rack n = { s.rack n with slots := tset (s.rack n).slots {} i v } :=
  State.rack_modRack_same s n (fun r => { r with slots := tset r.slots {} i v })

theorem rack_setSlot_ne {k : Nat} (h : k ≠ n) : (s.setSlot n i v).rack k = s.rack k :=
  State.rack_modRack_ne s k n (fun r => { r with slots := tset r.slots {} i v }) h

@[simp] theorem slot_setSlot_same : (s.setSlot n i v).slot n i = v := by
  simp only [State.slot, rack_setSlot_same, tget_tset_same]

theorem slot_setSlot_ne {j : Nat} (h : j ≠ i) : (s.setSlot n i v).slot n j = s.slot n j := by
  simp only [State.slot, rack_setSlot_same, tget_tset_ne _ _ _ _ h]
end setSlot

/-! ## Signals (R118) -/

/-- A counter that clears no bucket gives no clearance. -/
theorem giveClears_of_none {s : State} {n ctr : Nat} (step : Step) (h : s.clearsOf n ctr = []) : s.giveClears n ctr step = s := by
  rw [State.giveClears, h]; rfl

/-- Only the recipes say which buckets a counter clears. -/
theorem clearsOf_congr {s t : State} (h : t.rcp = s.rcp) (n ctr : Nat) : t.clearsOf n ctr = s.clearsOf n ctr := by
  rw [State.clearsOf, State.clearsOf, h]

@[simp] theorem addHalf_rcp (s : State) (n ctr : Nat) (inc : BitVec 32) (step : Step) : (s.addHalf n ctr inc step).rcp = s.rcp := by
  unfold State.addHalf
  dsimp only
  split
  · rfl
  · split <;> rfl

section addHalf
variable {s : State} {n ctr : Nat} (inc : BitVec 32) {step : Step}

/-- A newer step restarts the half. -/
theorem addHalf_newer (h : newer step (tget (s.rack n).halves {} (halfKey ctr step)).tag = true) :
    s.addHalf n ctr inc step =
      s.modRack n (fun r => { r with halves := tset r.halves {} (halfKey ctr step) { count := inc, tag := step } }) := by
  rw [State.addHalf, if_pos h]

/-- The same step adds. -/
theorem addHalf_same (h : (tget (s.rack n).halves {} (halfKey ctr step)).tag = step) :
    s.addHalf n ctr inc step =
      s.modRack n (fun r => { r with halves := tset r.halves {} (halfKey ctr step)
                                       { tget (s.rack n).halves {} (halfKey ctr step) with
                                         count := (tget (s.rack n).halves {} (halfKey ctr step)).count + inc } }) := by
  have hn : newer step (tget (s.rack n).halves {} (halfKey ctr step)).tag = false := by rw [h]; simp [newer]
  rw [State.addHalf, if_neg (Bool.eq_false_iff.mp hn), if_pos h]

/-- An older step is discarded and counted. -/
theorem addHalf_older (hne : (tget (s.rack n).halves {} (halfKey ctr step)).tag ≠ step)
    (h : newer step (tget (s.rack n).halves {} (halfKey ctr step)).tag = false) :
    s.addHalf n ctr inc step = s.modRack n (fun r => { r with late := r.late + 1 }) := by
  rw [State.addHalf, if_neg (Bool.eq_false_iff.mp h), if_neg hne]
end addHalf

/-- The state in which a signal acts: it has left the ring. -/
def State.signalTaken (s : State) (n ctr : Nat) (inc : BitVec 16) (step : Step) : State :=
  { s with signals := s.signals.erase (n, ctr, inc, step) }

/-- A signal of a counter that clears no bucket reaches its half and nothing else. -/
theorem signal_of_no_clears {s : State} {n ctr : Nat} (inc : BitVec 16) (step : Step) (h : s.clearsOf n ctr = []) :
    s.signal n ctr inc step = (s.signalTaken n ctr inc step).addHalf n ctr (BitVec.ofNat 32 inc.toNat) step :=
  giveClears_of_none step ((clearsOf_congr (addHalf_rcp _ _ _ _ _) n ctr).trans h)

/-- Settles O27: a signal of such a counter is `addHalf`, whose three cases are the three clauses. -/
theorem signalsReachTheirHalf : Obligations.SignalsReachTheirHalf := by
  unfold Obligations.SignalsReachTheirHalf
  refine ⟨fun s n c k e hc ht => ?same, fun s n c k e hc hn => ?newer, fun s n c k e hc hne hn => ?older⟩
  case same =>
    refine ⟨_, rfl, ?_⟩
    rw [signal_of_no_clears k e hc, addHalf_same (s := s.signalTaken n.val c.val k e) _ ht]
    refine ⟨rfl, ?_, fun j hj => ?_, fun j hj => State.rack_modRack_ne _ j _ _ hj⟩
    · rw [State.rack_modRack_same]
      exact (tget_tset_same _ _ _ _).trans (congrArg (Half.mk _) ht)
    · rw [State.rack_modRack_same]; exact tget_tset_ne _ _ _ _ hj
  case newer =>
    refine ⟨_, rfl, ?_⟩
    rw [signal_of_no_clears k e hc, addHalf_newer (s := s.signalTaken n.val c.val k e) _ hn]
    refine ⟨rfl, ?_⟩
    rw [State.rack_modRack_same]; exact tget_tset_same _ _ _ _
  case older =>
    refine ⟨_, rfl, ?_⟩
    rw [signal_of_no_clears k e hc, addHalf_older (s := s.signalTaken n.val c.val k e) _ hne hn, State.rack_modRack_same]
    exact ⟨rfl, rfl, rfl⟩

end Sys2Proof.Machine
end

section
/-! What a packet on its way may touch (12_links_and_ordering.md R240 to R246), and what the plans in force may touch when they are
applied (19_ageing.md R365): frames of the fabric's and the ageing unit's operations. -/

namespace Sys2Proof.Machine

/-! ## Packets on their way -/

/-- The two states differ at most in what a packet on its way touches: ports and tables of the links, accepted packets, events, and what
leaves the device. -/
structure Traffic (s t : State) : Prop where
  eq : t = { s with hkp := t.hkp, qrs := t.qrs, lnk := t.lnk, inbox := t.inbox, sent := t.sent }

namespace Traffic

theorem refl (s : State) : Traffic s s := ⟨rfl⟩

theorem trans {s t u : State} (h : Traffic s t) (k : Traffic t u) : Traffic s u := ⟨k.eq.trans (by rw [h.eq])⟩

theorem overAll {α : Type} (l : List α) (f : α → State → State) (h : ∀ x ∈ l, ∀ t, Traffic t (f x t)) (s : State) :
    Traffic s (Machine.overAll l f s) :=
  over_keeps (P := Traffic s) l f (fun x hx t ht => ht.trans (h x hx t)) (refl s)

section fields
variable {s t : State} (h : Traffic s t)
include h
theorem mem : t.mem = s.mem := by rw [h.eq]
theorem isl : t.isl = s.isl := by rw [h.eq]
theorem rcp : t.rcp = s.rcp := by rw [h.eq]
theorem parts : t.parts = s.parts := by rw [h.eq]
theorem racks : t.racks = s.racks := by rw [h.eq]
end fields

end Traffic

section traffic
variable (s : State)

/-- An event counts its source's number, and may enter the buffer (14_queros_host_link.md R290, R291). -/
theorem raise_eq (src : Nat) (code : EvCode) (payload : List Int) :
    s.raise src code payload = { s with hkp := (s.raise src code payload).hkp, qrs := (s.raise src code payload).qrs } := by
  unfold State.raise
  dsimp only
  split <;> rfl

theorem traffic_raise (src : Nat) (code : EvCode) (payload : List Int) : Traffic s (s.raise src code payload) :=
  ⟨by rw [raise_eq]⟩

theorem traffic_modPort (n : Nat) (f : PortSt → PortSt) : Traffic s (s.modPort n f) := ⟨rfl⟩

theorem traffic_putSeq (key : Nat) (e : SeqEnt) : Traffic s (s.putSeq key e) := ⟨rfl⟩

theorem traffic_modDisc (f : Disc → Disc) : Traffic s (s.modDisc f) := ⟨rfl⟩

theorem traffic_keepWord (k : Packet) : Traffic s (s.keepWord k) := by
  unfold State.keepWord; split <;> exact ⟨rfl⟩

theorem traffic_unroutable (n : Nat) (k : Packet) : Traffic s (s.unroutable n k) := by
  refine Traffic.trans ?_ (traffic_raise _ _ _ _)
  exact ⟨rfl⟩

theorem traffic_pump (f n : Nat) : Traffic s (State.pump f n s) := by
  induction f generalizing s with
  | zero => exact .refl s
  | succ f ih =>
    unfold State.pump
    split
    · exact .refl s
    · exact Traffic.trans ⟨rfl⟩ (ih _)

theorem traffic_transmit (n : Nat) (k : Packet) : Traffic s (s.transmit n k) :=
  Traffic.trans (t := s.modPort n (fun p => p.enqueue k)) ⟨rfl⟩ (traffic_pump _ _ _)

theorem traffic_forward (k : Packet) (n : Nat) (dim : Option Nat) : Traffic s (s.forward k n dim) := by
  unfold State.forward
  split
  · exact traffic_transmit s n k
  · split
    · exact traffic_unroutable s n k
    · dsimp only
      split
      · exact traffic_unroutable s n k
      · split
        · exact traffic_transmit s _ _
        · exact traffic_unroutable s n k

theorem traffic_acceptPkt (k : Packet) : Traffic s (s.acceptPkt k) := by
  unfold State.acceptPkt
  dsimp only
  split <;> exact ⟨rfl⟩

theorem traffic_checkSeq (n : Option Nat) (k : Packet) : Traffic s (s.checkSeq n k) := by
  unfold State.checkSeq
  split
  · exact traffic_acceptPkt s k
  · dsimp only
    split <;> exact ⟨rfl⟩
  · exact traffic_modDisc s _

theorem traffic_closeFence (key : Nat) : Traffic s (s.closeFence key) := by
  unfold State.closeFence
  split
  · exact .refl s
  · split
    · exact .refl s
    · dsimp only
      refine Traffic.trans ?put (Traffic.overAll _ _ (fun k _ t => traffic_checkSeq t none k) _)
      refine Traffic.trans ?drop (traffic_putSeq _ _ _)
      exact Traffic.overAll _ _ (fun n _ t => traffic_modPort t n _) s

theorem traffic_closeIfReached (key : Nat) : Traffic s (s.closeIfReached key) := by
  unfold State.closeIfReached
  split
  · split
    · split
      · exact traffic_closeFence s key
      · exact .refl s
    · exact .refl s
  · exact .refl s

theorem traffic_deliver (n : Option Nat) (k : Packet) : Traffic s (s.deliver n k) := by
  unfold State.deliver
  split
  · exact traffic_modDisc s _
  · split
    · exact traffic_modDisc s _
    · split
      · exact .refl s
      · split
        · exact ⟨rfl⟩
        · exact (traffic_checkSeq s n k).trans (traffic_closeIfReached _ _)

theorem traffic_route (n : Option Nat) (k : Packet) : Traffic s (s.route n k) := by
  unfold State.route
  split
  · exact traffic_deliver s n k
  · exact traffic_forward s k _ _

theorem traffic_resolve (k : Packet) : Traffic s (s.resolve k) := by
  unfold State.resolve
  dsimp only
  split
  · exact traffic_route s none _
  · exact traffic_modDisc s _
end traffic

/-! ## A packet of a rack's stream (R239) -/

/-- The stream counts the packet; the rest is the packet's own way. -/
theorem traffic_sendOn (s : State) (n p : Nat) (dst : BitVec 14) (step : Step) (bid : BitVec 20) (b : Body) :
    Traffic (s.modStream n (fun t => { t with txseq := t.txseq + 1 })) (s.sendOn n p dst step bid b) :=
  (traffic_keepWord _ _).trans (traffic_resolve _ _)

/-- The two states differ at most in what a packet touches, and in what the racks' streams hold but their epochs. -/
structure Sends (s t : State) : Prop where
  eq : t = { s with racks := t.racks, hkp := t.hkp, qrs := t.qrs, lnk := t.lnk, inbox := t.inbox, sent := t.sent }
  epoch : ∀ r, (t.rack r).stream.epoch = (s.rack r).stream.epoch

theorem Sends.trans {s t u : State} (h : Sends s t) (k : Sends t u) : Sends s u where
  eq := k.eq.trans (by rw [h.eq])
  epoch r := (k.epoch r).trans (h.epoch r)

theorem sends_sendOn (s : State) (n p : Nat) (dst : BitVec 14) (step : Step) (bid : BitVec 20) (b : Body) :
    Sends s (s.sendOn n p dst step bid b) where
  eq := by
    have h := traffic_sendOn s n p dst step bid b
    exact h.eq.trans (by rw [h.racks]; rfl)
  epoch r := by
    have h := (traffic_sendOn s n p dst step bid b).racks
    have hr : (s.sendOn n p dst step bid b).rack r = (s.modStream n (fun t => { t with txseq := t.txseq + 1 })).rack r := by
      simp only [State.rack, h]
    rw [hr, State.modStream]
    by_cases c : r = n
    · subst c; rw [State.rack_modRack_same]
    · rw [State.rack_modRack_ne _ _ _ _ c]

theorem sends_fenceStream (s : State) (n p : Nat) (l : List Nat) (old new : BitVec 16) :
    Sends s (s.fenceStream n p l old new) :=
  over_keeps (P := Sends s) _ _ (fun _ _ _ ht => ht.trans (sends_sendOn _ _ _ _ _ _ _)) ⟨rfl, fun _ => rfl⟩

/-! ## Committed plans are applied (19_ageing.md R365) -/

theorem ageRecord_eq (s : State) (kind : BitVec 8) (margin data : Nat → BitVec 8) (trim : Nat → BitVec 4) :
    s.ageRecord kind margin data trim =
      { s with per := (s.ageRecord kind margin data trim).per, hkp := (s.ageRecord kind margin data trim).hkp } := by
  unfold State.ageRecord State.persist
  dsimp only
  split <;> rfl

/-- The two states differ at most in the ageing log, the hottest reading, and the islands' plans. -/
structure Plans (s t : State) : Prop where
  eq : t = { s with isl := t.isl, per := t.per, hkp := t.hkp }
  stopped : ∀ r, (t.island r).stopped = (s.island r).stopped

theorem Plans.trans {s t u : State} (h : Plans s t) (k : Plans t u) : Plans s u where
  eq := k.eq.trans (by rw [h.eq])
  stopped r := (k.stopped r).trans (h.stopped r)

theorem stopped_switch (i : IslandSt) : i.switch.stopped = i.stopped := by
  unfold IslandSt.switch; dsimp only; split <;> rfl

theorem plans_switch (s : State) (n : Nat) : Plans s (s.modIsland n IslandSt.switch) where
  eq := rfl
  stopped r := by
    by_cases c : r = n
    · subst c; rw [State.island_modIsland_same, stopped_switch]
    · rw [State.island_modIsland_ne _ _ _ _ c]

theorem plans_ageRecord (s : State) (kind : BitVec 8) (margin data : Nat → BitVec 8) (trim : Nat → BitVec 4) :
    Plans s (s.ageRecord kind margin data trim) where
  eq := by rw [ageRecord_eq]
  stopped r := by rw [ageRecord_eq]; rfl

theorem plans_applyPlans (s : State) (l : List Nat) : Plans s (s.applyPlans l) := by
  unfold State.applyPlans
  split
  · exact ⟨rfl, fun _ => rfl⟩
  · exact over_keeps (P := Plans s) _ _ (fun n _ t ht => ht.trans (plans_switch t n)) (plans_ageRecord _ _ _ _ _)

theorem plans_applyDue (s : State) : Plans s s.applyDue := plans_applyPlans _ _

end Sys2Proof.Machine
end

section
/-! A partition faults (04_trays_racks_partitions.md R88 to R92). -/

namespace Sys2Proof.Machine

/-! ## One part of the state says what its accessors read -/

theorem part_congr {s t : State} (h : t.parts = s.parts) (p : Nat) : t.part p = s.part p := by rw [State.part, State.part, h]

theorem rack_congr {s t : State} (h : t.racks = s.racks) (n : Nat) : t.rack n = s.rack n := by rw [State.rack, State.rack, h]

theorem island_congr {s t : State} (h : t.isl = s.isl) (n : Nat) : t.island n = s.island n := by rw [State.island, State.island, h]

/-! ## The racks of a partition (R87) -/

theorem mem_racksOf {s : State} {p n : Nat} : n ∈ s.racksOf p ↔ n < 48 ∧ (s.part p).racks.toNat.testBit n = true := by
  simp [State.racksOf, bitsOf]

theorem nodup_racksOf (s : State) (p : Nat) : (s.racksOf p).Nodup := List.nodup_range.filter _

/-- Only the partition's own register says which racks it has. -/
theorem racksOf_congr {s t : State} {p : Nat} (h : (t.part p).racks = (s.part p).racks) : t.racksOf p = s.racksOf p := by
  rw [State.racksOf, State.racksOf, h]

/-! ## Its epoch rises (R89) -/

/-- One rack's stream takes its next epoch and fences the old one. -/
def State.raiseStream (s : State) (p n : Nat) : State :=
  (s.modStream n (fun x => { x with epoch := (s.rack n).stream.epoch + 1 })).fenceStream n p
    (if s.drainedOff p then [] else s.fencePeers p) (s.rack n).stream.epoch ((s.rack n).stream.epoch + 1)

/-- The partition's own epoch rises. -/
def State.raisePart (s : State) (p : Nat) : State := s.modPart p (fun x => { x with epoch := x.epoch + 1 })

theorem raiseEpoch_eq_over (s : State) (p : Nat) :
    s.raiseEpoch p = overAll ((s.raisePart p).racksOf p) (fun n u => u.raiseStream p n) (s.raisePart p) := rfl

theorem racksOf_raisePart (s : State) (p : Nat) : (s.raisePart p).racksOf p = s.racksOf p :=
  racksOf_congr (by rw [State.raisePart, State.part_modPart_same])

/-- The fields that it writes; every other one stays. -/
theorem raiseStream_eq (s : State) (p n : Nat) :
    s.raiseStream p n = { s with racks := (s.raiseStream p n).racks, hkp := (s.raiseStream p n).hkp, qrs := (s.raiseStream p n).qrs
                                 lnk := (s.raiseStream p n).lnk, inbox := (s.raiseStream p n).inbox
                                 sent := (s.raiseStream p n).sent } :=
  (sends_fenceStream _ _ _ _ _ _).eq

theorem epoch_raiseStream (s : State) (p n r : Nat) :
    ((s.raiseStream p n).rack r).stream.epoch =
      if r = n then (s.rack r).stream.epoch + 1 else (s.rack r).stream.epoch := by
  refine ((sends_fenceStream _ _ _ _ _ _).epoch r).trans ?_
  by_cases c : r = n
  · subst c; rw [if_pos rfl, State.modStream, State.rack_modRack_same]
  · rw [if_neg c, State.modStream, State.rack_modRack_ne _ _ _ _ c]

/-- Rack by rack: a listed one's stream takes the next epoch, another keeps its own. -/
theorem epoch_over_raiseStream (l : List Nat) (h : l.Nodup) (s : State) (p r : Nat) :
    ((overAll l (fun n u => u.raiseStream p n) s).rack r).stream.epoch =
      if r ∈ l then (s.rack r).stream.epoch + 1 else (s.rack r).stream.epoch := by
  induction l generalizing s with
  | nil => simp [over_nil]
  | cons x l ih =>
    obtain ⟨hx, hl⟩ := List.nodup_cons.mp h
    rw [over_cons, ih hl, epoch_raiseStream]
    by_cases hr : r = x
    · subst hr; simp [hx]
    · simp [hr]

theorem epoch_raiseEpoch (s : State) {p r : Nat} (h : r ∈ s.racksOf p) :
    ((s.raiseEpoch p).rack r).stream.epoch = (s.rack r).stream.epoch + 1 := by
  rw [raiseEpoch_eq_over, epoch_over_raiseStream _ (nodup_racksOf _ _), if_pos (by rw [racksOf_raisePart]; exact h)]; rfl

theorem raiseEpoch_eq (s : State) (p : Nat) :
    s.raiseEpoch p = { s.raisePart p with
      racks := (s.raiseEpoch p).racks, hkp := (s.raiseEpoch p).hkp, qrs := (s.raiseEpoch p).qrs
      lnk := (s.raiseEpoch p).lnk, inbox := (s.raiseEpoch p).inbox, sent := (s.raiseEpoch p).sent } :=
  over_keeps (P := fun t => t = { s.raisePart p with
      racks := t.racks, hkp := t.hkp, qrs := t.qrs, lnk := t.lnk, inbox := t.inbox, sent := t.sent }) _ _
    (fun n _ t ht => (raiseStream_eq t p n).trans (by rw [ht])) rfl

theorem racksOf_raiseEpoch (s : State) (p : Nat) : (s.raiseEpoch p).racksOf p = s.racksOf p := by
  refine Eq.trans (racksOf_congr ?_) (racksOf_raisePart s p)
  rw [part_congr (s := s.raisePart p) (by rw [raiseEpoch_eq])]

/-! ## What a fault holds and stops (R89) -/

/-- Issue is held: the slots of the partition's racks freeze. -/
def State.freezeRacks (s : State) (p : Nat) : State := overAll (s.racksOf p) (fun n u => u.modSlots n Slot.freeze) s

/-- A recovery in progress stops (13_recovery.md R274). -/
def State.stopRecovery (s : State) (p : Nat) : State :=
  s.modRecov p (fun y => if 1 ≤ y.state.toNat ∧ y.state.toNat ≤ 5 then { y with state := 6, migration := none } else y)

/-- The partition shows its fault: its state, the cause, and its regions' mark. -/
def PartSt.faulted (x : PartSt) (cause : FaultCause) : PartSt :=
  { x with state := .faulted, cause := causeCode cause, faultedMark := true, halting := false }

/-- The racks' clocks stop. -/
def State.stopRacks (s : State) (p : Nat) : State :=
  overAll (s.racksOf p) (fun n u => u.modIsland n (fun i => { i with stopped := true })) s

/-- A partition that runs, is halted or is ready, while no full commit runs: its fault ends no commit (R89; 15_recipes.md R309). -/
structure MayFault (s : State) (p : Nat) : Prop where
  live : (s.part p).state = .run ∨ (s.part p).state = .halted ∨ (s.part p).state = .ready
  commit : s.fullCommit = false

/-- The state whose epochs rise: slots frozen, the fault shown, a recovery stopped. -/
def State.faultHeld (s : State) (p : Nat) (cause : FaultCause) : State :=
  ((s.freezeRacks p).modPart p (fun y => y.faulted cause)).stopRecovery p

/-- The state behind a fault, before its event and the plans that it lets in. -/
def State.faultStopped (s : State) (p : Nat) (cause : FaultCause) : State := ((s.faultHeld p cause).raiseEpoch p).stopRacks p

theorem faultPart_of_mayFault {s : State} {p : Nat} (h : MayFault s p) (cause : FaultCause) (island : Int) :
    s.faultPart p cause island =
      ((s.faultStopped p cause).raise (srcPart p) .partFault [p, (causeCode cause).toNat, island]).applyDue := by
  obtain ⟨hlive, hcommit⟩ := h
  have hempty : (s.part p).state ≠ .empty := by rcases hlive with h | h | h <;> rw [h] <;> decide
  have hfaulted : (s.part p).state ≠ .faulted := by rcases hlive with h | h | h <;> rw [h] <;> decide
  have hloading : ¬ (decide ((s.part p).state = .loading) || s.fullCommit) = true := by
    rw [hcommit]; rcases hlive with h | h | h <;> rw [h] <;> decide
  unfold State.faultPart
  dsimp only
  rw [if_neg hempty, if_neg hfaulted, if_neg hloading]
  rfl

/-- A later cause is only logged (R92). -/
theorem faultPart_of_faulted {s : State} {p : Nat} (h : (s.part p).state = .faulted) (cause : FaultCause) (island : Int) :
    s.faultPart p cause island = s.raise (srcPart p) .partFaultLater [p, (causeCode cause).toNat, island] := by
  unfold State.faultPart
  dsimp only
  rw [if_neg (by rw [h]; decide), if_pos h]

theorem faultPart_of_empty {s : State} {p : Nat} (h : (s.part p).state = .empty) (cause : FaultCause) (island : Int) :
    s.faultPart p cause island = s := by
  unfold State.faultPart
  dsimp only
  rw [if_pos h]

/-! ### The slots freeze -/

theorem stream_modSlots (s : State) (n : Nat) (f : Slot → Slot) (r : Nat) : ((s.modSlots n f).rack r).stream = (s.rack r).stream := by
  refine over_same (fun t => (t.rack r).stream) _ _ (fun i _ t => ?_) s
  by_cases c : r = n
  · subst c; rw [State.modSlot, rack_setSlot_same]
  · rw [State.modSlot, rack_setSlot_ne _ _ _ _ c]

theorem modSlots_eq (s : State) (n : Nat) (f : Slot → Slot) : s.modSlots n f = { s with racks := (s.modSlots n f).racks } :=
  over_keeps (P := fun t => t = { s with racks := t.racks }) _ _ (fun i _ t ht => by rw [ht]; rfl) rfl

theorem freezeRacks_eq (s : State) (p : Nat) : s.freezeRacks p = { s with racks := (s.freezeRacks p).racks } :=
  over_keeps (P := fun t => t = { s with racks := t.racks }) _ _ (fun n _ t ht => by rw [ht]; exact modSlots_eq _ n _) rfl

theorem stream_freezeRacks (s : State) (p r : Nat) : ((s.freezeRacks p).rack r).stream = (s.rack r).stream :=
  over_same (fun t => (t.rack r).stream) _ _ (fun n _ t => stream_modSlots t n _ r) s

/-! ### The racks' clocks stop -/

theorem stopRacks_eq (s : State) (p : Nat) : s.stopRacks p = { s with isl := (s.stopRacks p).isl } :=
  over_modIsland _ (fun n => n) (fun _ _ i => { i with stopped := true }) s

theorem stopped_stopRacks (s : State) {p r : Nat} (h : r ∈ s.racksOf p) : ((s.stopRacks p).island r).stopped = true := by
  rw [State.stopRacks, island_over _ (nodup_racksOf s p) (fun _ i => { i with stopped := true }), if_pos h]

/-! ### Together -/

section faultStopped
variable (s : State) (p : Nat) (cause : FaultCause)

theorem faultHeld_eq : s.faultHeld p cause =
    { s with racks := (s.freezeRacks p).racks, parts := (s.modPart p (fun y => y.faulted cause)).parts
             rcv := (s.faultHeld p cause).rcv } := by
  unfold State.faultHeld; rw [freezeRacks_eq]; rfl

/-- It leaves memory and recipes, and of the partitions' registers it writes the faulting one's. -/
theorem faultStopped_eq : s.faultStopped p cause =
    { s with isl := (s.faultStopped p cause).isl, hkp := (s.faultStopped p cause).hkp, qrs := (s.faultStopped p cause).qrs
             parts := ((s.modPart p (fun y => y.faulted cause)).raisePart p).parts, racks := ((s.faultHeld p cause).raiseEpoch p).racks
             lnk := (s.faultStopped p cause).lnk, rcv := (s.faultHeld p cause).rcv
             inbox := (s.faultStopped p cause).inbox, sent := (s.faultStopped p cause).sent } := by
  unfold State.faultStopped
  rw [stopRacks_eq, raiseEpoch_eq, faultHeld_eq]
  rfl

theorem part_faultStopped_same :
    (s.faultStopped p cause).part p = { (s.part p).faulted cause with epoch := (s.part p).epoch + 1 } := by
  rw [part_congr (s := (s.modPart p (fun y => y.faulted cause)).raisePart p) (by rw [faultStopped_eq]), State.raisePart,
    State.part_modPart_same, State.part_modPart_same]
  rfl

theorem part_faultStopped_ne {q : Nat} (h : q ≠ p) : (s.faultStopped p cause).part q = s.part q := by
  rw [part_congr (s := (s.modPart p (fun y => y.faulted cause)).raisePart p) (by rw [faultStopped_eq]), State.raisePart,
    State.part_modPart_ne _ _ _ _ h, State.part_modPart_ne _ _ _ _ h]

theorem racksOf_faultHeld : (s.faultHeld p cause).racksOf p = s.racksOf p := by
  refine racksOf_congr ?_
  rw [part_congr (s := s.modPart p (fun y => y.faulted cause)) (by rw [faultHeld_eq]), State.part_modPart_same]
  rfl

theorem stopped_faultStopped {r : Nat} (h : r ∈ s.racksOf p) : ((s.faultStopped p cause).island r).stopped = true := by
  refine stopped_stopRacks _ ?_
  rw [racksOf_raiseEpoch, racksOf_faultHeld]
  exact h

theorem epoch_faultStopped {r : Nat} (h : r ∈ s.racksOf p) :
    ((s.faultStopped p cause).rack r).stream.epoch = (s.rack r).stream.epoch + 1 := by
  rw [rack_congr (s := (s.faultHeld p cause).raiseEpoch p) (by rw [faultStopped_eq]),
    epoch_raiseEpoch _ (by rw [racksOf_faultHeld]; exact h),
    rack_congr (s := s.freezeRacks p) (by rw [faultHeld_eq]), stream_freezeRacks]
end faultStopped

/-! ## What a fault leaves (R89, R92) -/

/-- What the fault of a partition leaves of it, of its racks, and of everything that is not its own. -/
structure Faults (s : State) (p : Nat) (cause : FaultCause) (t : State) : Prop where
  part : t.part p = { (s.part p).faulted cause with epoch := (s.part p).epoch + 1 }
  others : ∀ q, q ≠ p → t.part q = s.part q
  stopped : ∀ r ∈ s.racksOf p, (t.island r).stopped = true
  epochs : ∀ r ∈ s.racksOf p, (t.rack r).stream.epoch = (s.rack r).stream.epoch + 1
  mem : t.mem = s.mem
  rcp : t.rcp = s.rcp

theorem faultPart_faults {s : State} {p : Nat} (h : MayFault s p) (cause : FaultCause) (island : Int) :
    Faults s p cause (s.faultPart p cause island) := by
  rw [faultPart_of_mayFault h]
  generalize hu : (s.faultStopped p cause).raise (srcPart p) .partFault [p, (causeCode cause).toNat, island] = u
  have htraffic : Traffic (s.faultStopped p cause) u := hu ▸ traffic_raise _ _ _ _
  have hplans : Plans u u.applyDue := plans_applyDue u
  have hparts : u.applyDue.parts = (s.faultStopped p cause).parts := by rw [hplans.eq, htraffic.parts]
  have hracks : u.applyDue.racks = (s.faultStopped p cause).racks := by rw [hplans.eq, htraffic.racks]
  refine ⟨?part, fun q hq => ?others, fun r hr => ?stopped, fun r hr => ?epochs, ?mem, ?rcp⟩
  case part => rw [part_congr hparts, part_faultStopped_same]
  case others => rw [part_congr hparts, part_faultStopped_ne s p cause hq]
  case stopped => rw [hplans.stopped, island_congr htraffic.isl, stopped_faultStopped s p cause hr]
  case epochs => rw [rack_congr hracks, epoch_faultStopped s p cause hr]
  case mem => rw [hplans.eq, htraffic.mem, faultStopped_eq]
  case rcp => rw [hplans.eq, htraffic.rcp, faultStopped_eq]

/-! ## A shared resource faults every partition that depends on it (R91) -/

theorem nodup_dependents (s : State) (n : Nat) : (s.dependents n).Nodup := List.nodup_range.filter _

theorem fullCommit_congr {s t : State} (h : t.rcp = s.rcp) : t.fullCommit = s.fullCommit := by
  rw [State.fullCommit, State.fullCommit, h]

/-- A partition that no commit is loading takes a fault, or has no place or no need for one: no other partition and no recipe changes. -/
theorem faultPart_frame {s : State} {p : Nat} (hl : (s.part p).state ≠ .loading) (hc : s.fullCommit = false) (cause : FaultCause)
    (island : Int) :
    (∀ q, q ≠ p → (s.faultPart p cause island).part q = s.part q) ∧ (s.faultPart p cause island).rcp = s.rcp := by
  have hlive (h : MayFault s p) :
      (∀ q, q ≠ p → (s.faultPart p cause island).part q = s.part q) ∧ (s.faultPart p cause island).rcp = s.rcp :=
    ⟨(faultPart_faults h cause island).others, (faultPart_faults h cause island).rcp⟩
  cases hs : (s.part p).state with
  | empty => rw [faultPart_of_empty hs]; exact ⟨fun _ _ => rfl, rfl⟩
  | loading => exact absurd hs hl
  | ready => exact hlive ⟨.inr (.inr hs), hc⟩
  | run => exact hlive ⟨.inl hs, hc⟩
  | halted => exact hlive ⟨.inr (.inl hs), hc⟩
  | faulted =>
    rw [faultPart_of_faulted hs]
    have h := traffic_raise s (srcPart p) .partFaultLater [p, (causeCode cause).toNat, island]
    exact ⟨fun q _ => part_congr h.parts q, h.rcp⟩

/-- Partition by partition: one that is not listed is as before; a listed one that may fault does. -/
theorem part_over_faultPart (l : List Nat) (h : l.Nodup) (s : State) (cause : FaultCause) (island : Int)
    (hl : ∀ q ∈ l, (s.part q).state ≠ .loading) (hc : s.fullCommit = false) (q : Nat) :
    (q ∉ l → (overAll l (fun p u => u.faultPart p cause island) s).part q = s.part q) ∧
    (q ∈ l → MayFault s q → (overAll l (fun p u => u.faultPart p cause island) s).part q =
      { (s.part q).faulted cause with epoch := (s.part q).epoch + 1 }) := by
  induction l generalizing s with
  | nil => exact ⟨fun _ => rfl, fun c => absurd c List.not_mem_nil⟩
  | cons x l ih =>
    obtain ⟨hx, hnd⟩ := List.nodup_cons.mp h
    obtain ⟨hothers, hrcp⟩ := faultPart_frame (hl x List.mem_cons_self) hc cause island
    have hne (j : Nat) (hj : j ∈ l) : j ≠ x := fun c => hx (c ▸ hj)
    have hc' : (s.faultPart x cause island).fullCommit = false := (fullCommit_congr hrcp).trans hc
    obtain ⟨hout, hin⟩ := ih hnd (s.faultPart x cause island)
      (fun j hj => by rw [hothers j (hne j hj)]; exact hl j (List.mem_cons_of_mem _ hj)) hc'
    rw [over_cons]
    refine ⟨fun hq => ?_, fun hq hm => ?_⟩
    · obtain ⟨hqx, hql⟩ := not_or.mp (mt List.mem_cons.mpr hq)
      rw [hout hql, hothers q hqx]
    · by_cases hqx : q = x
      · subst hqx; rw [hout hx, (faultPart_faults hm cause island).part]
      · have hql := (List.mem_cons.mp hq).resolve_left hqx
        have hq' := hothers q hqx
        rw [hin hql ⟨by rw [hq']; exact hm.live, hc'⟩, hq']

end Sys2Proof.Machine
end

section
/-! RETRY and the causes of a partition fault are settled (06_task_engines_and_whisk.md R125; 04_trays_racks_partitions.md R88 to R92). -/

namespace Sys2Proof.Machine

/-! ## RETRY (R125) -/

/-- A slot in Faulted with BUS_ERROR is retried. -/
theorem does_retry {s : State} {c : Cmd} {t : State} {n v : Nat} (h : Writes s c .retry t (.tskCmd n) v)
    (hs : (t.slot n (fieldOf v 6 0)).state = .faulted) (hc : (t.slot n (fieldOf v 6 0)).faultCode = tfBus) :
    Does (.retry c) s (done (t.setSlot n (fieldOf v 6 0) (t.slot n (fieldOf v 6 0)).retry) c) := by
  refine congrArg Host.Outcome.next ((host_opWrites h).trans ?_)
  dsimp only [cmdRack]
  rw [show t.putReg v (.tskCmd n) = t from rfl, if_pos ⟨hs, hc⟩]
  exact finish_ok _ _ _

/-- Any other slot is refused. -/
theorem does_retry_rejected {s : State} {c : Cmd} {t : State} {n v : Nat} (h : Writes s c .retry t (.tskCmd n) v)
    (hs : (t.slot n (fieldOf v 6 0)).state ≠ .faulted ∨ (t.slot n (fieldOf v 6 0)).faultCode ≠ tfBus) :
    Does (.retry c) s (t.complete c.q.val c.r.htag stRejected dNotRetryable 0) := by
  refine congrArg Host.Outcome.next ((host_opWrites h).trans ?_)
  dsimp only [cmdRack]
  rw [show t.putReg v (.tskCmd n) = t from rfl, if_neg (fun c => hs.elim (· c.1) (· c.2))]
  rfl

theorem retry_of_task {x : Slot} {o : Op} (h : x.faultOp = some o) (hp : o.desc.proof = false) :
    x.retry = { x with state := .wait, faultCode := 0, faultOp := none, dropped := none
                       newer := if o.stage = .fetched then none else some { desc := o.desc } } := by
  simp only [Slot.retry, h, hp]; rfl

theorem retry_of_proof {x : Slot} {o : Op} (h : x.faultOp = some o) (hp : o.desc.proof = true) :
    x.retry = { x with state := .ready, faultCode := 0, faultOp := none, newer := some { o with stage := .ready } } := by
  simp only [Slot.retry, h, hp]; rfl

/-! ## Which causes are detected (R88, R91) -/

theorem watchdog_of_not_run {s : State} {p : Nat} (h : (s.part p).state ≠ .run) : s.watchdog p = s :=
  if_neg (fun c => h c.1)

/-- A monitor, an engine and a rack store's word belong to a rack of the partition. -/
theorem detectFault_of_mem {s : State} {p n : Nat} {k : FaultCause} (hk : k = .island ∨ k = .engine ∨ k = .stateUe)
    (h : n ∈ s.racksOf p) : s.detectFault p k n = s.faultPart p k n := by
  have hm : (decide (n < 48) && (s.part p).racks.toNat.testBit n) = true := by
    obtain ⟨hn, hb⟩ := mem_racksOf.mp h
    rw [hb, decide_eq_true hn]; rfl
  rcases hk with rfl | rfl | rfl <;> exact if_pos hm

theorem detectFault_of_not_mem {s : State} {p n : Nat} {k : FaultCause} (hk : k = .island ∨ k = .engine ∨ k = .stateUe)
    (h : n ∉ s.racksOf p) : s.detectFault p k n = s := by
  have hm : ¬ (decide (n < 48) && (s.part p).racks.toNat.testBit n) = true := by
    rw [Bool.and_eq_true, decide_eq_true_eq]; exact mt mem_racksOf.mpr h
  rcases hk with rfl | rfl | rfl <;> exact if_neg hm

theorem detectFault_shared {s : State} {p n : Nat} (hn : 48 ≤ n) (h : p ∈ s.dependents n) :
    s.detectFault p .shared n = overAll (s.dependents n) (fun q u => u.faultPart q .shared n) s := by
  refine (if_pos ⟨hn, List.contains_iff_mem.mpr h⟩).trans ?_
  rw [State.faultShared, if_neg (Nat.not_lt.mpr hn)]

theorem detectFault_shared_else {s : State} {p n : Nat} (h : p ∉ s.dependents n ∨ n < 48) : s.detectFault p .shared n = s :=
  if_neg (fun c => h.elim (· (List.contains_iff_mem.mp c.2)) (Nat.not_lt.mpr c.1))

/-- Once a partition is Faulted no cause of its own changes anything but the events (R92). -/
theorem detectFault_of_faulted {s : State} {p : Nat} {k : FaultCause} (n : Nat) (h : (s.part p).state = .faulted) (hk : k ≠ .shared) :
    ∃ hkp qrs, s.detectFault p k n = { s with hkp := hkp, qrs := qrs } := by
  have hlog (k : FaultCause) (n : Int) : ∃ hkp qrs, s.faultPart p k n = { s with hkp := hkp, qrs := qrs } := by
    rw [faultPart_of_faulted h]
    exact ⟨_, _, raise_eq _ _ _ _⟩
  have hif (b : Prop) [Decidable b] (k : FaultCause) (n : Int) :
      ∃ hkp qrs, (if b then s.faultPart p k n else s) = { s with hkp := hkp, qrs := qrs } := by
    split
    · exact hlog k n
    · exact ⟨s.hkp, s.qrs, rfl⟩
  cases k with
  | island | engine | stateUe | tray => exact hif _ _ _
  | shared => exact absurd rfl hk
  | watchdog => exact hif _ _ _
  | host => exact ⟨s.hkp, s.qrs, rfl⟩

/-- Settles O28: RETRY over `host_opWrites` and the cases of `Slot.retry`; the faults over `faultPart_faults`, and those of a shared
resource over `part_over_faultPart`. -/
theorem faultsStopTasksAndPartitions : Obligations.FaultsStopTasksAndPartitions := by
  unfold Obligations.FaultsStopTasksAndPartitions
  refine ⟨?task, ?proof, fun s c t n v hw hs => does_retry_rejected hw hs, ?watchdog, ?quiet, ?fault, ?shared, ?unshared, ?foreign, ?trays,
    ?idle, fun s p n => rfl, ?again⟩
  case task =>
    intro s c t n v o hw hs hc ho hp
    refine ⟨_, does_retry hw hs hc, rfl, ?_, fun j hj => slot_setSlot_ne t n _ _ hj⟩
    rw [slot_setSlot_same, retry_of_task ho hp]
  case proof =>
    intro s c t n v o hw hs hc ho hp
    refine ⟨_, does_retry hw hs hc, rfl, ?_, fun j hj => slot_setSlot_ne t n _ _ hj⟩
    rw [slot_setSlot_same, retry_of_proof ho hp]
  case watchdog =>
    intro s p d hs hd hw hc
    have hf : Faults s p.val .watchdog (s.faultPart p.val .watchdog 0xFF) := faultPart_faults ⟨.inl hs, hc⟩ _ _
    have he : s.watchdog p.val = s.faultPart p.val .watchdog 0xFF := if_pos ⟨hs, by rw [hd]; exact hw⟩
    refine ⟨_, congrArg Host.Outcome.next he, ?_, ?_, hf.mem, hf.others⟩ <;> rw [hf.part] <;> rfl
  case quiet => exact fun s p h => congrArg Host.Outcome.next (watchdog_of_not_run h)
  case fault =>
    intro s p k n hs hc hk
    have hd : ∃ i, s.detectFault p.val k n.val = s.faultPart p.val k i := by
      rcases hk with ⟨hk, hn⟩ | ⟨rfl, ht⟩
      · exact ⟨_, detectFault_of_mem hk hn⟩
      · exact ⟨_, if_pos ht⟩
    obtain ⟨i, hi⟩ := hd
    have hf : Faults s p.val k (s.faultPart p.val k i) := faultPart_faults ⟨hs, hc⟩ _ _
    refine ⟨_, congrArg Host.Outcome.next hi, ?_, ?_, ?_, ?_, hf.mem, fun r hr => ⟨hf.stopped r hr, hf.epochs r hr⟩⟩ <;>
      rw [hf.part] <;> rfl
  case shared =>
    intro s p n hs hl hc hn hp
    have hover (q : Nat) := part_over_faultPart (s.dependents n.val) (nodup_dependents s n.val) s .shared n.val (fun q _ => hl q) hc q
    have hpart := (hover p.val).2 hp ⟨hs, hc⟩
    refine ⟨_, congrArg Host.Outcome.next (detectFault_shared hn hp), ?_, ?_, ?_, fun q hq => (hover q).1 hq⟩ <;> rw [hpart] <;> rfl
  case unshared => exact fun s p n h => congrArg Host.Outcome.next (detectFault_shared_else h)
  case foreign => exact fun s p k n hk hn => congrArg Host.Outcome.next (detectFault_of_not_mem hk hn)
  case trays => exact fun s p n h => congrArg Host.Outcome.next (if_neg (Bool.eq_false_iff.mp h))
  case idle => exact fun s p n h => congrArg Host.Outcome.next (watchdog_of_not_run h)
  case again =>
    intro s p k n hs hk
    obtain ⟨hkp, qrs, he⟩ := detectFault_of_faulted n.val hs hk
    exact ⟨_, congrArg Host.Outcome.next he, rfl, rfl⟩

end Sys2Proof.Machine
end

section
/-! Fetched descriptors (06_task_engines_and_whisk.md R114 to R117): which bytes of memory they depend on, and what a fetch does. -/

namespace Sys2Proof.Machine

/-! ## The words of a descriptor (R115, R116) -/

/-- Word i of a descriptor's bytes. -/
def descWord (b : List Byte) (i : Nat) : Nat := leNat ((b.drop (8 * i)).take 8)

/-- A whole number of bytes of a little-endian value shifts out with the bytes. -/
theorem leNat_shiftRight (k : Nat) (l : List Byte) : leNat l >>> (8 * k) = leNat (l.drop k) := by
  induction k generalizing l with
  | zero => rfl
  | succ k ih =>
    cases l with
    | nil => exact Nat.zero_shiftRight _
    | cons x l =>
      have hx : leNat (x :: l) >>> 8 = leNat l := by
        have := x.isLt
        rw [Nat.shiftRight_eq_div_pow, leNat]; omega
      rw [Nat.mul_succ, Nat.add_comm, Nat.shiftRight_add, hx, ih, List.drop_succ_cons]

/-- Bytes at the same places of two lists of one length, over a range. -/
theorem take_drop_congr {b c : List Byte} (h : b.length = c.length) {k m : Nat}
    (hj : ∀ j, k ≤ j → j < k + m → b.getD j 0 = c.getD j 0) : (b.drop k).take m = (c.drop k).take m := by
  refine List.ext_getElem (by simp [h]) (fun j hb hc => ?_)
  have hlt : j < m ∧ k + j < b.length := by simp at hb; omega
  have := hj (k + j) (by omega) (by omega)
  simpa [List.getD_eq_getElem?_getD, hlt.2, h ▸ hlt.2] using this

/-- A field above bit 32 depends on the upper half alone. -/
theorem fieldOf_congr_upper {v w : Nat} (h : v >>> 32 = w >>> 32) (top : Nat) {lo : Nat} (hl : 32 ≤ lo) :
    fieldOf v top lo = fieldOf w top lo := by
  obtain ⟨d, rfl⟩ := Nat.exists_eq_add_of_le hl
  rw [fieldOf, fieldOf, Nat.shiftRight_add, Nat.shiftRight_add, h]

theorem testBit_congr_upper {v w : Nat} (h : v >>> 32 = w >>> 32) {i : Nat} (hi : 32 ≤ i) : v.testBit i = w.testBit i := by
  obtain ⟨d, rfl⟩ := Nat.exists_eq_add_of_le hi
  rw [← Nat.testBit_shiftRight, ← Nat.testBit_shiftRight, h]

section descWord
variable {b c : List Byte} (hlen : b.length = c.length) (hbytes : ∀ j, j < 8 ∨ 12 ≤ j → b.getD j 0 = c.getD j 0)
include hlen hbytes

/-- Bytes 8 to 11 lie in word 1. -/
theorem descWord_congr {i : Nat} (hi : i ≠ 1) : descWord b i = descWord c i :=
  congrArg leNat (take_drop_congr hlen (fun j h1 h2 => hbytes j (by omega)))

/-- They are its lower half. -/
theorem descWord_one_congr : descWord b 1 >>> 32 = descWord c 1 >>> 32 := by
  rw [descWord, descWord, leNat_shiftRight 4, leNat_shiftRight 4, List.drop_take, List.drop_take, List.drop_drop, List.drop_drop]
  exact congrArg leNat (take_drop_congr hlen (fun j h1 h2 => hbytes j (by omega)))

theorem descOf_congr (a : Nat) (t : Step) (hkind : fieldOf (descWord b 0) 3 0 ≤ 3) :
    { descOf a t b with target := 0 } = { descOf a t c with target := 0 } := by
  have hfold (b : List Byte) (i : Nat) : leNat ((b.drop (8 * i)).take 8) = descWord b i := rfl
  have hw {i : Nat} (hi : i ≠ 1) : descWord b i = descWord c i := descWord_congr hlen hbytes hi
  have hf (top : Nat) {lo : Nat} (hl : 32 ≤ lo) : fieldOf (descWord b 1) top lo = fieldOf (descWord c 1) top lo :=
    fieldOf_congr_upper (descWord_one_congr hlen hbytes) top hl
  have ht : (descWord b 1).testBit 63 = (descWord c 1).testBit 63 := testBit_congr_upper (descWord_one_congr hlen hbytes) (by decide)
  have hloop : fieldOf (descWord c 0) 3 0 ≠ kLoop := by rw [← hw (by decide)]; unfold kLoop; omega
  have hend : fieldOf (descWord c 0) 3 0 ≠ kEnd := by rw [← hw (by decide)]; unfold kEnd; omega
  simp (disch := omega) only [descOf, hfold, hw, hf, ht, if_neg hloop, if_neg hend, -Nat.reduceMul]

end descWord

theorem srel_descOf (a : Nat) (t : Step) (b : List Byte) : (descOf a t b).srel = fieldOf (leNat (b.take 8)) 63 62 := rfl

theorem step_descOf (a : Nat) (t : Step) (b : List Byte) : (descOf a t b).step = t + BitVec.ofNat 32 (descOf a t b).srel := rfl

/-! ## A fetch that reads (R114, R117) -/

/-- The descriptor that a slot's next fetch makes of the bytes that it reads. -/
def Slot.descAt (x : Slot) (b : List Byte) : Desc := descOf x.next x.tstep b

/-- The slot behind a fetch of a valid descriptor. -/
def Slot.fetched (x : Slot) (b : List Byte) : Slot :=
  { x.noteBound (x.descAt b) with newer := some { desc := x.descAt b }, next := x.next + 128, state := .wait }

section fetch
variable {s : State} {n i p : Nat} {b : List Byte} (ha : s.active n = some p) (hf : (s.slot n i).fetches = true)
  (hi : inStore n (s.slot n i).next = true) (hr : s.read (.rack n) (s.slot n i).next 128 = (s, .ok b))
include ha hf hi hr

theorem fetch_of_valid (hd : s.descErr n p ((s.slot n i).descAt b) = none) :
    s.fetch n i none = s.setSlot n i ((s.slot n i).fetched b) := by
  unfold Slot.descAt at hd
  simp [State.fetch, ha, hf, hi, hr, hd, Slot.fetched, Slot.descAt]

theorem fetch_of_invalid {f : Nat} (hd : s.descErr n p ((s.slot n i).descAt b) = some f) :
    s.fetch n i none = s.taskFault n i { desc := (s.slot n i).descAt b } false f 0 := by
  unfold Slot.descAt at hd
  simp [State.fetch, ha, hf, hi, hr, hd, Slot.descAt]
end fetch

/-- Settles O52: the fetched copy by `fetch_of_valid`, the bytes of memory by `descOf_congr`. -/
theorem fetchedDescriptorsTakeTheirStep : Obligations.FetchedDescriptorsTakeTheirStep := by
  unfold Obligations.FetchedDescriptorsTakeTheirStep
  refine ⟨?fetched, fun a t b c hb hc hk hj => descOf_congr (hb.trans hc.symm) hj a t hk⟩
  intro s n i p b ha hf hi hr hd
  refine ⟨_, { desc := (s.slot n.val i.val).descAt b },
    congrArg (fun t => Host.Outcome.next (State.trySeals t)) (fetch_of_valid ha hf hi hr hd), ?_, step_descOf _ _ _, srel_descOf _ _ _⟩
  rw [slot_setSlot_same]; rfl

/-! ## A fault takes waiting operations to Ready -/

/-- No step of a partition that has opened none may be sealed (08_training_step.md R161). -/
theorem sealable_of_unopened {s : State} {p : Nat} (h : (s.part p).everOpen = false) : s.sealable p = false := by
  have hd (k : Step) : s.stepDone p k = false := by rw [State.stepDone, State.stepIsOpen, h]; rfl
  simp [State.sealable, hd]

theorem trySeals_of_unopened {s : State} (h : ∀ p, (s.part p).everOpen = false) : s.trySeals = s :=
  over_noop _ _ s (fun j _ => by rw [State.trySeal, sealable_of_unopened (h _)]; rfl)

/-- A fused kernel that its slot has issued, whose next internal operation has its operands (06_task_engines_and_whisk.md R131). -/
def filledKernel : Op :=
  { desc := { descBlank 0 0 with kind := kFused }, stage := .latched, g := 1
    fused := some { kind := .attnBwd, words := [], round := 1
                    par := { feats := 1, tiles := 1, head := 1, score := 0, konst := 0, ents := [], progs := [] } } }

/-- Partition 0 runs on rack 0. Slot 0 has issued that kernel and fetches next where zeros stand, which name stream 0 and not the
rack's stream 1. -/
def faultingFetch : State :=
  { isl := [(0, { IslandSt.dflt 0 with pow := .on })]
    parts := [(0, { state := .run, racks := 1 })]
    racks := [(0, { stream := { state := .active, id := 1 }
                    slots := [(0, { state := .run, next := rackBase, older := some filledKernel })] })] }

theorem faultingFetch_reads : faultingFetch.read (.rack 0) rackBase 128 =
    (faultingFetch, .ok (faultingFetch.afterWrites rackBase (faultingFetch.readBytes rackBase 128))) :=
  read_ok (by decide)

theorem faultingFetch_descErr : faultingFetch.descErr 0 0
    (descOf rackBase 0 (faultingFetch.afterWrites rackBase (faultingFetch.readBytes rackBase 128))) = some tfStream := by decide

/-- The fault of the fetched descriptor also takes the kernel's filled operation to Ready (R131). -/
theorem faultingFetch_readies : ((faultingFetch.fetch 0 0 none).slot 0 0).older.map (fun o => o.stage) = some .ready := by decide

theorem faultingFetch_unopened (p : Nat) : (faultingFetch.part p).everOpen = false := by
  by_cases h : p = 0
  · subst h; rfl
  · simp [State.part, tget, tfind, faultingFetch, Ne.symm h]

/-- Refutes O24: its second clause keeps a slot's issued operation through a fetch that faults, but in `faultingFetch`, where nothing
may seal, the row also takes the issued kernel's filled internal operation from latched to Ready. -/
theorem not_descriptorsAreFetched : ¬ Obligations.DescriptorsAreFetched := by
  unfold Obligations.DescriptorsAreFetched
  rintro ⟨-, hfault, -⟩
  obtain ⟨t, hdoes, heq, -, -, -, -, holder, -⟩ :=
    hfault faultingFetch 0 0 0 tfStream _ (by decide) (by decide) (by decide) faultingFetch_reads faultingFetch_descErr
  have ht : t.trySeals = t := trySeals_of_unopened (fun p => by rw [heq]; exact faultingFetch_unopened p)
  have hfetch : (faultingFetch.fetch 0 0 none).trySeals = faultingFetch.fetch 0 0 none :=
    trySeals_of_unopened (fun p => (congrArg PartSt.everOpen (part_congr (by decide) p)).trans (faultingFetch_unopened p))
  have hnext : faultingFetch.fetch 0 0 none = t := hfetch.symm.trans ((Host.Outcome.next.inj hdoes).trans ht)
  have hstage := faultingFetch_readies
  rw [hnext, show (t.slot 0 0).older = some filledKernel from holder] at hstage
  exact absurd hstage (by decide)

end Sys2Proof.Machine
end
